-- ==== Sys2Proof/Word.lean ====
section
/-! DEFINITION. The word types of the CM40: bytes, media times and identities. A shelf time, or a span of it, is a natural
number of microseconds throughout: the pair seconds.microseconds of R25 is this count divided by 1,000,000 and its remainder
(log 6, DEDUCED, safe). -/

namespace Sys2Proof

/-- One byte on a wire or in a unit. -/
abbrev Byte := BitVec 8

/-- Media time: a 40-bit count of 48 kHz samples that wraps (00_scope.md, "Time"). -/
abbrev MediaTime := BitVec 40

/-- Segment ids, programme ids, seconds counts on a wire: 32 bits (00_scope.md, "Identities"). -/
abbrev Word32 := BitVec 32

end Sys2Proof
end

