-- ==== Sys2Proof/Syntax.lean ====
section
/-! DEFINITION. The commands of the CM40: one constructor per row of spec/opcode_table.json.
The table names no operands; the operands below are what the row's rules say the event carries (log 5, DESIGN CHOICE). -/

namespace Sys2Proof

/-- Which comparisons of the memory check failed, one mark per group of R191. -/
structure CheckReport where
  group1 : Bool
  group2 : Bool
  group3 : Bool
  group4 : Bool
  group5 : Bool
deriving DecidableEq, Repr

/-- The commands (operations and events) of the CM40. -/
inductive Instr
  /-- Power-on or reset-line reset (R190). -/
  | fullReset
  /-- The configuration memory has been read; a byte that did not answer is 0xFF (R188, R189). -/
  | configLoaded (bytes : List Byte)
  /-- The memory check ends (R191). -/
  | memoryCheckDone (failed : CheckReport)
  /-- Two seconds after entry to LISTENING (R190). -/
  | listeningEnd
  /-- One tick of the local oscillator (R25). -/
  | oscillatorTick
  /-- A unit header completes (R1, R2, R4); `bytes` are those examined since the port began to look for it. -/
  | unitHeaderComplete (bytes : List Byte)
  /-- The last payload byte of a queued unit arrives (R3); `payload` is the whole payload. -/
  | payloadComplete (payload : List Byte)
  /-- The head of the input queue is delivered (R7). -/
  | unitDelivery
  /-- The recorded unit's bytes are in stacked DRAM (R100). -/
  | recorderWriteComplete
  /-- A waiting MARK unit is written in its place (R102). -/
  | markUnitWrite
  /-- One second after the last drop (R6). -/
  | overrunExpiry
  /-- 500 ms after the AUDIO_ABSENT reference (R12). -/
  | audioAbsentDeadline
  /-- The quality silence deadline (R14). -/
  | qualitySilenceExpiry
  /-- A 100 ms boundary of the damaged-audio tally (R15). -/
  | tallyBucketBoundary
  /-- Five seconds after the recovery start (R16). -/
  | recoveryExpiry
  /-- A reference history entry reaches 30 s of age (R28). -/
  | historyEntryExpiry
  /-- The reference silence deadline (R29). -/
  | referenceSilenceExpiry
  /-- The holdover deadline (R30). -/
  | holdoverExpiry
  /-- A signal is detected on the shelf line (R122). -/
  | lineBusy
  /-- The shelf line falls quiet (R122); `received` are the bytes received after a delimiter, if a frame was begun. -/
  | lineQuiet (received : List Byte)
  /-- The receiver recognises a delimiter (R122). -/
  | frameStart
  /-- The last CRC byte of a frame arrives (R124); `bytes` are its header, payload and CRC, without the delimiter. -/
  | frameComplete (bytes : List Byte)
  /-- The quiet count has reached the required quiet (R127). -/
  | attemptStart
  /-- A bit difference while CONTENDING (R128). -/
  | collision
  /-- The last header bit has gone out without a difference (R128). -/
  | noticeCommitted
  /-- The last CRC byte has gone out (R128). -/
  | frameSent
  /-- An occupancy bucket's span ends (R133). -/
  | occupancyBucketEnd
  /-- The status timer's next expiry is reached (R139). -/
  | statusTimerExpiry
  /-- The downshift deadline is reached (R140). -/
  | downshiftDeadline
  /-- A peer's stale deadline is reached (R147). -/
  | peerStaleDeadline (station : Byte)
  /-- A peer's removal deadline is reached (R147). -/
  | peerRemovalDeadline (station : Byte)
  /-- The divergence timer expires (R154, R155). -/
  | divergenceExpiry
  /-- A pending verdict's deadline is reached (R163). -/
  | proxyDeadline
  /-- An OPEN hold's interval ends (R110). -/
  | holdIntervalClose (slot : BitVec 5)
  /-- An OPEN hold reaches its maximum length (R111). -/
  | holdMaxLengthExpiry (slot : BitVec 5)
  /-- A pulse end is reached (R178); `line` 0 … 3 is alarm line 1 … 4. -/
  | pulseEnd (line : BitVec 2)
  /-- Chip select rises (R182). -/
  | chipSelectRise
  /-- The last response bit of a reading request has been clocked out (R182). -/
  | readingRequestCommit
  /-- A request byte whose code is not in the table (R181). -/
  | unknownRequest (code : Byte)
  /-- READ_SUMMARY, response formed (R183). -/
  | readSummary
  /-- LOG_NEXT, response formed (R184). -/
  | logNext
  /-- LOG_REWIND, response formed (R184). -/
  | logRewind
  /-- LOG_ACK at its commit point (R174, R186). -/
  | logAck (number : BitVec 16)
  /-- VERDICT_NEXT, response formed (R185). -/
  | verdictNext
  /-- VERDICT_REWIND, response formed (R185). -/
  | verdictRewind
  /-- HOLD_LIST, response formed (R186). -/
  | holdList
  /-- HOLD_PLACE at its commit point (R186). -/
  | holdPlace (fromSeconds fromMicros toSeconds toMicros : Word32)
  /-- HOLD_RELEASE at its commit point (R117, R186). -/
  | holdRelease (slot : Byte)
  /-- UNIT_SEEK, response formed (R187). -/
  | unitSeek (slot : Byte) (seconds micros : Word32)
  /-- UNIT_READ, response formed (R187). -/
  | unitRead
  /-- RESTART at its commit point (R192). -/
  | restart
  /-- Steps 2 to 6 of the restart sequence, on the withdrawal report (R192). -/
  | restartSequence
  /-- Two bytes at an expected header position that are not the delimiter (R2). -/
  | missingDelimiter (first second : Byte)
deriving DecidableEq, Repr

end Sys2Proof
end

