-- ==== Sys2Proof/Config.lean ====
section
/-! DEFINITION. What the configuration record fixes: the types of the working copy (R67, R176, R188).
The manual leaves no result value undefined, so there is no free value here. -/

namespace Sys2Proof.Machine

/-- A class profile (R67), figures in 0.01 LU, peak limit in 0.1 dB. -/
structure ClassProfile where
  target       : Int
  tolerance    : Nat
  margin       : Nat
  peakLimit    : Int
  captionCheck : Bool
deriving DecidableEq, Repr

/-- An alarm line configuration (R176). Bit c - 1 of `mask` is the mark of category code c. -/
structure LineConfig where
  mask       : BitVec 24
  logFull    : Bool
  pulse      : Bool
  activeHigh : Bool
deriving DecidableEq, Repr

/-- The working copy of the configuration record (R188, R189). Times in whole seconds but for the delay in ms. -/
structure WorkingCopy where
  stationNumber  : Nat
  regionGroup    : Byte
  serviceId      : BitVec 16
  referenceDelay : Nat
  programme      : ClassProfile
  advert         : ClassProfile
  promotion      : ClassProfile
  junction       : ClassProfile
  soundThreshold : Int
  gapLimit       : Nat
  stuckLimit     : Nat
  tq             : Nat
  divergenceTime : Nat
  proxyWait      : Nat
  preRoll        : Nat
  postRoll       : Nat
  maxHold        : Nat
  steadyDelay    : Nat
  quietDelay     : Nat
  holdoverLimit  : Nat
  line1          : LineConfig
  line2          : LineConfig
  line3          : LineConfig
  line4          : LineConfig
deriving DecidableEq, Repr

end Sys2Proof.Machine
end

