-- ==== Sys2Proof/Machine/Defaults.lean ====
section
/-! DEFINITION. The built-in defaults of the configuration (R176, R188) and the part's fixed limits. -/

namespace Sys2Proof.Machine

/-- 2^32 - 1, where every 32-bit count holds (R9 and the other counts' rules). -/
def count32Max : Nat := 4294967295

/-- The last shelf time, 4,294,967,295.999,999, where shelf time holds (R25). -/
def shelfMax : Nat := 4294967295999999

/-- The period of a second in microseconds. -/
def second : Nat := 1000000

/-- Most units in the input queue (R5). -/
def inputQueueUnits : Nat := 64

/-- Most payload bytes in the input queue (R5). -/
def inputQueueBytes : Nat := 262144

/-- Pages of stacked DRAM (R98). -/
def pageCount : Nat := 65536

/-- Bytes of a page (R98). -/
def pageBytes : Nat := 65536

/-- The pin budget in pages (R112). -/
def pinBudget : Nat := 61440

/-- The value of the page sequence counter at which no further page is begun (R101). -/
def counterEnd : Nat := 2 ^ 48

/-- Slots of the hold table (R103). -/
def holdSlots : Nat := 32

/-- Most notices in the transmit queue (R130). -/
def transmitQueueMax : Nat := 8

/-- Most peer entries (R143). -/
def peerTableMax : Nat := 15

/-- Most noted-breach entries (R156). -/
def notedMax : Nat := 32

/-- Most records in the breach log (R172). -/
def logMax : Nat := 128

/-- A built-in class profile (R67, R188): only the caption-check enable differs between the classes. -/
def builtInProfile (captionCheck : Bool) : ClassProfile where
  target := -2300
  tolerance := 100
  margin := 500
  peakLimit := -10
  captionCheck := captionCheck

/-- Built-in alarm line 1: LEVEL, the shared categories (codes 1 … 5 and 7) (R176). -/
def builtInLine1 : LineConfig := ⟨0x00005F#24, false, false, false⟩

/-- Built-in alarm line 2: LEVEL, codes 8, 10, 11, 13 and 14 (R176). -/
def builtInLine2 : LineConfig := ⟨0x003680#24, false, false, false⟩

/-- Built-in alarm line 3: PULSE, all eighteen categories (R176). -/
def builtInLine3 : LineConfig := ⟨0x03FFFF#24, false, true, false⟩

/-- Built-in alarm line 4: LEVEL, codes 15, 17 and 18, with LOG_FULL (R176). -/
def builtInLine4 : LineConfig := ⟨0x034000#24, true, false, false⟩

/-- The built-in defaults of every field of the configuration record (R188). -/
def builtInDefaults : WorkingCopy where
  stationNumber := 0
  regionGroup := 0
  serviceId := 0
  referenceDelay := 0
  programme := builtInProfile true
  advert := builtInProfile true
  promotion := builtInProfile true
  junction := builtInProfile false
  soundThreshold := -4500
  gapLimit := 12
  stuckLimit := 30
  tq := 50
  divergenceTime := 10
  proxyWait := 30
  preRoll := 20
  postRoll := 10
  maxHold := 1800
  steadyDelay := 60
  quietDelay := 600
  holdoverLimit := 600
  line1 := builtInLine1
  line2 := builtInLine2
  line3 := builtInLine3
  line4 := builtInLine4

end Sys2Proof.Machine
end

