-- ==== Sys2Proof/Machine/State.lean ====
section
/-! DEFINITION. The state of the CM40, block by block, as plain data, and its value after full reset. Every deadline, time
and start that is not a stamp is a shelf time in microseconds (log 6). -/

namespace Sys2Proof.Machine

/-! ### Reasons to stop: the manual names none, and no meaning uses one. -/

/-- The faults of the model. The manual names no event at which the part stops (FAULT is a station state, R190).
`none` is raised by no meaning; it is here only so that the type has a name (safe). -/
inductive Fault
  /-- Raised by nothing (safe). -/
  | none
deriving DecidableEq, Repr

/-- The refusals of the model. -/
inductive Refusal
  /-- Raised only by an arm of `exec` whose command has no meaning yet (safe). -/
  | notModelled (mnemonic : String)
deriving DecidableEq, Repr

/-! ### Small types -/

/-- The station states (R190). -/
inductive StationState
  | loading | checking | listening | running | listenOnly | fault
deriving DecidableEq, Repr

/-- The time classes, and the source states of the Time Base (R26, section 2.2). -/
inductive TimeClass
  | locked | holdover | peer | free
deriving DecidableEq, Repr

/-- A stamp: a shelf time with its time quality (R26). -/
structure Stamp where
  time       : Nat
  cls        : TimeClass
  correcting : Bool
deriving DecidableEq, Repr

/-- The segment classes (R21). -/
inductive SegClass
  | programme | advert | promotion | junction
deriving DecidableEq, Repr

/-- The scopes (R21). -/
inductive Scope
  | national | regional
deriving DecidableEq, Repr

/-- The reception states (R16). -/
inductive Reception
  | normal | impaired
deriving DecidableEq, Repr

/-- The period classes (R139). -/
inductive PeriodClass
  | alert | steady | quiet
deriving DecidableEq, Repr

/-- The eighteen breach categories, in code order (R167). -/
inductive Category
  | loudnessHigh | loudnessLow | peakExcess | shortTermExcess | captionAbsent | captionStuck | contentDivergent
  | audioAbsent | measurementLost | receptionImpaired | inputOverrun | timeStep | timeDegraded | clockSuspect
  | holdRefused | peerNoted | duplicateStation | configFault
deriving DecidableEq, Repr

/-! ### Start-up Controller -/

/-- The Start-up Controller's state (R189, R190, R192). -/
structure Startup where
  station          : StationState
  listenOnlyMark   : Bool
  configClamped    : Bool
  defaultsInUse    : Bool
  checkResult      : Nat
  config           : WorkingCopy
  listeningSince   : Option Nat
  restarting       : Bool
  withdrawReported : Bool
deriving DecidableEq, Repr

/-! ### Media Port -/

/-- Whether the port is hunting for a delimiter or framed (R1). -/
inductive Framing
  | hunting | framed
deriving DecidableEq, Repr

/-- The kinds of media unit (R2). -/
inductive UnitKind
  | audio | payload | caption | cue | time | quality
deriving DecidableEq, Repr

/-- A unit holding a place in the input queue (R4, R5).
`payload` is absent until the last byte has arrived and passed the payload check (R3).
`noted` is the local count at the arrival stamp (R26); `serial` is the model's admission number (log 24). -/
structure QueuedUnit where
  kind      : UnitKind
  damaged   : Bool
  length    : Nat
  mediaTime : MediaTime
  arrival   : Stamp
  noted     : BitVec 64
  serial    : Nat
  payload   : Option (List Byte)
deriving DecidableEq, Repr

/-- An OPEN overrun run (R6). -/
structure OverrunRun where
  lastDrop : Stamp
  count    : Nat
deriving DecidableEq, Repr

/-- The Media Port with its continuity stage (R1 to R13). -/
structure MediaPort where
  framing         : Framing
  huntByte        : Option Byte
  queue           : List QueuedUnit
  nextSerial      : Nat
  overrun         : Option OverrunRun
  expected        : Option MediaTime
  channels        : Option Nat
  aligning        : Option MediaTime
  audioRef        : Option Stamp
  audioAbsentOpen : Bool
  inputDrops      : Nat
  startDiscards   : Nat
  framingErrors   : Nat
  damaged         : Nat
deriving DecidableEq, Repr

/-! ### Reception Monitor -/

/-- A bucket of the damaged-audio tally (R15). -/
structure TallyBucket where
  accepted : Nat
  damaged  : Nat
deriving DecidableEq, Repr

/-- The Reception Monitor (R14 to R18). `tally` is newest first; its head covers interval `tallyInterval`,
the shelf times from `tallyInterval` times 100 ms (log 26). -/
structure ReceptionMonitor where
  reported        : Nat
  effective       : Nat
  state           : Reception
  grace           : Bool
  recoveryStart   : Option Nat
  lowest          : Option Nat
  silenceDeadline : Option Nat
  tally           : List TallyBucket
  tallyInterval   : Nat
  latch           : Bool
deriving DecidableEq, Repr

/-! ### Segment Tracker -/

/-- A pending cue (R19). -/
structure PendingCue where
  segmentId   : Word32
  programmeId : Word32
  cls         : SegClass
  scope       : Scope
  captions    : Bool
  start       : MediaTime
  arrival     : Stamp
deriving DecidableEq, Repr

/-- One opening of a segment (the manual's segment instance, R48), with the programme opening it is tied to (R60). -/
structure Opening where
  segment   : Nat
  programme : Option Nat
deriving DecidableEq, Repr

/-- The segment record (R21). -/
structure SegmentRecord where
  segmentId   : Word32
  cls         : SegClass
  scope       : Scope
  captions    : Bool
  programmeId : Word32
  startMedia  : Option MediaTime
  startStamp  : Option Stamp
  impaired    : Bool
  endStamp    : Option Stamp
  opening     : Opening
deriving DecidableEq, Repr

/-- The open programme (R22). -/
structure Programme where
  programmeId : Word32
  startStamp  : Stamp
  endStamp    : Option Stamp
  scope       : Scope
  impaired    : Bool
  opening     : Nat
deriving DecidableEq, Repr

/-- The Segment Tracker (R19 to R24). -/
structure SegmentTracker where
  pending     : List PendingCue
  current     : SegmentRecord
  begun       : Bool
  programme   : Option Programme
  nextOpening : Nat
  cueDrops    : Nat
deriving DecidableEq, Repr

/-! ### Time Base -/

/-- An entry of the reference history: a raw value, in microseconds, with the unit's arrival stamp (R28). -/
structure HistoryEntry where
  raw     : Int
  arrival : Stamp
deriving DecidableEq, Repr

/-- An oscillator check window (R38). -/
structure CheckWindow where
  raw        : Int
  prediction : Nat
  arrival    : Stamp
  noted      : BitVec 64
deriving DecidableEq, Repr

/-- The Time Base (R25 to R42). -/
structure TimeBase where
  localCount       : BitVec 64
  shelf            : Nat
  source           : TimeClass
  remaining        : Int
  adjustNext       : Bool
  followed         : Option Byte
  history          : List HistoryEntry
  silenceDeadline  : Option Nat
  holdoverDeadline : Option Nat
  window           : Option CheckWindow
  suspect          : Bool
  largestDeviation : Nat
deriving DecidableEq, Repr

/-! ### Loudness Unit -/

/-- The last two inputs and outputs of a filter section, in multiples of 2^-32 (R46). -/
structure Section where
  in1  : Int
  in2  : Int
  out1 : Int
  out2 : Int
deriving DecidableEq, Repr

/-- The filter state of a channel (R46). -/
structure ChannelFilter where
  shelf    : Section
  highPass : Section
deriving DecidableEq, Repr

/-- The sub-block in progress (R44, R47, R65). `sums` are square sums in multiples of 2^-64, `peaks` the greatest
magnitudes credited in multiples of 2^-27, one per channel in channel order. -/
structure SubBlockInProgress where
  start     : MediaTime
  opening   : Opening
  sums      : List Nat
  peaks     : List Nat
  lastStamp : Stamp
deriving DecidableEq, Repr

/-- A sub-block record (R48). `energy` in multiples of 2^-48, `loudness` in 0.01 LU. -/
structure SubBlock where
  start     : MediaTime
  energy    : Nat
  loudness  : Int
  opening   : Opening
  impaired  : Bool
  lastStamp : Stamp
deriving DecidableEq, Repr

/-- A non-zero bin of a histogram (R62). `energySum` in multiples of 2^-48. -/
structure Bin where
  bin       : Nat
  count     : Nat
  energySum : Nat
deriving DecidableEq, Repr

/-- A measurement context (R60). The histogram lists its non-zero bins in rising order. -/
structure Context where
  opening    : Nat
  histogram  : List Bin
  offered    : Nat
  maxMomentary : Option Int
  maxShortTerm : Option Int
  peaks      : List Nat
  startStamp : Stamp
  endStamp   : Option Stamp
  impaired   : Bool
deriving DecidableEq, Repr

/-- The short-term excess run (R70). -/
structure ExcessRun where
  count : Nat
  start : Option Stamp
  maximum : Option Int
  recordOpen : Bool
deriving DecidableEq, Repr

/-- A second signature (R57). Bit k - 1 of `trend` is trend bit k. -/
structure Signature where
  second   : Word32
  trend    : BitVec 10
  level    : Int
  impaired : Bool
deriving DecidableEq, Repr

/-- The signature accumulator of a media second (R56): per position the sub-block loudness and the outcome of its
trend comparison (R57), or missing. -/
structure SignatureAccumulator where
  second    : MediaTime
  positions : List (Option (Int × Bool))
  impaired  : Bool
deriving DecidableEq, Repr

/-- The Loudness Unit (R43 to R71). -/
structure LoudnessUnit where
  filters      : List ChannelFilter
  peakHistory  : List (List Int)
  inProgress   : Option SubBlockInProgress
  ring         : List SubBlock
  chain        : List SubBlock
  momentary    : Option Int
  shortTerm    : Option Int
  signature    : Option SignatureAccumulator
  lastSub      : Option (MediaTime × Int)
  ownHistory   : List Signature
  segmentCtx   : Option Context
  programmeCtx : Option Context
  peakRaised   : Bool
  excess       : ExcessRun
deriving DecidableEq, Repr

/-! ### Verdict Former -/

/-- Whether a verdict is of a segment or a programme (R73). -/
inductive VerdictKind
  | segment | programme
deriving DecidableEq, Repr

/-- The source of a verdict (R73). -/
inductive VerdictSource
  | own | unmeasured | proxy (station : Byte)
deriving DecidableEq, Repr

/-- The measured figures of a verdict (R73). -/
structure Figures where
  integrated   : Option Int
  maxMomentary : Option Int
  maxShortTerm : Option Int
  maxPeak      : Int
  offered      : Nat
deriving DecidableEq, Repr

/-- A verdict record (R73). `serial` is the model's issue number (log 24), 0 before issue. -/
structure Verdict where
  kind       : VerdictKind
  id         : Word32
  cls        : SegClass
  scope      : Scope
  startStamp : Stamp
  endStamp   : Stamp
  figures    : Figures
  coverage   : Option Nat
  source     : VerdictSource
  impaired   : Bool
  serial     : Nat
deriving DecidableEq, Repr

/-- The Verdict Former's history (R78). -/
structure VerdictFormer where
  history    : List Verdict
  nextSerial : Nat
deriving DecidableEq, Repr

/-! ### Caption Checker -/

/-- A caption timeline entry (R81). -/
structure CaptionEntry where
  presentation : MediaTime
  stop         : Option MediaTime
  textLength   : Nat
  digest       : Option (BitVec 16)
  language     : BitVec 24
deriving DecidableEq, Repr

/-- The digest and language of a shown caption (R83). -/
structure CaptionIdentity where
  digest   : BitVec 16
  language : BitVec 24
deriving DecidableEq, Repr

/-- The checking record of the current segment (R86). -/
structure CheckingRecord where
  opening   : Opening
  segmentId : Word32
  cls       : SegClass
  scope     : Scope
  checked   : Bool
deriving DecidableEq, Repr

/-- The gap timer (R87). -/
structure GapTimer where
  count      : Nat
  runStart   : Option Stamp
  recordOpen : Bool
deriving DecidableEq, Repr

/-- The stuck timer (R89). -/
structure StuckTimer where
  held       : Option CaptionIdentity
  count      : Nat
  runStart   : Option Stamp
  recordOpen : Bool
deriving DecidableEq, Repr

/-- The Caption Checker (R81 to R97). -/
structure CaptionChecker where
  timeline     : List CaptionEntry
  lateCount    : Nat
  pairShown    : Bool
  pairDigest   : BitVec 16
  checking     : Option CheckingRecord
  gap          : GapTimer
  stuck        : StuckTimer
  absentNote   : Bool
  stuckNote    : Bool
  soundCount   : Nat
  coveredCount : Nat
  progSound    : Nat
  progCovered  : Nat
  progChecked  : Bool
deriving DecidableEq, Repr

/-! ### Recorder -/

/-- The kinds of recorded unit (R99). -/
inductive RecordedKind
  | payload | caption | cue | mark
deriving DecidableEq, Repr

/-- A recorded unit (R99). -/
structure RecordedUnit where
  kind      : RecordedKind
  damaged   : Bool
  arrival   : Stamp
  mediaTime : MediaTime
  bytes     : List Byte
deriving DecidableEq, Repr

/-- A page begun at least once since full reset: its descriptor and its contents (R98).
Unit count and fill are computed from `units` (log 31). -/
structure Page where
  index : Nat
  seq   : Nat
  first : Option Stamp
  last  : Option Stamp
  units : List RecordedUnit
  pins  : Nat
deriving DecidableEq, Repr

/-- The priorities of holds (R103). -/
inductive Priority
  | sympathetic | own | controller
deriving DecidableEq, Repr

/-- The flags of a hold (R103). -/
structure HoldFlags where
  prerollShort  : Bool
  truncated     : Bool
  restartCut    : Bool
  evictedOthers : Bool
deriving DecidableEq, Repr

/-- A hold in state OPEN (`isOpen`) or CLOSED (R103). Times are shelf times; `maxLength` is the M in force at
placement (R105), in microseconds. -/
structure Hold where
  isOpen     : Bool
  priority   : Priority
  start      : Nat
  stop       : Option Nat
  first      : Nat
  last       : Option Nat
  pinned     : Nat
  closeStamp : Option Nat
  breach     : Option Nat
  flags      : HoldFlags
  maxLength  : Nat
deriving DecidableEq, Repr

/-- A slot of the hold table (R103): FREE when `hold` is absent. -/
structure HoldSlot where
  tenure : BitVec 16
  hold   : Option Hold
deriving DecidableEq, Repr

/-- A slot with the tenure of the hold it held when named (R104). -/
structure SlotRef where
  slot   : Nat
  tenure : BitVec 16
deriving DecidableEq, Repr

/-- The reasons of MARK units (R102). -/
inductive MarkReason
  | discontinuity | timeStep | restart
deriving DecidableEq, Repr

/-- A waiting MARK request (R102). It is written after every unit admitted with a serial below `place` has been taken or
discarded, and before any other is recorded. `media` is absent where it is read at writing (log 8). -/
structure MarkRequest where
  reason : MarkReason
  stamp  : Stamp
  media  : Option MediaTime
  stepMs : Nat
  before : Option Stamp
  place  : Nat
deriving DecidableEq, Repr

/-- The Recorder (R98 to R121). `pages` lists the pages begun since full reset, by rising physical index. -/
structure Recorder where
  pages       : List Page
  current     : Option Nat
  counter     : Nat
  slots       : List HoldSlot
  pinnedTotal : Nat
  writing     : Option RecordedUnit
  marks       : List MarkRequest
  lastMedia   : MediaTime
deriving DecidableEq, Repr

/-! ### Shelf Link Controller -/

/-- The flags of a BREACH notice (R135). -/
structure NoticeFlags where
  impaired : Bool
  proxy    : Bool
deriving DecidableEq, Repr

/-- The head of a STATUS notice (R132). -/
structure StatusHead where
  serviceId    : BitVec 16
  regionGroup  : Byte
  timeClass    : TimeClass
  correcting   : Bool
  reception    : Reception
  quality      : Byte
  period       : PeriodClass
  segmentId    : Word32
  cls          : SegClass
  scope        : Scope
  commonCount  : Byte
  openBreaches : Byte
deriving DecidableEq, Repr

/-- The tail of a STATUS notice (R132). -/
structure StatusTail where
  shortTerm  : Option Int
  shown      : Bool
  digest     : BitVec 16
  signatures : List Signature
deriving DecidableEq, Repr

/-- The content of a BREACH notice (R135). -/
structure BreachNotice where
  number     : Nat
  category   : Category
  flags      : NoticeFlags
  segmentId  : Word32
  scope      : Scope
  startStamp : Stamp
  endStamp   : Option Stamp
  figure     : Option Int
deriving DecidableEq, Repr

/-- The content of a VERDICT notice (R136). -/
structure VerdictNotice where
  kind       : VerdictKind
  id         : Word32
  cls        : SegClass
  scope      : Scope
  startStamp : Stamp
  endStamp   : Stamp
  figures    : Figures
  coverage   : Option Nat
  impaired   : Bool
deriving DecidableEq, Repr

/-- The content of a notice (section 7.4). -/
inductive Notice
  | status (head : StatusHead) (tail : Option StatusTail)
  | breach (body : BreachNotice)
  | verdict (body : VerdictNotice)
  | withdraw
deriving DecidableEq, Repr

/-- A notice in the transmit queue (R130). `uid` is the model's own number for it; `carried` are the numbers of the
unsent-list entries that a STATUS carries (R134; log 24). -/
structure QueuedNotice where
  uid      : Nat
  notice   : Notice
  attempts : Nat
  carried  : List Nat
deriving DecidableEq, Repr

/-- The transmitter states (section 7.2). -/
inductive Transmitter
  | idle | waiting | contending | committed
deriving DecidableEq, Repr

/-- A frame being received (R122): its frame-start stamp with the noted local count (R26). `overlong` is set once its
header has been judged to state more than 256 bytes (R124). -/
structure FrameRx where
  stamp    : Stamp
  noted    : BitVec 64
  overlong : Bool
deriving DecidableEq, Repr

/-- An entry of the unsent signature list (R134), with the model's number for it (log 24). -/
structure UnsentEntry where
  uid       : Nat
  signature : Signature
deriving DecidableEq, Repr

/-- The Shelf Link Controller (R122 to R142). `occupancy` is newest first. -/
structure ShelfLink where
  queue       : List QueuedNotice
  transmitter : Transmitter
  committed   : Option QueuedNotice
  sendTime    : Nat
  busy        : Bool
  quietCount  : Nat
  rx          : Option FrameRx
  period      : PeriodClass
  statusNext  : Option Nat
  downshift   : Option Nat
  unsent      : List UnsentEntry
  occupancy   : List Nat
  bucketTicks : Nat
  noticeDrops : Nat
  crcErrors   : Nat
  nextUid     : Nat
deriving DecidableEq, Repr

/-! ### Peer Monitor -/

/-- The relation held toward a peer (R143). -/
inductive Relation
  | unknown | common (offset : Int) | apart
deriving DecidableEq, Repr

/-- The fields of a peer entry taken from its last STATUS (R143). -/
structure PeerStatus where
  serviceId   : BitVec 16
  regionGroup : Byte
  timeClass   : TimeClass
  reception   : Reception
  period      : PeriodClass
  cls         : SegClass
  scope       : Scope
  commonCount : Byte
deriving DecidableEq, Repr

/-- A peer entry (R143). -/
structure PeerEntry where
  station   : Byte
  heard     : Bool
  lastHeard : Stamp
  status    : Option PeerStatus
  store     : List Signature
  relation  : Relation
  streak    : Nat
deriving DecidableEq, Repr

/-- A noted-breach entry (R156). -/
structure NotedBreach where
  peer       : Byte
  peerBreach : Nat
  offset     : Int
  ownBreach  : Option Nat
  hold       : Option SlotRef
deriving DecidableEq, Repr

/-- A verdict cache entry (R160). The source of a VERDICT notice is always OWN (R136). -/
structure CacheEntry where
  sender  : Byte
  verdict : VerdictNotice
  arrival : Stamp
deriving DecidableEq, Repr

/-- A pending verdict (R161). -/
structure PendingVerdict where
  verdict  : Verdict
  deadline : Nat
deriving DecidableEq, Repr

/-- The Peer Monitor (R143 to R165). `divergence` is the start stamp of a RUNNING divergence timer. -/
structure PeerMonitor where
  table           : List PeerEntry
  overflow        : Nat
  divergence      : Option Stamp
  divergentOpen   : Bool
  noted           : List NotedBreach
  cache           : List CacheEntry
  pendingVerdicts : List PendingVerdict
deriving DecidableEq, Repr

/-! ### Breach Log and Alarm Line Driver -/

/-- The origin of a breach record (R166). -/
inductive Origin
  | own | peer (station : Byte) (number : Nat)
deriving DecidableEq, Repr

/-- The flags of a breach record (R166). -/
structure RecordFlags where
  impaired      : Bool
  proxy         : Bool
  prerollShort  : Bool
  holdTruncated : Bool
  holdEvicted   : Bool
  peerLost      : Bool
  restartCut    : Bool
deriving DecidableEq, Repr

/-- A breach record (R166). `serial` is the model's creation number (log 24). -/
structure BreachRecord where
  serial     : Nat
  number     : Nat
  category   : Category
  origin     : Origin
  segmentId  : Word32
  cls        : SegClass
  scope      : Scope
  startStamp : Stamp
  endStamp   : Option Stamp
  figure     : Option Int
  hold       : Option SlotRef
  flags      : RecordFlags
  isOpen     : Bool
  acked      : Bool
deriving DecidableEq, Repr

/-- A filled row of the open-cause table (R170). The segment, scope, start and flags are what a closing notice needs
of a cause that was not stored. -/
structure OpenCause where
  category   : Category
  number     : Nat
  stored     : Bool
  hold       : Option SlotRef
  segmentId  : Word32
  scope      : Scope
  startStamp : Stamp
  flags      : NoticeFlags
deriving DecidableEq, Repr

/-- The Breach Log (R166 to R175). `records` stand in creation order. -/
structure BreachLog where
  records    : List BreachRecord
  nextNumber : Nat
  ackPoint   : Nat
  causes     : List OpenCause
  full       : Bool
  overflow   : Nat
  nextSerial : Nat
deriving DecidableEq, Repr

/-- The Alarm Line Driver's pulse ends, lines 1 … 4 (R178). -/
structure AlarmDriver where
  pulseEnds : List (Option Nat)
deriving DecidableEq, Repr

/-! ### Evidence Port -/

/-- A read position (R118): a page sequence number and the number of a unit within that page. -/
structure ReadPosition where
  seq    : Nat
  number : Nat
deriving DecidableEq, Repr

/-- The unit cursor (R187). -/
structure UnitCursor where
  slot     : Nat
  tenure   : BitVec 16
  position : ReadPosition
deriving DecidableEq, Repr

/-- What a transaction will do at its commit point (R182). -/
inductive CommitEffect
  /-- Nothing: the commit point has passed, or the request changes nothing there. -/
  | nothing
  /-- READ_SUMMARY: the ten counts reported, in order (R183). -/
  | summary (counts : List Nat)
  /-- LOG_NEXT that returned the record with this serial (R184). -/
  | logAfter (serial : Nat)
  /-- LOG_REWIND (R184). -/
  | logOldest
  /-- VERDICT_NEXT that returned the entry with this serial (R185). -/
  | verdictAfter (serial : Nat)
  /-- VERDICT_REWIND (R185). -/
  | verdictOldest
  /-- UNIT_SEEK that found the slot held: the cursor with the position seen at forming, and the time sought (R187). -/
  | seek (cursor : UnitCursor) (time : Nat)
  /-- UNIT_READ that returned a unit: the position after it (R187). -/
  | position (next : ReadPosition)
deriving DecidableEq, Repr

/-- The transaction in progress (R181, R182): the response formed, the byte clocked out after it, and what is left for
the commit point. -/
structure Transaction where
  response : List Byte
  fill     : Byte
  commit   : CommitEffect
deriving DecidableEq, Repr

/-- The Evidence Port (R181 to R187). Cursors name records and verdicts by the model's serials; absent is AT_END. -/
structure EvidencePort where
  logCursor     : Option Nat
  verdictCursor : Option Nat
  unitCursor    : Option UnitCursor
  txn           : Option Transaction
deriving DecidableEq, Repr

/-! ### The whole -/

/-- The state of the CM40, with the queue of commands that wait, first in first out. -/
structure State where
  pending   : List Instr
  startup   : Startup
  port      : MediaPort
  reception : ReceptionMonitor
  segments  : SegmentTracker
  time      : TimeBase
  loudness  : LoudnessUnit
  verdicts  : VerdictFormer
  captions  : CaptionChecker
  recorder  : Recorder
  link      : ShelfLink
  peers     : PeerMonitor
  log       : BreachLog
  alarms    : AlarmDriver
  evidence  : EvidencePort
deriving DecidableEq, Repr

/-! ### Full reset -/

/-- The Start-up Controller after full reset (R189, R190). -/
def Startup.reset : Startup where
  station := .loading
  listenOnlyMark := false
  configClamped := false
  defaultsInUse := false
  checkResult := 0
  config := builtInDefaults
  listeningSince := none
  restarting := false
  withdrawReported := false

/-- The Media Port after full reset (R13). -/
def MediaPort.reset : MediaPort where
  framing := .hunting
  huntByte := none
  queue := []
  nextSerial := 0
  overrun := none
  expected := none
  channels := none
  aligning := none
  audioRef := none
  audioAbsentOpen := false
  inputDrops := 0
  startDiscards := 0
  framingErrors := 0
  damaged := 0

/-- The Reception Monitor after full reset and after restart (R18), its tally starting at the given interval. -/
def ReceptionMonitor.resetAt (interval : Nat) : ReceptionMonitor where
  reported := 0
  effective := 0
  state := .normal
  grace := true
  recoveryStart := none
  lowest := none
  silenceDeadline := none
  tally := List.replicate 10 ⟨0, 0⟩
  tallyInterval := interval
  latch := false

/-- The unannounced segment before the first grid-point event (R21, R24). -/
def SegmentRecord.unannounced : SegmentRecord where
  segmentId := 0
  cls := .programme
  scope := .regional
  captions := false
  programmeId := 0
  startMedia := none
  startStamp := none
  impaired := false
  endStamp := none
  opening := ⟨0, none⟩

/-- The Segment Tracker after full reset (R24). -/
def SegmentTracker.reset : SegmentTracker where
  pending := []
  current := .unannounced
  begun := false
  programme := none
  nextOpening := 0
  cueDrops := 0

/-- The Time Base after full reset (R41). -/
def TimeBase.reset : TimeBase where
  localCount := 0
  shelf := 0
  source := .free
  remaining := 0
  adjustNext := false
  followed := none
  history := []
  silenceDeadline := none
  holdoverDeadline := none
  window := none
  suspect := false
  largestDeviation := 0

/-- The short-term excess run at its opening values (R70). -/
def ExcessRun.initial : ExcessRun := ⟨0, none, none, false⟩

/-- The Loudness Unit after full reset and after restart (R59, R79, R80). -/
def LoudnessUnit.reset : LoudnessUnit where
  filters := []
  peakHistory := []
  inProgress := none
  ring := []
  chain := []
  momentary := none
  shortTerm := none
  signature := none
  lastSub := none
  ownHistory := []
  segmentCtx := none
  programmeCtx := none
  peakRaised := false
  excess := .initial

/-- The verdict history after full reset (R79). -/
def VerdictFormer.reset : VerdictFormer := ⟨[], 0⟩

/-- The gap timer at 0 (R86, R97). -/
def GapTimer.zero : GapTimer := ⟨0, none, false⟩

/-- The stuck timer cleared (R86, R97). -/
def StuckTimer.zero : StuckTimer := ⟨none, 0, none, false⟩

/-- The Caption Checker after full reset (R97). -/
def CaptionChecker.reset : CaptionChecker where
  timeline := []
  lateCount := 0
  pairShown := false
  pairDigest := 0
  checking := none
  gap := .zero
  stuck := .zero
  absentNote := false
  stuckNote := false
  soundCount := 0
  coveredCount := 0
  progSound := 0
  progCovered := 0
  progChecked := false

/-- The Recorder after full reset (R98, R103, R120). -/
def Recorder.reset : Recorder where
  pages := []
  current := none
  counter := 1
  slots := List.replicate holdSlots ⟨0, none⟩
  pinnedTotal := 0
  writing := none
  marks := []
  lastMedia := 0

/-- The Shelf Link Controller after full reset (R142). -/
def ShelfLink.reset : ShelfLink where
  queue := []
  transmitter := .idle
  committed := none
  sendTime := 0
  busy := false
  quietCount := 0
  rx := none
  period := .alert
  statusNext := none
  downshift := none
  unsent := []
  occupancy := List.replicate 10 0
  bucketTicks := 0
  noticeDrops := 0
  crcErrors := 0
  nextUid := 0

/-- The Peer Monitor after full reset (R165). -/
def PeerMonitor.reset : PeerMonitor where
  table := []
  overflow := 0
  divergence := none
  divergentOpen := false
  noted := []
  cache := []
  pendingVerdicts := []

/-- The Breach Log after full reset (R179). -/
def BreachLog.reset : BreachLog where
  records := []
  nextNumber := 1
  ackPoint := 0
  causes := []
  full := false
  overflow := 0
  nextSerial := 0

/-- The Alarm Line Driver after full reset (R179). -/
def AlarmDriver.reset : AlarmDriver := ⟨[none, none, none, none]⟩

/-- The Evidence Port after full reset (R184, R185, R187). -/
def EvidencePort.reset : EvidencePort where
  logCursor := none
  verdictCursor := none
  unitCursor := none
  txn := none

/-- The machine right after full reset (R190), with no command waiting. -/
def State.reset : State where
  pending := []
  startup := .reset
  port := .reset
  reception := .resetAt 0
  segments := .reset
  time := .reset
  loudness := .reset
  verdicts := .reset
  captions := .reset
  recorder := .reset
  link := .reset
  peers := .reset
  log := .reset
  alarms := .reset
  evidence := .reset

/-! ### One update per block -/

def State.setPending (s : State) (x : List Instr) : State := { s with pending := x }
def State.setStartup (s : State) (x : Startup) : State := { s with startup := x }
def State.setPort (s : State) (x : MediaPort) : State := { s with port := x }
def State.setReception (s : State) (x : ReceptionMonitor) : State := { s with reception := x }
def State.setSegments (s : State) (x : SegmentTracker) : State := { s with segments := x }
def State.setTime (s : State) (x : TimeBase) : State := { s with time := x }
def State.setLoudness (s : State) (x : LoudnessUnit) : State := { s with loudness := x }
def State.setVerdicts (s : State) (x : VerdictFormer) : State := { s with verdicts := x }
def State.setCaptions (s : State) (x : CaptionChecker) : State := { s with captions := x }
def State.setRecorder (s : State) (x : Recorder) : State := { s with recorder := x }
def State.setLink (s : State) (x : ShelfLink) : State := { s with link := x }
def State.setPeers (s : State) (x : PeerMonitor) : State := { s with peers := x }
def State.setLog (s : State) (x : BreachLog) : State := { s with log := x }
def State.setAlarms (s : State) (x : AlarmDriver) : State := { s with alarms := x }
def State.setEvidence (s : State) (x : EvidencePort) : State := { s with evidence := x }

end Sys2Proof.Machine
end

