-- ==== Sys2Proof/Machine/Ops.lean ====
section
/-! DEFINITION. The named operations every block uses: counts, shelf and media time, bytes, the CRC and the reads of
state that several blocks share. -/

namespace Sys2Proof.Machine

/-! ### Counts and times -/

/-- A 32-bit count that holds at its maximum (R9, R19, R82, R142, R144, R172). -/
def addCount (n k : Nat) : Nat := min (n + k) count32Max

/-- A shelf time moved later, limited to the last shelf time (R25, R105, R109). -/
def shelfAdd (t d : Nat) : Nat := min (t + d) shelfMax

/-- A shelf time shifted by a signed span and limited to 0.0 … 4,294,967,295.999,999 (R157). -/
def shelfShift (t : Nat) (d : Int) : Nat := min ((t : Int) + d).toNat shelfMax

/-- The seconds of a shelf time (R25). -/
def secondsOf (t : Nat) : Nat := t / second

/-- The microseconds of a shelf time (R25). -/
def microsOf (t : Nat) : Nat := t % second

/-- Whether a deadline that may be absent has been reached. -/
def reached (deadline : Option Nat) (now : Nat) : Bool :=
  match deadline with
  | none => false
  | some d => d ≤ now

/-- The difference of two media times modulo 2^40, in −2^39 … 2^39 − 1 (00_scope.md, "Time"; R10, R19, R82). -/
def mediaDiff (a b : MediaTime) : Int := (a - b).toInt

/-- Whether a media time is a grid point (00_scope.md, "Time"). -/
def isGridPoint (t : MediaTime) : Bool := t.toNat % 4800 == 0

/-- The first grid point at or after a media time (R11); past the last grid point below the wrap it is 0 (R47). -/
def gridPointFrom (t : MediaTime) : MediaTime :=
  let k := (t.toNat + 4799) / 4800 * 4800
  if k < 2 ^ 40 then BitVec.ofNat 40 k else 0

/-- The number of positions of the sub-block that starts at a grid point: 2,176 at the wrap, else 4,800 (R47). -/
def subBlockLength (start : MediaTime) : Nat := min 4800 (2 ^ 40 - start.toNat)

/-- The media time at which the media second holding `t` begins (R56). -/
def mediaSecondOf (t : MediaTime) : MediaTime := BitVec.ofNat 40 (t.toNat / 48000 * 48000)

/-- Whether a media time is the start of a media second (00_scope.md, "Time"). -/
def isMediaSecond (t : MediaTime) : Bool := t.toNat % 48000 == 0

/-! ### Lists -/

/-- The newest `n` elements of a list kept oldest first. -/
def newest {α : Type} (n : Nat) (l : List α) : List α := l.drop (l.length - n)

/-- Places `x` before the first element for which `later` holds, so after all those that stay ahead of it. -/
def placeBefore {α : Type} (later : α → Bool) (x : α) : List α → List α
  | [] => [x]
  | y :: ys => if later y then x :: y :: ys else y :: placeBefore later x ys

/-- Changes the element at a position, if there is one. -/
def changeAt {α : Type} (f : α → α) : Nat → List α → List α
  | _, [] => []
  | 0, y :: ys => f y :: ys
  | n + 1, y :: ys => y :: changeAt f n ys

/-- The element with the least key, the first of those that share it. -/
def leastBy {α : Type} (key : α → Nat) : List α → Option α
  | [] => none
  | x :: xs =>
    match leastBy key xs with
    | none => some x
    | some y => if key x ≤ key y then some x else some y

/-- Sorts by a key, keeping the order of equal keys. -/
def sortBy {α : Type} (key : α → Nat) : List α → List α
  | [] => []
  | x :: xs => placeBefore (fun y => key x ≤ key y) x (sortBy key xs)

/-! ### Bytes -/

/-- The number that bytes spell, most significant byte first (R1, R122, R181). -/
def beNat (bytes : List Byte) : Nat := bytes.foldl (fun acc b => acc * 256 + b.toNat) 0

/-- `count` bytes spelling a number, most significant byte first (R1, R122, R181). -/
def beBytes : Nat → Nat → List Byte
  | 0, _ => []
  | k + 1, n => BitVec.ofNat 8 (n / 256 ^ k) :: beBytes k n

/-- The number in the `count` bytes from position `at_`. -/
def natAt (bytes : List Byte) (at_ count : Nat) : Nat := beNat ((bytes.drop at_).take count)

/-- The two's complement number of `bits` bits. -/
def signedOf (bits n : Nat) : Int := (BitVec.ofNat bits n).toInt

/-- The two's complement number in the `count` bytes from position `at_`. -/
def intAt (bytes : List Byte) (at_ count : Nat) : Int := signedOf (8 * count) (natAt bytes at_ count)

/-- `count` bytes spelling a number in two's complement. -/
def signedBytes (count : Nat) (i : Int) : List Byte := beBytes count (BitVec.ofInt (8 * count) i).toNat

/-- The byte at a position, or 0 past the end. -/
def byteAt (bytes : List Byte) (at_ : Nat) : Byte := bytes.getD at_ 0

/-- A mark as bit `k` of a byte. -/
def markBit (k : Nat) (b : Bool) : Nat := if b then 2 ^ k else 0

/-! ### The CRC of R123 -/

/-- One bit of the division by x^16 + x^12 + x^5 + 1. -/
def crcBit (crc : BitVec 16) : BitVec 16 :=
  if crc.msb then (crc <<< 1) ^^^ 0x1021#16 else crc <<< 1

/-- One byte, most significant bit first. -/
def crcByte (crc : BitVec 16) (b : Byte) : BitVec 16 :=
  let c := crc ^^^ (b.setWidth 16 <<< 8)
  crcBit (crcBit (crcBit (crcBit (crcBit (crcBit (crcBit (crcBit c)))))))

/-- The CRC-16 of R123: starting value 0xFFFF, no final inversion. -/
def crc16 (bytes : List Byte) : BitVec 16 := bytes.foldl crcByte 0xFFFF#16

/-! ### Codes -/

/-- The class number of a time class (R26). -/
def TimeClass.number : TimeClass → Nat
  | .locked => 1 | .holdover => 2 | .peer => 3 | .free => 4

/-- The code of a segment class (R3, R132). -/
def SegClass.code : SegClass → Nat
  | .programme => 1 | .advert => 2 | .promotion => 3 | .junction => 4

/-- The code of a scope (R3, R132). -/
def Scope.code : Scope → Nat
  | .national => 1 | .regional => 2

/-- The code of a reception state (R132). -/
def Reception.code : Reception → Nat
  | .normal => 1 | .impaired => 2

/-- The code of a period class (R132). -/
def PeriodClass.code : PeriodClass → Nat
  | .alert => 1 | .steady => 2 | .quiet => 3

/-- The STATUS period of a period class (R139). -/
def PeriodClass.period : PeriodClass → Nat
  | .alert => second | .steady => 4 * second | .quiet => 16 * second

/-- The number of a hold priority (R103). -/
def Priority.number : Priority → Nat
  | .sympathetic => 1 | .own => 2 | .controller => 3

/-- The code of a category (R167). -/
def Category.code : Category → Nat
  | .loudnessHigh => 1 | .loudnessLow => 2 | .peakExcess => 3 | .shortTermExcess => 4 | .captionAbsent => 5
  | .captionStuck => 6 | .contentDivergent => 7 | .audioAbsent => 8 | .measurementLost => 9
  | .receptionImpaired => 10 | .inputOverrun => 11 | .timeStep => 12 | .timeDegraded => 13 | .clockSuspect => 14
  | .holdRefused => 15 | .peerNoted => 16 | .duplicateStation => 17 | .configFault => 18

/-- Whether a category retains evidence by an OWN hold (R167). -/
def Category.retains : Category → Bool
  | .loudnessHigh | .loudnessLow | .peakExcess | .shortTermExcess | .captionAbsent | .captionStuck
  | .contentDivergent | .audioAbsent => true
  | .measurementLost | .receptionImpaired | .inputOverrun | .timeStep | .timeDegraded | .clockSuspect
  | .holdRefused | .peerNoted | .duplicateStation | .configFault => false

/-- Whether a category is shared with peers (R167). -/
def Category.shared : Category → Bool
  | .loudnessHigh | .loudnessLow | .peakExcess | .shortTermExcess | .captionAbsent | .contentDivergent => true
  | .captionStuck | .audioAbsent | .measurementLost | .receptionImpaired | .inputOverrun | .timeStep
  | .timeDegraded | .clockSuspect | .holdRefused | .peerNoted | .duplicateStation | .configFault => false

/-- Whether a category has a row of the open-cause table: the ten open/close categories of origin OWN (R167, R170). -/
def Category.hasCause : Category → Bool
  | .peakExcess | .shortTermExcess | .captionAbsent | .captionStuck | .contentDivergent | .audioAbsent
  | .receptionImpaired | .inputOverrun | .timeDegraded | .clockSuspect => true
  | .loudnessHigh | .loudnessLow | .measurementLost | .timeStep | .holdRefused | .peerNoted | .duplicateStation
  | .configFault => false

/-! ### Reads of the state that blocks share -/

/-- Shelf time now. -/
def State.now (s : State) : Nat := s.time.shelf

/-- The CORRECTING flag: the remaining offset's magnitude is 20,000 µs or more (R26). -/
def TimeBase.correcting (t : TimeBase) : Bool := 20000 ≤ t.remaining.natAbs

/-- A stamp taken now (R26). -/
def State.nowStamp (s : State) : Stamp := ⟨s.time.shelf, s.time.source, s.time.correcting⟩

/-- Whether the measuring and link blocks run: LISTENING, RUNNING or LISTEN_ONLY (R59, R96, R122, R164). -/
def State.live (s : State) : Bool :=
  match s.startup.station with
  | .listening | .running | .listenOnly => true
  | .loading | .checking | .fault => false

/-- The configuration in force (R189). -/
def State.config (s : State) : WorkingCopy := s.startup.config

/-- The class profile of a segment class (R67). -/
def WorkingCopy.profile (c : WorkingCopy) : SegClass → ClassProfile
  | .programme => c.programme | .advert => c.advert | .promotion => c.promotion | .junction => c.junction

/-- The peer entry with a station number (R144). -/
def State.peer? (s : State) (station : Byte) : Option PeerEntry :=
  s.peers.table.find? (fun e => e.station == station)

/-- Changes the peer entry with a station number. -/
def PeerMonitor.change (p : PeerMonitor) (station : Byte) (f : PeerEntry → PeerEntry) : PeerMonitor :=
  { p with table := p.table.map (fun e => if e.station == station then f e else e) }

/-- Whether the station's own segment scope condition of R153 holds for a peer's STATUS fields. -/
def scopeAgrees (own : Scope) (region : Byte) (p : PeerStatus) : Bool :=
  match own with
  | .national => p.scope == .national
  | .regional => p.regionGroup == region

/-- Whether a peer is an expected companion now (R153). -/
def State.isCompanion (s : State) (e : PeerEntry) : Bool :=
  match e.status with
  | none => false
  | some p =>
    e.heard && p.serviceId == s.config.serviceId && p.reception == .normal
      && scopeAgrees s.segments.current.scope s.config.regionGroup p

/-- The expected companions (R153). -/
def State.companions (s : State) : List PeerEntry := s.peers.table.filter s.isCompanion

/-- Whether a relation is COMMON, with any offset. -/
def Relation.isCommon : Relation → Bool
  | .common _ => true
  | .unknown | .apart => false

/-- The common count: the expected companions held COMMON (R153). -/
def State.commonCount (s : State) : Nat := (s.companions.filter (fun e => e.relation.isCommon)).length

/-- The open-breach count: the stored records in state OPEN (R175). -/
def State.openBreaches (s : State) : Nat := (s.log.records.filter (fun r => r.isOpen)).length

end Sys2Proof.Machine
end

