-- ==== Sys2Proof/Machine/Flags.lean ====
section
/-! DEFINITION. Flags and marks computed from the state: the alarm lines (R176 to R178), the pulses and the
acknowledged and OPEN tests they rest on. -/

namespace Sys2Proof.Machine

/-- The configuration of alarm line 1 … 4, numbered 0 … 3 (R176). -/
def WorkingCopy.line (c : WorkingCopy) : Nat → LineConfig
  | 0 => c.line1 | 1 => c.line2 | 2 => c.line3 | _ => c.line4

/-- Whether a line's mask holds a category (R176, R188: bit c − 1 for category code c). -/
def LineConfig.watches (l : LineConfig) (c : Category) : Bool := l.mask.getLsbD (c.code - 1)

/-- The condition of a LEVEL line outside FAULT (R177). -/
def State.levelCondition (s : State) (l : LineConfig) : Bool :=
  s.log.records.any (fun r => l.watches r.category && (r.isOpen || !r.acked)) || (l.logFull && s.log.full)

/-- Whether alarm line `i` (0 … 3) is asserted (R177, R178); it is taken as deasserted until the end of LOADING. -/
def State.lineAsserted (s : State) (i : Nat) : Bool :=
  match s.startup.station with
  | .loading => false
  | .fault => true
  | .checking | .listening | .running | .listenOnly =>
    let l := s.config.line i
    if l.pulse then (s.alarms.pulseEnds.getD i none).isSome else s.levelCondition l

/-- Whether alarm line `i` is driven low (R176): a released line is not, and in LOADING every line is released. -/
def State.lineDrivenLow (s : State) (i : Nat) : Bool :=
  match s.startup.station with
  | .loading => false
  | .checking | .listening | .running | .listenOnly | .fault =>
    if (s.config.line i).activeHigh then !s.lineAsserted i else s.lineAsserted i

/-- Triggers the pulse of every PULSE line that `watch` picks (R178): its end becomes now plus 100 ms.
In FAULT no pulse end is kept. -/
def State.triggerPulses (s : State) (watch : LineConfig → Bool) : State :=
  if s.startup.station = .fault then s else
    s.setAlarms ⟨s.alarms.pulseEnds.mapIdx (fun i e =>
      if (s.config.line i).pulse && watch (s.config.line i) then some (s.now + 100000) else e)⟩

/-- The pulses a creation request triggers (R178). -/
def State.pulseForCategory (s : State) (c : Category) : State := s.triggerPulses (fun l => l.watches c)

/-- The pulses that LOG_FULL coming to stand triggers (R178). -/
def State.pulseForLogFull (s : State) : State := s.triggerPulses (fun l => l.logFull)

/-- PULSE_END (R178): when shelf time has reached the line's pulse end, it becomes absent. -/
def State.endPulse (s : State) (i : Nat) : State :=
  if reached (s.alarms.pulseEnds.getD i none) s.now then
    s.setAlarms ⟨changeAt (fun _ => none) i s.alarms.pulseEnds⟩
  else s

/-- PULSE_END: shelf time reaches a line's pulse end (R178). -/
def execPulseEnd (line : BitVec 2) (s : State) : Host.Outcome State Fault Refusal :=
  .next (s.endPulse line.toNat)

end Sys2Proof.Machine
end

