-- ==== Sys2Proof/Machine/Operands.lean ====
section
/-! DEFINITION. Every byte format a partner sees: the media unit header and payloads (R1 to R3), the shelf frame and its
notices (R123, R124, R132 to R137), the configuration record (R188, R189) and the layouts of the evidence port (R182 to
R187). -/

namespace Sys2Proof.Machine

/-! ### Codes read -/

/-- The segment class of a code (R3, R132). -/
def SegClass.ofCode? : Nat → Option SegClass
  | 1 => some .programme | 2 => some .advert | 3 => some .promotion | 4 => some .junction | _ => none

/-- The scope of a code (R3, R132). -/
def Scope.ofCode? : Nat → Option Scope
  | 1 => some .national | 2 => some .regional | _ => none

/-- The time class of a class number (R26). -/
def TimeClass.ofNumber? : Nat → Option TimeClass
  | 1 => some .locked | 2 => some .holdover | 3 => some .peer | 4 => some .free | _ => none

/-- The reception state of a code (R132). -/
def Reception.ofCode? : Nat → Option Reception
  | 1 => some .normal | 2 => some .impaired | _ => none

/-- The period class of a code (R132). -/
def PeriodClass.ofCode? : Nat → Option PeriodClass
  | 1 => some .alert | 2 => some .steady | 3 => some .quiet | _ => none

/-- The shared category of a code, the only ones valid in a BREACH notice (R135). -/
def Category.ofSharedCode? : Nat → Option Category
  | 1 => some .loudnessHigh | 2 => some .loudnessLow | 3 => some .peakExcess | 4 => some .shortTermExcess
  | 5 => some .captionAbsent | 7 => some .contentDivergent | _ => none

/-- The kind of a media unit's kind code (R2). -/
def UnitKind.ofCode? : Nat → Option UnitKind
  | 1 => some .audio | 2 => some .payload | 3 => some .caption | 4 => some .cue | 5 => some .time
  | 6 => some .quality | _ => none

/-! ### The media unit (R1 to R3) -/

/-- The fields of a media unit header (R1). -/
structure UnitHeader where
  kindCode  : Nat
  damaged   : Bool
  length    : Nat
  mediaTime : MediaTime
deriving DecidableEq, Repr

/-- Reads a 16-byte header (R1). -/
def readUnitHeader (h : List Byte) : UnitHeader where
  kindCode := (byteAt h 2).toNat
  damaged := (byteAt h 3).getLsbD 0
  length := natAt h 4 2
  mediaTime := BitVec.ofNat 40 (natAt h 6 5)

/-- Whether a payload length is permitted for a kind (R2). -/
def lengthPermitted : UnitKind → Nat → Bool
  | .audio, n => 7 ≤ n && n ≤ 34564
  | .payload, n => 1 ≤ n && n ≤ 16384
  | .caption, n => 12 ≤ n && n ≤ 268
  | .cue, n => n == 16
  | .time, n => n == 6
  | .quality, n => n == 2

/-- The kind of a header that passes the framing check (R2), or none. -/
def framedKind (h : UnitHeader) : Option UnitKind :=
  match UnitKind.ofCode? h.kindCode with
  | none => none
  | some k => if lengthPermitted k h.length then some k else none

/-- Looks for the delimiter bytes one byte at a time and answers the header that begins with them, when exactly its
sixteen bytes are left (R1, hunting). -/
def huntHeader : List Byte → Option (List Byte)
  | [] => none
  | b :: rest =>
    if b == 0xB4 && byteAt rest 0 == 0x4B && 1 ≤ rest.length then
      if rest.length == 15 then some (b :: rest) else none
    else huntHeader rest

/-- The channel count of an AUDIO payload (R3). -/
def audioChannels (p : List Byte) : Nat := (byteAt p 0).toNat

/-- The sample count per channel of an AUDIO payload (R3). -/
def audioSamples (p : List Byte) : Nat := natAt p 2 2

/-- Whether the payload agrees with the layout of its kind (R3). -/
def payloadWellFormed (k : UnitKind) (p : List Byte) : Bool :=
  match k with
  | .audio =>
    (audioChannels p == 1 || audioChannels p == 2 || audioChannels p == 6)
      && 1 ≤ audioSamples p && audioSamples p ≤ 1920
      && p.length == 4 + 3 * audioChannels p * audioSamples p
  | .payload => true
  | .caption => natAt p 10 2 ≤ 256 && natAt p 10 2 + 12 == p.length
  | .cue => (SegClass.ofCode? (byteAt p 8).toNat).isSome && (Scope.ofCode? (byteAt p 9).toNat).isSome
  | .time => natAt p 4 2 ≤ 999
  | .quality => (byteAt p 0).toNat ≤ 100

/-- The next `n` 24-bit samples of a byte list. -/
def takeSamples : Nat → List Byte → List Int
  | 0, _ => []
  | n + 1, bytes => intAt bytes 0 3 :: takeSamples n (bytes.drop 3)

/-- The sample positions of an AUDIO payload, each with one sample per channel in channel order (R3). -/
def audioPositions (channels : Nat) : Nat → List Byte → List (List Int)
  | 0, _ => []
  | n + 1, bytes => takeSamples channels bytes :: audioPositions channels n (bytes.drop (3 * channels))

/-- The sample positions carried by an AUDIO payload (R3, R43). -/
def readAudio (p : List Byte) : List (List Int) := audioPositions (audioChannels p) (audioSamples p) (p.drop 4)

/-- Reads a CUE payload (R3) with its arrival stamp (R19). The programme id is kept as carried (R21 uses it). -/
def readCue (p : List Byte) (arrival : Stamp) : PendingCue where
  segmentId := BitVec.ofNat 32 (natAt p 0 4)
  programmeId := BitVec.ofNat 32 (natAt p 4 4)
  cls := (SegClass.ofCode? (byteAt p 8).toNat).getD .programme
  scope := (Scope.ofCode? (byteAt p 9).toNat).getD .national
  captions := (byteAt p 10).getLsbD 0
  start := BitVec.ofNat 40 (natAt p 11 5)
  arrival := arrival

/-- Forms a timeline entry from a CAPTION payload (R3, R81). -/
def readCaption (p : List Byte) : CaptionEntry :=
  let presentation := BitVec.ofNat 40 (natAt p 0 5)
  let duration := natAt p 5 2
  let length := natAt p 10 2
  { presentation := presentation
    stop := if duration = 0 then none else some (presentation + BitVec.ofNat 40 (48 * duration))
    textLength := length
    digest := if length = 0 then none else some (crc16 ((p.drop 12).take length))
    language := BitVec.ofNat 24 (natAt p 7 3) }

/-- The reference time of a TIME payload, in microseconds (R3, R27). -/
def readReference (p : List Byte) : Nat := natAt p 0 4 * second + natAt p 4 2 * 1000

/-- The reported quality a QUALITY payload gives: its value when the receiver-locked flag is 1, else 0 (R3, R14). -/
def readQuality (p : List Byte) : Nat := if (byteAt p 1).getLsbD 0 then (byteAt p 0).toNat else 0

/-! ### Stamps on a wire (R132, R135) -/

/-- The time quality byte (R132 byte 3). -/
def qualityByte (c : TimeClass) (correcting : Bool) : Byte := BitVec.ofNat 8 (c.number + markBit 7 correcting)

/-- A shelf time in 8 bytes (R182). -/
def timeBytes (t : Nat) : List Byte := beBytes 4 (secondsOf t) ++ beBytes 4 (microsOf t)

/-- A stamp in 9 bytes (R135 bytes 9 … 17, R182). -/
def stampBytes (t : Stamp) : List Byte := timeBytes t.time ++ [qualityByte t.cls t.correcting]

/-- A stamp that may be absent: all zero then (R135). -/
def stampBytes? : Option Stamp → List Byte
  | none => List.replicate 9 0
  | some t => stampBytes t

/-- A shelf time read from 8 bytes; microseconds above 999,999 carry into the count (log 17). -/
def readTime (bytes : List Byte) (at_ : Nat) : Nat := natAt bytes at_ 4 * second + natAt bytes (at_ + 4) 4

/-- A stamp read from 9 bytes, or none when its class is no class (R124, log 16). -/
def readStamp? (bytes : List Byte) (at_ : Nat) : Option Stamp :=
  match TimeClass.ofNumber? ((byteAt bytes (at_ + 8)).toNat % 8) with
  | none => none
  | some c => some ⟨readTime bytes at_, c, (byteAt bytes (at_ + 8)).getLsbD 7⟩

/-- A loudness that may be NONE in two bytes: −32,768 for NONE (R132, R136). -/
def loudnessBytes : Option Int → List Byte
  | none => [0x80, 0x00]
  | some x => signedBytes 2 x

/-- A loudness read from two bytes (R132, R136). -/
def readLoudness? (bytes : List Byte) (at_ : Nat) : Option Int :=
  if intAt bytes at_ 2 = -32768 then none else some (intAt bytes at_ 2)

/-! ### Notices (R132 to R137) -/

/-- The 15 bytes of a STATUS head (R132). -/
def statusHeadBytes (h : StatusHead) : List Byte :=
  beBytes 2 h.serviceId.toNat ++ [h.regionGroup, qualityByte h.timeClass h.correcting, BitVec.ofNat 8 h.reception.code,
    h.quality, BitVec.ofNat 8 h.period.code] ++ beBytes 4 h.segmentId.toNat
    ++ [BitVec.ofNat 8 h.cls.code, BitVec.ofNat 8 h.scope.code, h.commonCount, h.openBreaches]

/-- The 8 bytes of a signature (R132). -/
def signatureBytes (g : Signature) : List Byte :=
  beBytes 4 g.second.toNat ++ beBytes 2 g.trend.toNat ++ signedBytes 1 g.level ++ [BitVec.ofNat 8 (markBit 0 g.impaired)]

/-- The bytes of a STATUS tail (R132). -/
def statusTailBytes (t : StatusTail) : List Byte :=
  loudnessBytes t.shortTerm ++ [BitVec.ofNat 8 (markBit 0 t.shown)] ++ beBytes 2 t.digest.toNat
    ++ [BitVec.ofNat 8 t.signatures.length] ++ (t.signatures.map signatureBytes).flatten

/-- The 29 bytes of a BREACH notice (R135). -/
def breachBytes (b : BreachNotice) : List Byte :=
  beBytes 2 b.number
    ++ [BitVec.ofNat 8 b.category.code,
        BitVec.ofNat 8 (markBit 0 b.endStamp.isSome + markBit 1 b.figure.isSome + markBit 2 b.flags.impaired
          + markBit 3 b.flags.proxy)]
    ++ beBytes 4 b.segmentId.toNat ++ [BitVec.ofNat 8 b.scope.code] ++ stampBytes b.startStamp
    ++ stampBytes? b.endStamp ++ signedBytes 2 (b.figure.getD 0)

/-- The code of a verdict's kind (R136). -/
def VerdictKind.code : VerdictKind → Nat
  | .segment => 1 | .programme => 2

/-- Bytes 0 … 38 of a VERDICT notice, which the evidence port shares (R136, R185). -/
def verdictBodyBytes (kind : VerdictKind) (id : Word32) (cls : SegClass) (scope : Scope) (start stop : Stamp)
    (f : Figures) (coverage : Option Nat) : List Byte :=
  [BitVec.ofNat 8 kind.code] ++ beBytes 4 id.toNat
    ++ [BitVec.ofNat 8 cls.code, BitVec.ofNat 8 scope.code] ++ stampBytes start ++ stampBytes stop
    ++ loudnessBytes f.integrated ++ loudnessBytes f.maxMomentary ++ loudnessBytes f.maxShortTerm
    ++ signedBytes 2 f.maxPeak ++ beBytes 4 f.offered ++ beBytes 2 (coverage.getD 65535)

/-- The 41 bytes of a VERDICT notice (R136). -/
def verdictNoticeBytes (v : VerdictNotice) : List Byte :=
  verdictBodyBytes v.kind v.id v.cls v.scope v.startStamp v.endStamp v.figures v.coverage
    ++ [1, BitVec.ofNat 8 (markBit 0 v.impaired)]

/-- The kind code of a notice (R123). -/
def Notice.kindCode : Notice → Nat
  | .status _ _ => 1 | .breach _ => 2 | .verdict _ => 3 | .withdraw => 4

/-- The payload of a notice (section 7.4). -/
def Notice.payload : Notice → List Byte
  | .status h none => statusHeadBytes h
  | .status h (some t) => statusHeadBytes h ++ statusTailBytes t
  | .breach b => breachBytes b
  | .verdict v => verdictNoticeBytes v
  | .withdraw => []

/-- The header, payload and CRC of a shelf frame (R123); the delimiter 0x96, 0x69 goes before it. -/
def frameBody (sender : Nat) (time : Nat) (n : Notice) : List Byte :=
  let body := [BitVec.ofNat 8 sender, BitVec.ofNat 8 n.kindCode] ++ beBytes 2 n.payload.length ++ timeBytes time
    ++ n.payload
  body ++ beBytes 2 (crc16 body).toNat

/-- The start delimiter of a shelf frame (R123). -/
def frameDelimiter : List Byte := [0x96, 0x69]

/-- The whole frame on the line (R123). -/
def frameBytes (sender : Nat) (time : Nat) (n : Notice) : List Byte := frameDelimiter ++ frameBody sender time n

/-- Reads a signature of a STATUS tail (R132). -/
def readSignature (bytes : List Byte) : Signature where
  second := BitVec.ofNat 32 (natAt bytes 0 4)
  trend := BitVec.ofNat 10 (natAt bytes 4 2)
  level := intAt bytes 6 1
  impaired := (byteAt bytes 7).getLsbD 0

/-- Reads `n` signatures, oldest first (R132). -/
def readSignatures : Nat → List Byte → List Signature
  | 0, _ => []
  | n + 1, bytes => readSignature bytes :: readSignatures n (bytes.drop 8)

/-- Whether a STATUS payload's length is one a receiver accepts (R132). -/
def statusLengthOk (p : List Byte) : Bool :=
  p.length == 15 ||
    (21 ≤ p.length && 1 ≤ (byteAt p 20).toNat && (byteAt p 20).toNat ≤ 8
      && 21 + 8 * (byteAt p 20).toNat ≤ p.length)

/-- Reads the tail of a STATUS payload whose length is accepted (R132). -/
def readStatusTail (p : List Byte) : Option StatusTail :=
  if p.length = 15 then none else some
    { shortTerm := readLoudness? p 15
      shown := (byteAt p 17).getLsbD 0
      digest := BitVec.ofNat 16 (natAt p 18 2)
      signatures := readSignatures (byteAt p 20).toNat (p.drop 21) }

/-- Reads a STATUS payload, or none where it is not valid (R124, R132). -/
def readStatus? (p : List Byte) : Option Notice :=
  if statusLengthOk p then
    match TimeClass.ofNumber? ((byteAt p 3).toNat % 8), Reception.ofCode? (byteAt p 4).toNat,
      PeriodClass.ofCode? (byteAt p 6).toNat, SegClass.ofCode? (byteAt p 11).toNat, Scope.ofCode? (byteAt p 12).toNat with
    | some tc, some r, some pc, some cls, some scope =>
      some (.status
        { serviceId := BitVec.ofNat 16 (natAt p 0 2)
          regionGroup := byteAt p 2
          timeClass := tc
          correcting := (byteAt p 3).getLsbD 7
          reception := r
          quality := byteAt p 5
          period := pc
          segmentId := BitVec.ofNat 32 (natAt p 7 4)
          cls := cls
          scope := scope
          commonCount := byteAt p 13
          openBreaches := byteAt p 14 }
        (readStatusTail p))
    | _, _, _, _, _ => none
  else none

/-- The end stamp of a BREACH payload: absent when its flag is clear; none of none when its class is no class. -/
def readEndStamp? (p : List Byte) : Option (Option Stamp) :=
  if (byteAt p 3).getLsbD 0 then (readStamp? p 18).map some else some none

/-- Reads a BREACH payload, or none where it is not valid (R124, R135). -/
def readBreach? (p : List Byte) : Option Notice :=
  if 29 ≤ p.length && natAt p 0 2 != 0 then
    match Category.ofSharedCode? (byteAt p 2).toNat, Scope.ofCode? (byteAt p 8).toNat, readStamp? p 9,
      readEndStamp? p with
    | some c, some scope, some start, some stop =>
      some (.breach
        { number := natAt p 0 2
          category := c
          flags := ⟨(byteAt p 3).getLsbD 2, (byteAt p 3).getLsbD 3⟩
          segmentId := BitVec.ofNat 32 (natAt p 4 4)
          scope := scope
          startStamp := start
          endStamp := stop
          figure := if (byteAt p 3).getLsbD 1 then some (intAt p 27 2) else none })
    | _, _, _, _ => none
  else none

/-- The kind of a verdict code (R136). -/
def VerdictKind.ofCode? : Nat → Option VerdictKind
  | 1 => some .segment | 2 => some .programme | _ => none

/-- Reads a VERDICT payload, or none where it is not valid (R124, R136). -/
def readVerdict? (p : List Byte) : Option Notice :=
  if 41 ≤ p.length && (natAt p 37 2 ≤ 1000 || natAt p 37 2 == 65535) && byteAt p 39 == 1 then
    match VerdictKind.ofCode? (byteAt p 0).toNat, SegClass.ofCode? (byteAt p 5).toNat,
      Scope.ofCode? (byteAt p 6).toNat, readStamp? p 7, readStamp? p 16 with
    | some kind, some cls, some scope, some start, some stop =>
      some (.verdict
        { kind := kind
          id := BitVec.ofNat 32 (natAt p 1 4)
          cls := cls
          scope := scope
          startStamp := start
          endStamp := stop
          figures := ⟨readLoudness? p 25, readLoudness? p 27, readLoudness? p 29, intAt p 31 2, natAt p 33 4⟩
          coverage := if natAt p 37 2 = 65535 then none else some (natAt p 37 2)
          impaired := (byteAt p 40).getLsbD 0 })
    | _, _, _, _, _ => none
  else none

/-- Reads a payload of a kind code, or none where kind or payload is not valid (R124). -/
def readNotice? (kind : Nat) (p : List Byte) : Option Notice :=
  match kind with
  | 1 => readStatus? p
  | 2 => readBreach? p
  | 3 => readVerdict? p
  | 4 => some .withdraw
  | _ => none

/-- A valid frame as handed on (R124, R126). -/
structure ReceivedFrame where
  sender     : Byte
  senderTime : Nat
  notice     : Notice
deriving DecidableEq, Repr

/-- The length field of a received frame's header (R123; the delimiter is not in `bytes`). -/
def frameLength (bytes : List Byte) : Nat := natAt bytes 2 2

/-- Judges a complete frame by the checks of R124: CRC, sender, kind, length, payload. -/
def readFrame? (bytes : List Byte) : Option ReceivedFrame :=
  let n := frameLength bytes
  if natAt bytes (12 + n) 2 = (crc16 (bytes.take (12 + n))).toNat ∧ byteAt bytes 0 ≠ 0 ∧ n ≤ 256 then
    match readNotice? (byteAt bytes 1).toNat ((bytes.drop 12).take n) with
    | none => none
    | some notice => some ⟨byteAt bytes 0, readTime bytes 4, notice⟩
  else none

/-! ### The configuration record (R188, R189) -/

/-- The 128 bytes read; a byte the memory did not give reads as 0xFF (R188). -/
def recordBytes (bytes : List Byte) : List Byte := (bytes ++ List.replicate 128 0xFF).take 128

/-- Whether the record's sum is good (R188). -/
def sumGood (r : List Byte) : Bool :=
  (((r.take 126).map BitVec.toNat).sum % 65536) == natAt r 126 2

/-- A class profile as read (R188). -/
def readProfile (r : List Byte) (at_ : Nat) : ClassProfile where
  target := intAt r at_ 2
  tolerance := natAt r (at_ + 2) 2
  margin := natAt r (at_ + 4) 2
  peakLimit := intAt r (at_ + 6) 1
  captionCheck := (byteAt r (at_ + 7)).getLsbD 0

/-- An alarm line configuration as read (R188). Bits 18 … 23 of the mask are not examined. -/
def readLine (r : List Byte) (at_ : Nat) : LineConfig where
  mask := BitVec.ofNat 24 (natAt r at_ 3 % 2 ^ 18)
  logFull := (byteAt r (at_ + 3)).getLsbD 0
  pulse := (byteAt r (at_ + 3)).getLsbD 1
  activeHigh := (byteAt r (at_ + 3)).getLsbD 2

/-- The record's fields as read, before clamping (R188), most significant byte first (log 7). -/
def readConfig (r : List Byte) : WorkingCopy where
  stationNumber := (byteAt r 0).toNat
  regionGroup := byteAt r 1
  serviceId := BitVec.ofNat 16 (natAt r 2 2)
  referenceDelay := natAt r 4 2
  programme := readProfile r 6
  advert := readProfile r 14
  promotion := readProfile r 22
  junction := readProfile r 30
  soundThreshold := intAt r 38 2
  gapLimit := natAt r 40 1
  stuckLimit := natAt r 41 1
  tq := natAt r 42 1
  divergenceTime := natAt r 43 1
  proxyWait := natAt r 44 1
  preRoll := natAt r 45 1
  postRoll := natAt r 46 1
  maxHold := natAt r 48 2
  steadyDelay := natAt r 50 2
  quietDelay := natAt r 52 2
  holdoverLimit := natAt r 54 2
  line1 := readLine r 56
  line2 := readLine r 60
  line3 := readLine r 64
  line4 := readLine r 68

/-- The nearer limit of a range for a value outside it (R189). -/
def clampNat (lo hi v : Nat) : Nat := min (max v lo) hi

/-- The nearer limit of a range for a value outside it (R189). -/
def clampInt (lo hi v : Int) : Int := min (max v lo) hi

/-- A class profile with each field limited to its range (R67, R188). -/
def clampProfile (p : ClassProfile) : ClassProfile :=
  { p with
    target := clampInt (-4000) (-1000) p.target
    tolerance := clampNat 10 500 p.tolerance
    margin := clampNat 0 1000 p.margin
    peakLimit := clampInt (-99) 0 p.peakLimit }

/-- Every field but the station number limited to its range (R188, R189). -/
def clampConfig (c : WorkingCopy) : WorkingCopy :=
  { c with
    referenceDelay := clampNat 0 2000 c.referenceDelay
    programme := clampProfile c.programme
    advert := clampProfile c.advert
    promotion := clampProfile c.promotion
    junction := clampProfile c.junction
    soundThreshold := clampInt (-6000) (-2000) c.soundThreshold
    gapLimit := clampNat 2 60 c.gapLimit
    stuckLimit := clampNat 5 120 c.stuckLimit
    tq := clampNat 0 100 c.tq
    divergenceTime := clampNat 5 60 c.divergenceTime
    proxyWait := clampNat 5 120 c.proxyWait
    preRoll := clampNat 0 120 c.preRoll
    postRoll := clampNat 0 120 c.postRoll
    maxHold := clampNat 60 7200 c.maxHold
    steadyDelay := clampNat 10 600 c.steadyDelay
    quietDelay := clampNat 60 3600 c.quietDelay
    holdoverLimit := clampNat 60 3600 c.holdoverLimit }

/-- Whether a station number is one of 1 … 16 (R188). -/
def stationNumberOk (n : Nat) : Bool := 1 ≤ n && n ≤ 16

/-! ### Requests of the evidence port (R181, R182) -/

/-- The number of argument bytes of a request code (R182); a code not in the table has none (R181). -/
def requestArguments (code : Byte) : Nat :=
  if code = 0x22 then 2 else if code = 0x41 then 16 else if code = 0x42 then 1 else if code = 0x50 then 9 else 0

/-- The 32-bit argument at a position. -/
def wordAt (args : List Byte) (at_ : Nat) : Word32 := BitVec.ofNat 32 (natAt args at_ 4)

/-- The request that a code names, with its argument bytes (R182); a code not in the table is an unknown request
(R181). -/
def requestOf (code : Byte) (args : List Byte) : Instr :=
  match code.toNat with
  | 0x10 => .readSummary
  | 0x20 => .logNext
  | 0x21 => .logRewind
  | 0x22 => .logAck (BitVec.ofNat 16 (natAt args 0 2))
  | 0x30 => .verdictNext
  | 0x31 => .verdictRewind
  | 0x40 => .holdList
  | 0x41 => .holdPlace (wordAt args 0) (wordAt args 4) (wordAt args 8) (wordAt args 12)
  | 0x42 => .holdRelease (byteAt args 0)
  | 0x50 => .unitSeek (byteAt args 0) (wordAt args 1) (wordAt args 5)
  | 0x51 => .unitRead
  | 0x7E => .restart
  | _ => .unknownRequest code

/-- The request that the bytes of a transaction make: a request byte and its arguments; none while they are incomplete.
Later bytes are not examined (R181). -/
def readRequest? : List Byte → Option Instr
  | [] => none
  | code :: rest =>
    if requestArguments code ≤ rest.length then some (requestOf code (rest.take (requestArguments code))) else none

/-- The byte of eight bits, most significant first (R181). -/
def byteOfBits (bits : List Bool) : Byte := BitVec.ofNat 8 (bits.foldl (fun n b => 2 * n + (if b then 1 else 0)) 0)

/-- The bytes of the bits sampled from data in since chip select fell, or driven on the shelf line, most significant bit
first; an incomplete last byte leaves no trace (R122, R181). -/
def bytesOfBits : List Bool → List Byte
  | a :: b :: c :: d :: e :: f :: g :: h :: rest => byteOfBits [a, b, c, d, e, f, g, h] :: bytesOfBits rest
  | _ => []

/-- The bits of bytes as they go out, each byte most significant bit first (R122, R181). -/
def bitsOfBytes (bytes : List Byte) : List Bool :=
  (bytes.map (fun b => (List.range 8).map (fun k => b.getLsbD (7 - k)))).flatten

/-- What a receiver reads from the bits on the shelf line that follow one another: the bytes behind a delimiter spelled by
the first sixteen, most significant bit first (R122, R123). -/
def frameOfBits? (bits : List Bool) : Option (List Byte) :=
  if bits.take 16 = bitsOfBytes frameDelimiter then some (bytesOfBits (bits.drop 16)) else none

/-! ### Evidence port layouts (R183 to R187) -/

/-- The station state's code (R183). -/
def StationState.code : StationState → Nat
  | .loading => 1 | .checking => 2 | .listening => 3 | .running => 4 | .listenOnly => 5 | .fault => 6

/-- A mark as a whole byte. -/
def boolByte (b : Bool) : Byte := if b then 1 else 0

/-- The flags byte of a breach record (R184 byte 4). -/
def recordFlagsByte (f : RecordFlags) : Byte :=
  BitVec.ofNat 8 (markBit 0 f.impaired + markBit 1 f.proxy + markBit 2 f.prerollShort + markBit 3 f.holdTruncated
    + markBit 4 f.holdEvicted + markBit 5 f.peerLost + markBit 6 f.restartCut)

/-- The origin bytes of a breach record (R184 bytes 5 … 7). -/
def originBytes : Origin → List Byte
  | .own => [0, 0, 0]
  | .peer station number => station :: beBytes 2 number

/-- The 37 bytes of a breach record (R184). -/
def recordBytesOf (r : BreachRecord) : List Byte :=
  beBytes 2 r.number
    ++ [BitVec.ofNat 8 r.category.code,
        BitVec.ofNat 8 (markBit 0 r.isOpen + markBit 1 r.acked + markBit 2 r.endStamp.isSome
          + markBit 3 r.figure.isSome + markBit 4 r.hold.isSome),
        recordFlagsByte r.flags]
    ++ originBytes r.origin ++ beBytes 4 r.segmentId.toNat
    ++ [BitVec.ofNat 8 r.cls.code, BitVec.ofNat 8 r.scope.code] ++ stampBytes r.startStamp ++ stampBytes? r.endStamp
    ++ signedBytes 4 (r.figure.getD 0)
    ++ [match r.hold with | none => 0xFF | some h => BitVec.ofNat 8 h.slot]

/-- The source bytes of a verdict: its source code, and the proxy's station number or 0 (R185 bytes 39 and 41). -/
def sourceBytes : VerdictSource → Byte × Byte
  | .own => (1, 0)
  | .proxy station => (2, station)
  | .unmeasured => (3, 0)

/-- The 42 bytes of a verdict (R185). -/
def verdictBytesOf (v : Verdict) : List Byte :=
  verdictBodyBytes v.kind v.id v.cls v.scope v.startStamp v.endStamp v.figures v.coverage
    ++ [(sourceBytes v.source).1, BitVec.ofNat 8 (markBit 0 v.impaired), (sourceBytes v.source).2]

/-- The 24 bytes of a hold table entry (R186). -/
def holdEntryBytes (h : HoldSlot) : List Byte :=
  match h.hold with
  | none => List.replicate 24 0
  | some h =>
    [if h.isOpen then 1 else 2, BitVec.ofNat 8 h.priority.number,
      BitVec.ofNat 8 (markBit 0 h.flags.prerollShort + markBit 1 h.flags.truncated + markBit 2 h.flags.restartCut
        + markBit 3 h.flags.evictedOthers), 0]
      ++ timeBytes h.start
      ++ (match h.stop with | none => List.replicate 8 0xFF | some t => timeBytes t)
      ++ beBytes 2 h.pinned ++ beBytes 2 (h.breach.getD 0)

/-- The code of a recorded unit's kind (R187). -/
def RecordedKind.code : RecordedKind → Nat
  | .payload => 1 | .caption => 2 | .cue => 3 | .mark => 4

/-- A recorded unit as UNIT_READ sends it: 24 bytes and its bytes (R187). -/
def unitBytesOf (u : RecordedUnit) : List Byte :=
  [BitVec.ofNat 8 u.kind.code, BitVec.ofNat 8 (markBit 0 u.damaged)] ++ stampBytes u.arrival
    ++ beBytes 5 u.mediaTime.toNat ++ beBytes 2 u.bytes.length ++ List.replicate 6 0 ++ u.bytes

/-- The code of a MARK unit's reason (R187). -/
def MarkReason.code : MarkReason → Nat
  | .discontinuity => 1 | .timeStep => 2 | .restart => 3

/-- The 16 content bytes of a MARK unit (R102, R187). -/
def markBytes (m : MarkRequest) : List Byte :=
  [BitVec.ofNat 8 m.reason.code] ++ beBytes 4 m.stepMs ++ stampBytes? m.before ++ [0, 0]

end Sys2Proof.Machine
end

