-- ==== Sys2Proof/Machine/Link.lean ====
section
/-! DEFINITION. The Shelf Link Controller: line, contention, transmit queue, STATUS composition and period classes
(R122 to R142). Taking a received frame is in Machine/Peers.lean. -/

namespace Sys2Proof.Machine

/-! ### The transmit queue (R130, R131) -/

/-- The place of a notice's kind in the queue's order (R130). -/
def Notice.rank : Notice → Nat
  | .withdraw => 0 | .breach _ => 1 | .verdict _ => 2 | .status _ _ => 3

/-- Whether a notice is a STATUS. -/
def Notice.isStatus : Notice → Bool
  | .status _ _ => true
  | .breach _ | .verdict _ | .withdraw => false

/-- Whether a notice is a WITHDRAW. -/
def Notice.isWithdraw : Notice → Bool
  | .withdraw => true
  | .status _ _ | .breach _ | .verdict _ => false

/-- The number of the notice in hand, which is the head of the queue (section 7.2). -/
def ShelfLink.headUid (l : ShelfLink) : Option Nat := l.queue.head?.map (fun q => q.uid)

/-- Places a notice by kind priority, oldest first within a kind (R130). -/
def ShelfLink.place (l : ShelfLink) (q : QueuedNotice) : ShelfLink :=
  { l with queue := placeBefore (fun y => q.notice.rank < y.notice.rank) q l.queue }

/-- The transmitter with nothing being sent: WAITING with a notice in hand, else IDLE (section 7.2). -/
def ShelfLink.atRest (l : ShelfLink) : ShelfLink :=
  { l with transmitter := if l.queue.isEmpty then .idle else .waiting }

/-- What a change of the queue does to the transmitter: a frame in contention whose notice is no longer in hand is
broken off uncharged (R128); a committed frame goes on; otherwise the new head is in hand (R127). -/
def ShelfLink.settle (l : ShelfLink) (oldHead : Option Nat) : ShelfLink :=
  match l.transmitter with
  | .committed => l
  | .contending => if l.headUid = oldHead then l else ({ l with quietCount := 0 }).atRest
  | .idle | .waiting => l.atRest

/-- Puts a newer STATUS in the place of the queued one, with its attempts made (R131, case 2). -/
def ShelfLink.replaceStatus (l : ShelfLink) (q : QueuedNotice) : ShelfLink :=
  { l with queue := l.queue.map (fun y => if y.notice.isStatus then { q with attempts := y.attempts } else y) }

/-- Deals with an offer that is taken: cases 2 to 5 of R131. -/
def ShelfLink.accept (l : ShelfLink) (q : QueuedNotice) : ShelfLink :=
  if q.notice.isStatus && l.queue.any (fun y => y.notice.isStatus) then l.replaceStatus q
  else if l.queue.length < transmitQueueMax then l.place q
  else if l.queue.any (fun y => y.notice.isStatus) then
    ({ l with queue := l.queue.filter (fun y => !y.notice.isStatus) }).place q
  else { l with noticeDrops := addCount l.noticeDrops 1 }

/-- Offers a notice (R131). `carried` are the unsent-list entries a STATUS carries. -/
def State.offer (s : State) (n : Notice) (carried : List Nat) : State :=
  if s.startup.station = .running ∧ s.startup.restarting = false then
    let l := s.link
    s.setLink (({ l with nextUid := l.nextUid + 1 }).accept ⟨l.nextUid, n, 0, carried⟩ |>.settle l.headUid)
  else s

/-! ### Composing STATUS (R132, R134) -/

/-- The occupancy: busy ticks of the current bucket and the nine before it (R133). -/
def ShelfLink.occupied (l : ShelfLink) : Nat := l.occupancy.sum

/-- The unsent entries a STATUS composed now carries (R134, steps 2 and 3). -/
def ShelfLink.carriedNow (l : ShelfLink) : List UnsentEntry :=
  if 60000 ≤ l.occupied then newest 2 l.unsent else l.unsent

/-- The STATUS head composed from the state now (R132). -/
def State.statusHead (s : State) : StatusHead where
  serviceId := s.config.serviceId
  regionGroup := s.config.regionGroup
  timeClass := s.time.source
  correcting := s.time.correcting
  reception := s.reception.state
  quality := BitVec.ofNat 8 s.reception.effective
  period := s.link.period
  segmentId := s.segments.current.segmentId
  cls := s.segments.current.cls
  scope := s.segments.current.scope
  commonCount := BitVec.ofNat 8 s.commonCount
  openBreaches := BitVec.ofNat 8 s.openBreaches

/-- The STATUS tail composed from the state now: none when no signature is unsent (R134). -/
def State.statusTail (s : State) : Option StatusTail :=
  if s.link.unsent.isEmpty then none else some
    { shortTerm := s.loudness.shortTerm
      shown := s.captions.pairShown
      digest := s.captions.pairDigest
      signatures := s.link.carriedNow.map (fun e => e.signature) }

/-- Composes and offers a STATUS notice (R132). -/
def State.offerStatus (s : State) : State :=
  s.offer (.status s.statusHead s.statusTail) (s.link.carriedNow.map (fun e => e.uid))

/-- An upshift event (R141): in RUNNING the downshift deadline moves, and from STEADY or QUIET the class becomes
ALERT with an immediate STATUS. -/
def State.upshift (s : State) : State :=
  if s.startup.station = .running then
    let moved := s.setLink { s.link with downshift := some (s.now + s.config.steadyDelay * second) }
    if s.link.period = .alert then moved
    else
      let offered := (moved.setLink { moved.link with period := .alert }).offerStatus
      offered.setLink { offered.link with statusNext := some (s.now + PeriodClass.alert.period) }
  else s

/-- A signature offered for the unsent list (R134). -/
def State.offerSignature (s : State) (g : Signature) : State :=
  let l := s.link
  let kept := l.unsent.filter (fun e => e.signature.second != g.second)
  s.setLink { l with unsent := newest 8 (kept ++ [⟨l.nextUid, g⟩]), nextUid := l.nextUid + 1 }

/-! ### Stopping the transmitter (R138) -/

/-- Removes every queued notice uncounted and stops the transmitter, as at entry to LISTEN_ONLY (R138). -/
def ShelfLink.flush (l : ShelfLink) : ShelfLink :=
  { l with queue := [], transmitter := .idle, committed := none, statusNext := none, downshift := none }

/-- Entry to LISTEN_ONLY (R138, R190); the WITHDRAW of a restart in progress stays queued. -/
def State.enterListenOnly (s : State) : State :=
  let t := s.setStartup { s.startup with station := .listenOnly }
  if s.startup.restarting then t else t.setLink t.link.flush

/-- The withdrawal report of R138. -/
def State.reportWithdrawal (s : State) : State := s.setStartup { s.startup with withdrawReported := true }

/-- The handling of a restart request (R138): in RUNNING the queue is emptied and a WITHDRAW placed; in any other
state the queue is emptied and the report made at once. -/
def State.beginWithdrawal (s : State) : State :=
  let l := s.link
  match s.startup.station with
  | .running =>
    s.setLink (({ l with queue := [⟨l.nextUid, .withdraw, 0, []⟩], nextUid := l.nextUid + 1 }).settle l.headUid)
  | .loading | .checking | .listening | .listenOnly | .fault =>
    (s.setLink (({ l with queue := [] }).settle l.headUid)).reportWithdrawal

/-! ### The line and the transmitter (R122, R127, R128) -/

/-- Whether the station drives the line. -/
def ShelfLink.driving (l : ShelfLink) : Bool := l.transmitter == .contending || l.transmitter == .committed

/-- The required quiet of a notice in hand, in ticks (R127). -/
def requiredQuiet (own : Nat) (q : QueuedNotice) : Nat := if q.attempts = 0 then 2 else 2 + own

/-- Whether the station may start a frame with a notice in hand: in RUNNING, or the WITHDRAW of a restart (R138). -/
def State.maySend (s : State) (q : QueuedNotice) : Bool :=
  s.startup.station == .running || (s.startup.restarting && q.notice.isWithdraw)

/-- The frame the station sends or has in contention, as it stands on the line (R123): its notice and sender time. -/
def State.transmittedFrame (s : State) : Option (List Byte) :=
  match s.link.transmitter with
  | .contending => s.link.queue.head?.map (fun q => frameBytes s.config.stationNumber s.link.sendTime q.notice)
  | .committed => s.link.committed.map (fun q => frameBytes s.config.stationNumber s.link.sendTime q.notice)
  | .idle | .waiting => none

/-- The bits the station drives on the line, each byte most significant bit first (R122). -/
def State.transmittedBits (s : State) : Option (List Bool) := s.transmittedFrame.map bitsOfBytes

/-- LINE_BUSY: the line becomes busy and the quiet count returns to 0 (R122, R127). -/
def execLineBusy (s : State) : Host.Outcome State Fault Refusal :=
  .next (s.setLink { s.link with busy := true, quietCount := 0 })

/-- Whether the bytes received after a delimiter state a length above 256 in a complete header (R124). -/
def overlongHeader (received : List Byte) : Bool := 12 ≤ received.length && 256 < frameLength received

/-- LINE_QUIET: the line falls quiet; a frame begun is a fragment, discarded uncounted (R122), but one whose header
stated more than 256 bytes ends as one invalid frame (R124). The bytes are those that `frameOfBits?` reads. The own frame's
signal keeps the line busy, and a quiet line does not fall quiet. -/
def execLineQuiet (received : List Byte) (s : State) : Host.Outcome State Fault Refusal :=
  if s.link.driving || !s.link.busy then .next s else
    let l := { s.link with busy := false, quietCount := 0, rx := none }
    match s.link.rx with
    | none => .next (s.setLink l)
    | some rx =>
      if rx.overlong || overlongHeader received then .next (s.setLink { l with crcErrors := addCount l.crcErrors 1 })
      else .next (s.setLink l)

/-- FRAME_START: the receiver recognises a delimiter and takes the frame-start stamp (R122). It runs in LISTENING,
RUNNING and LISTEN_ONLY while the station is not itself sending. -/
def execFrameStart (s : State) : Host.Outcome State Fault Refusal :=
  if s.live && s.link.busy && !s.link.driving && s.link.rx.isNone then
    .next (s.setLink { s.link with rx := some ⟨s.nowStamp, s.time.localCount, false⟩ })
  else .next s

/-- ATTEMPT_START: with the required quiet counted, the transmitter starts a frame and takes the sender time
(R123, R127). -/
def execAttemptStart (s : State) : Host.Outcome State Fault Refusal :=
  match s.link.queue with
  | [] => .next s
  | q :: _ =>
    if s.link.transmitter == .waiting && !s.link.busy && requiredQuiet s.config.stationNumber q ≤ s.link.quietCount
        && s.maySend q then
      .next (s.setLink { s.link with transmitter := .contending, sendTime := s.now, busy := true, quietCount := 0 })
    else .next s

/-- COLLISION: a bit difference while CONTENDING (R128). -/
def execCollision (s : State) : Host.Outcome State Fault Refusal :=
  match s.link.transmitter, s.link.queue with
  | .contending, q :: rest =>
    if q.attempts + 1 < 4 then
      .next (s.setLink { s.link with
        queue := { q with attempts := q.attempts + 1 } :: rest, transmitter := .waiting, quietCount := 0 })
    else
      let dropped := s.setLink ({ s.link with
        queue := rest, quietCount := 0, noticeDrops := addCount s.link.noticeDrops 1 }).atRest
      .next (if q.notice.isWithdraw then dropped.reportWithdrawal else dropped)
  | _, _ => .next s

/-- NOTICE_COMMITTED: the last header bit has gone out without a difference; the notice leaves the queue (R128). -/
def execNoticeCommitted (s : State) : Host.Outcome State Fault Refusal :=
  match s.link.transmitter, s.link.queue with
  | .contending, q :: rest =>
    .next (s.setLink { s.link with queue := rest, committed := some q, transmitter := .committed })
  | _, _ => .next s

/-- FRAME_SENT: the last CRC byte has gone out; a STATUS's signatures leave the unsent list (R134), and the transmitter
takes the new head (R128). A WITHDRAW sent is reported (R138). -/
def execFrameSent (s : State) : Host.Outcome State Fault Refusal :=
  match s.link.transmitter, s.link.committed with
  | .committed, some q =>
    let sent := s.setLink ({ s.link with
      unsent := s.link.unsent.filter (fun e => !q.carried.contains e.uid), committed := none }).atRest
    .next (if q.notice.isWithdraw then sent.reportWithdrawal else sent)
  | _, _ => .next s

/-- OCCUPANCY_BUCKET_END: the span of 10,000 ticks ends; the oldest bucket is emptied and becomes the next (R133). -/
def execOccupancyBucketEnd (s : State) : Host.Outcome State Fault Refusal :=
  if 10000 ≤ s.link.bucketTicks then
    .next (s.setLink { s.link with
      occupancy := (0 :: s.link.occupancy).take 10, bucketTicks := s.link.bucketTicks - 10000 })
  else .next s

/-! ### Deadlines (R139, R140, R190) -/

/-- The status timer expires: a STATUS is composed and offered, and the timer rearmed by the class in force (R139). -/
def State.statusTimerExpiry (s : State) : State :=
  if s.startup.station = .running ∧ reached s.link.statusNext s.now = true then
    let offered := s.offerStatus
    offered.setLink { offered.link with statusNext := some (s.now + s.link.period.period) }
  else s

/-- STATUS_TIMER_EXPIRY: the status timer expires (R139). -/
def execStatusTimerExpiry (s : State) : Host.Outcome State Fault Refusal := .next s.statusTimerExpiry

/-- The downshift deadline: the period class moves down one step (R140). -/
def State.downshiftDeadline (s : State) : State :=
  if s.startup.station = .running ∧ reached s.link.downshift s.now = true then
    match s.link.period with
    | .alert => s.setLink { s.link with period := .steady, downshift := some (s.now + s.config.quietDelay * second) }
    | .steady | .quiet => s.setLink { s.link with period := .quiet, downshift := none }
  else s

/-- DOWNSHIFT_DEADLINE: the downshift deadline is reached (R140). -/
def execDownshiftDeadline (s : State) : Host.Outcome State Fault Refusal := .next s.downshiftDeadline

/-- Entry to RUNNING (R139): ALERT, the downshift deadline, a STATUS at once, the status timer. -/
def State.enterRunning (s : State) : State :=
  let t := s.setStartup { s.startup with station := .running }
  let offered := (t.setLink { t.link with
    period := .alert, downshift := some (s.now + s.config.steadyDelay * second) }).offerStatus
  offered.setLink { offered.link with statusNext := some (s.now + second) }

/-- The end of LISTENING, 2 s after its entry: RUNNING, or LISTEN_ONLY when the mark is set (R190). -/
def State.listeningEnd (s : State) : State :=
  if s.startup.station = .listening ∧ reached (s.startup.listeningSince.map (fun t => t + 2 * second)) s.now = true then
    if s.startup.listenOnlyMark then s.enterListenOnly else s.enterRunning
  else s

end Sys2Proof.Machine
end

