-- ==== Sys2Proof/Machine/Log.lean ====
section
/-! DEFINITION. The Breach Log's store: numbers, records, the full log, hold reports and acknowledgement (R166, R168,
R172 to R174). Creation and closing of records, which also place holds and offer notices, are in Machine/Breach.lean. -/

namespace Sys2Proof.Machine

/-! ### Numbers (R168) -/

/-- The number after a breach number: 65,535 is followed by 1 (R168). -/
def numberAfter (n : Nat) : Nat := if n < 65535 then n + 1 else 1

/-- Whether a record or an open cause carries a number (R168). -/
def BreachLog.carries (l : BreachLog) (n : Nat) : Bool :=
  l.records.any (fun r => r.number == n) || l.causes.any (fun c => c.number == n)

/-- The first number from `n` on that is carried by neither; `fuel` bounds the search (R168: at most 138 are carried). -/
def BreachLog.freeNumber (l : BreachLog) : Nat → Nat → Nat
  | 0, n => n
  | fuel + 1, n => if l.carries n then l.freeNumber fuel (numberAfter n) else n

/-- The number a creation request draws now (R168). -/
def BreachLog.drawn (l : BreachLog) : Nat := l.freeNumber 139 l.nextNumber

/-! ### Records -/

/-- The record with a breach number. -/
def BreachLog.record? (l : BreachLog) (number : Nat) : Option BreachRecord :=
  l.records.find? (fun r => r.number == number)

/-- Changes the record with a breach number, if the log holds it. -/
def BreachLog.change (l : BreachLog) (number : Nat) (f : BreachRecord → BreachRecord) : BreachLog :=
  { l with records := l.records.map (fun r => if r.number == number then f r else r) }

/-- Changes the record with a breach number (R173: ignored if the log does not hold it, or none is named). -/
def State.changeRecord (s : State) (number : Option Nat) (f : BreachRecord → BreachRecord) : State :=
  match number with
  | none => s
  | some n => s.setLog (s.log.change n f)

/-- The record a full log discards: the oldest CLOSED, acknowledged and unheld, else the oldest CLOSED and unheld
(R172). -/
def BreachLog.discardable (l : BreachLog) : Option BreachRecord :=
  match l.records.find? (fun r => !r.isOpen && r.acked && r.hold.isNone) with
  | some r => some r
  | none => l.records.find? (fun r => !r.isOpen && r.hold.isNone)

/-- The serial of the oldest record created after a serial (R184). -/
def BreachLog.after (l : BreachLog) (serial : Nat) : Option Nat :=
  (l.records.find? (fun r => serial < r.serial)).map (fun r => r.serial)

/-- Discards a record (R172): it leaves the log, LOG_FULL ceases, and a log cursor naming it moves on (R184). -/
def State.discardRecord (s : State) (r : BreachRecord) : State :=
  let l := { s.log with records := s.log.records.filter (fun x => x.serial != r.serial), full := false }
  let t := s.setLog l
  if s.evidence.logCursor = some r.serial then t.setEvidence { s.evidence with logCursor := l.after r.serial } else t

/-- Appends a record as the newest; a log cursor AT_END then names it (R172, R184). -/
def State.appendRecord (s : State) (r : BreachRecord) : State :=
  let t := s.setLog { s.log with
    records := s.log.records ++ [{ r with serial := s.log.nextSerial }]
    nextSerial := s.log.nextSerial + 1 }
  if s.evidence.logCursor = none then t.setEvidence { s.evidence with logCursor := some s.log.nextSerial } else t

/-- A record not stored: the overflow count rises and LOG_FULL comes to stand (R172), which triggers the PULSE lines
that include it unless it stood already (R178). -/
def State.refuseRecord (s : State) : State :=
  let t := s.setLog { s.log with overflow := addCount s.log.overflow 1, full := true }
  if s.log.full then t else t.pulseForLogFull

/-- Stores a record, making room in a full log where R172 can, and says whether it was stored. -/
def State.storeRecord (s : State) (r : BreachRecord) : State × Bool :=
  if s.log.records.length < logMax then (s.appendRecord r, true)
  else
    match s.log.discardable with
    | some old => ((s.discardRecord old).appendRecord r, true)
    | none => (s.refuseRecord, false)

/-! ### Reports about holds (R173) -/

/-- A hold was placed for the record: slot and tenure, with the flags the hold carries (R173, R106). -/
def State.reportPlaced (s : State) (number : Option Nat) (ref : SlotRef) (short truncated : Bool) : State :=
  s.changeRecord number (fun r => { r with
    hold := some ref
    flags := { r.flags with
      prerollShort := r.flags.prerollShort || short
      holdTruncated := r.flags.holdTruncated || truncated } })

/-- The record's hold was truncated (R173). -/
def State.reportTruncated (s : State) (number : Option Nat) : State :=
  s.changeRecord number (fun r => { r with flags := { r.flags with holdTruncated := true } })

/-- The record's hold was evicted (R173). -/
def State.reportEvicted (s : State) (number : Option Nat) : State :=
  s.changeRecord number (fun r => { r with hold := none, flags := { r.flags with holdEvicted := true } })

/-- The record's hold was released (R173). -/
def State.reportReleased (s : State) (number : Option Nat) : State :=
  s.changeRecord number (fun r => { r with hold := none })

/-- The record's hold was cut at restart (R173). -/
def State.reportCut (s : State) (number : Option Nat) : State :=
  s.changeRecord number (fun r => { r with flags := { r.flags with restartCut := true } })

/-! ### Acknowledgement (R174) -/

/-- Sets the acknowledged flag of every record up to and including the one with the number. -/
def ackThrough (number : Nat) : List BreachRecord → List BreachRecord
  | [] => []
  | r :: rest =>
    if r.number = number then { r with acked := true } :: rest
    else { r with acked := true } :: ackThrough number rest

/-- Acknowledges through a breach number (R174); a number no record carries changes nothing. -/
def BreachLog.acknowledge (l : BreachLog) (number : Nat) : BreachLog :=
  match l.record? number with
  | none => l
  | some _ => { l with records := ackThrough number l.records, ackPoint := number, full := false }

/-! ### Restart (R180) -/

/-- Closes every OPEN record with RESTART_CUT and empties the open-cause table (R180). The closes trigger no pulse and
offer no notice. -/
def State.cutRecords (s : State) : State :=
  s.setLog { s.log with
    records := s.log.records.map (fun r =>
      if r.isOpen then
        { r with endStamp := some s.nowStamp, isOpen := false, flags := { r.flags with restartCut := true } }
      else r)
    causes := [] }

end Sys2Proof.Machine
end

