-- ==== Sys2Proof/Machine/Recorder.lean ====
section
/-! DEFINITION. The Recorder: page store, writing, MARK units, holds, pin budget, eviction, release and reading
(R98 to R121). -/

namespace Sys2Proof.Machine

/-! ### Pages (R98, R99) -/

/-- The bytes of its page that a recorded unit occupies (R99). -/
def RecordedUnit.size (u : RecordedUnit) : Nat := 24 + u.bytes.length

/-- The fill of a page (R98). -/
def Page.fill (p : Page) : Nat := (p.units.map RecordedUnit.size).sum

/-- The unit count of a page (R98). -/
def Page.unitCount (p : Page) : Nat := p.units.length

/-- The page with a physical index, if it has been begun since full reset. -/
def Recorder.page? (r : Recorder) (index : Nat) : Option Page := r.pages.find? (fun p => p.index == index)

/-- The current page (section 6.2). -/
def Recorder.currentPage (r : Recorder) : Option Page :=
  match r.current with
  | none => none
  | some i => r.page? i

/-- The current page's sequence number. -/
def Recorder.currentSeq (r : Recorder) : Option Nat := r.currentPage.map (fun p => p.seq)

/-- Puts a page in its place by physical index, in place of the one listed there. -/
def putPage (p : Page) : List Page → List Page
  | [] => [p]
  | q :: qs =>
    if p.index < q.index then p :: q :: qs
    else if p.index = q.index then p :: qs
    else q :: putPage p qs

/-- The lowest physical index from `n` on that is not listed, in a list by rising index. -/
def firstUnlisted : Nat → List Page → Nat
  | n, [] => n
  | n, p :: ps => if p.index = n then firstUnlisted (n + 1) ps else n

/-- The page the writer begins next (R101): a never-written page, lowest index first, else the unpinned page with the
lowest sequence number. -/
def Recorder.chosenPage (r : Recorder) : Option Nat :=
  if firstUnlisted 0 r.pages < pageCount then some (firstUnlisted 0 r.pages)
  else (leastBy (fun p => p.seq) (r.pages.filter (fun p => p.pins == 0))).map (fun p => p.index)

/-! ### Pins (R107, R116) -/

/-- Whether a page lies in a hold's range (R103); an OPEN hold's range ends at the current page. -/
def Recorder.covers (r : Recorder) (h : Hold) (p : Page) : Bool :=
  h.first ≤ p.seq &&
    match h.last, r.currentSeq with
    | some last, _ => p.seq ≤ last
    | none, some current => p.seq ≤ current
    | none, none => false

/-- The number of pages that satisfy a test. -/
def Recorder.countPages (r : Recorder) (test : Page → Bool) : Nat := (r.pages.filter test).length

/-- Adds a pin to every page the test picks; pages that were unpinned join the total (R107). -/
def Recorder.pin (r : Recorder) (test : Page → Bool) : Recorder :=
  { r with
    pages := r.pages.map (fun p => if test p then { p with pins := p.pins + 1 } else p)
    pinnedTotal := r.pinnedTotal + r.countPages (fun p => test p && p.pins == 0) }

/-- Takes a pin from every page the test picks; pages that reach 0 leave the total (R116). -/
def Recorder.unpin (r : Recorder) (test : Page → Bool) : Recorder :=
  { r with
    pages := r.pages.map (fun p => if test p then { p with pins := p.pins - 1 } else p)
    pinnedTotal := r.pinnedTotal - r.countPages (fun p => test p && p.pins == 1) }

/-! ### Slots (R103) -/

/-- The hold in a slot, if the slot is not FREE. -/
def Recorder.hold? (r : Recorder) (slot : Nat) : Option Hold := (r.slots.getD slot ⟨0, none⟩).hold

/-- The tenure of a slot. -/
def Recorder.tenure (r : Recorder) (slot : Nat) : BitVec 16 := (r.slots.getD slot ⟨0, none⟩).tenure

/-- Changes the hold in a slot. -/
def Recorder.changeHold (r : Recorder) (slot : Nat) (f : Hold → Hold) : Recorder :=
  { r with slots := changeAt (fun x => { x with hold := x.hold.map f }) slot r.slots }

/-- Changes every OPEN hold. -/
def Recorder.changeOpen (r : Recorder) (f : Hold → Hold) : Recorder :=
  { r with slots := r.slots.map (fun x =>
      { x with hold := x.hold.map (fun h => if h.isOpen then f h else h) }) }

/-- The OPEN holds. -/
def Recorder.openHolds (r : Recorder) : List Hold :=
  (r.slots.filterMap (fun x => x.hold)).filter (fun h => h.isOpen)

/-- The lowest-numbered FREE slot from `n` on. -/
def freeSlotFrom : Nat → List HoldSlot → Option Nat
  | _, [] => none
  | n, x :: xs => if x.hold.isNone then some n else freeSlotFrom (n + 1) xs

/-- The lowest-numbered FREE slot (R106). -/
def Recorder.freeSlot (r : Recorder) : Option Nat := freeSlotFrom 0 r.slots

/-- The number of FREE slots (R183). -/
def Recorder.freeSlots (r : Recorder) : Nat := (r.slots.filter (fun x => x.hold.isNone)).length

/-- Steps 1 and 2 of R116: the hold's pages lose its pin and the slot becomes FREE, its tenure kept. -/
def Recorder.freeHold (r : Recorder) (slot : Nat) : Recorder :=
  match r.hold? slot with
  | none => r
  | some h => { r.unpin (r.covers h) with slots := changeAt (fun x => { x with hold := none }) slot r.slots }

/-! ### Eviction (R112, R113, R116) -/

/-- The slots with their numbers. -/
def numberedSlots : Nat → List HoldSlot → List (Nat × Hold)
  | _, [] => []
  | n, x :: xs =>
    match x.hold with
    | none => numberedSlots (n + 1) xs
    | some h => (n, h) :: numberedSlots (n + 1) xs

/-- The slots a requester may evict, in eviction order: CLOSED holds of lower priority, by priority, close stamp and
slot number (R112). -/
def Recorder.evictable (r : Recorder) (requester : Nat) : List Nat :=
  let eligible := (numberedSlots 0 r.slots).filter (fun x => !x.2.isOpen && x.2.priority.number < requester)
  (sortBy (fun x => x.2.priority.number) (sortBy (fun x => x.2.closeStamp.getD 0) eligible)).map (fun x => x.1)

/-- The shortest leading part of an eviction order, of at least one hold, after whose eviction the test holds (R113,
R115). -/
def shortestEviction (test : Recorder → Bool) : Recorder → List Nat → Option (List Nat)
  | _, [] => none
  | r, slot :: rest =>
    if test (r.freeHold slot) then some [slot]
    else (shortestEviction test (r.freeHold slot) rest).map (fun l => slot :: l)

/-- The Peer Monitor makes the sympathetic hold of the matching noted-breach entry absent (R159). -/
def State.unlinkHold (s : State) (ref : SlotRef) : State :=
  s.setPeers { s.peers with noted := s.peers.noted.map (fun e =>
    if e.hold = some ref then { e with hold := none } else e) }

/-- Evicts the hold in a slot (R116): it is freed, its record told, and a sympathetic link cleared. -/
def State.evictHold (s : State) (slot : Nat) : State :=
  match s.recorder.hold? slot with
  | none => s
  | some h =>
    let told := (s.setRecorder (s.recorder.freeHold slot)).reportEvicted h.breach
    match h.priority with
    | .sympathetic => told.unlinkHold ⟨slot, s.recorder.tenure slot⟩
    | .own | .controller => told

/-- Evicts holds in order. -/
def State.evictAll (s : State) (slots : List Nat) : State := slots.foldl (fun t slot => t.evictHold slot) s

/-- Releases the hold in a slot (R117): as eviction, but no flag is set. -/
def State.releaseHold (s : State) (slot : Nat) : State :=
  match s.recorder.hold? slot with
  | none => s
  | some h =>
    let told := (s.setRecorder (s.recorder.freeHold slot)).reportReleased h.breach
    match h.priority with
    | .sympathetic => told.unlinkHold ⟨slot, s.recorder.tenure slot⟩
    | .own | .controller => told

/-! ### Placement (R105 to R107, R113) -/

/-- A requested interval (R105). -/
structure HoldInterval where
  start     : Nat
  stop      : Option Nat
  truncated : Bool
deriving DecidableEq, Repr

/-- Limits an interval whose end is present to the maximum hold length, keeping its latest part (R105). -/
def limitInterval (maxLength start : Nat) (stop : Option Nat) : HoldInterval :=
  match stop with
  | none => ⟨start, none, false⟩
  | some t => if maxLength < t - start then ⟨t - maxLength, some t, true⟩ else ⟨start, some t, false⟩

/-- The requested interval of a placement, none where it is refused before any other step (R105). -/
def formInterval (c : WorkingCopy) (p : Priority) (start : Nat) (stop : Option Nat) : Option HoldInterval :=
  let m := c.maxHold * second
  match p with
  | .controller =>
    if stop.any (fun t => t < start) then none else some (limitInterval m start stop)
  | .own | .sympathetic =>
    some (limitInterval m (start - c.preRoll * second) (stop.map (fun t => shelfAdd t (c.postRoll * second))))

/-- The page chosen as the first of a hold from `start` (R107): the oldest with a last stamp at or after it, else the
current page. -/
def Recorder.firstPage (r : Recorder) (start : Nat) : Option Page :=
  match leastBy (fun p => p.seq) (r.pages.filter (fun p => p.last.any (fun t => start ≤ t.time))) with
  | some p => some p
  | none => r.currentPage

/-- The first sequence number of a new hold: the counter's value when there is no current page (R107). -/
def Recorder.firstSeq (r : Recorder) (start : Nat) : Nat :=
  match r.currentPage with
  | none => r.counter
  | some _ => ((r.firstPage start).map (fun p => p.seq)).getD r.counter

/-- Whether a new hold from `start` is placed with PREROLL_SHORT (R107). -/
def Recorder.shortPreroll (r : Recorder) (start : Nat) : Bool :=
  match r.currentPage with
  | none => true
  | some _ => (r.firstPage start).any (fun p => p.first.any (fun t => start < t.time))

/-- The last sequence number of a hold placed CLOSED (R107). -/
def Recorder.lastSeqTo (r : Recorder) (first : Nat) (stop : Nat) : Nat :=
  ((r.pages.filter (fun p => first ≤ p.seq && p.first.any (fun t => t.time ≤ stop))).map (fun p => p.seq)).foldl
    max (first - 1)

/-- The hold that a placement would make, its pinned count still 0 (R106, R107). It is CLOSED when its end is before
now. -/
def Recorder.formHold (r : Recorder) (now : Nat) (p : Priority) (i : HoldInterval) (breach : Option Nat)
    (maxLength : Nat) : Hold :=
  let first := r.firstSeq i.start
  let closed := i.stop.any (fun t => t < now)
  { isOpen := !closed
    priority := p
    start := i.start
    stop := i.stop
    first := first
    last := if closed then some (r.lastSeqTo first (i.stop.getD 0)) else none
    pinned := 0
    closeStamp := if closed then some now else none
    breach := breach
    flags := ⟨r.shortPreroll i.start, i.truncated, false, false⟩
    maxLength := maxLength }

/-- Whether a hold can be placed without passing the budget and with a FREE slot (R112, R113). -/
def Recorder.roomFor (r : Recorder) (h : Hold) : Bool :=
  r.pinnedTotal + r.countPages (fun p => r.covers h p && p.pins == 0) ≤ pinBudget && r.freeSlot.isSome

/-- The evictions a placement needs: none at all, a leading part of the eviction order, or no part suffices (R113). -/
def Recorder.evictionsFor (r : Recorder) (h : Hold) : Option (List Nat) :=
  if r.roomFor h then some []
  else shortestEviction (fun x => x.roomFor h) r (r.evictable h.priority.number)

/-- Steps 4 and 5 of R106: the slot is taken with a new tenure and the range's pages are pinned. -/
def Recorder.fillSlot (r : Recorder) (slot : Nat) (h : Hold) : Recorder :=
  let pinned := r.countPages (r.covers h)
  let q := r.pin (r.covers h)
  { q with slots := changeAt (fun x => ⟨x.tenure + 1, some { h with pinned := pinned }⟩) slot q.slots }

/-- Places a hold (R106): the state with the whole placement, and slot and tenure, or none for REFUSED.
A refused placement changes nothing (R114). -/
def State.placeHold (s : State) (p : Priority) (start : Nat) (stop : Option Nat) (breach : Option Nat) :
    State × Option SlotRef :=
  match formInterval s.config p start stop with
  | none => (s, none)
  | some i =>
    let h := s.recorder.formHold s.now p i breach (s.config.maxHold * second)
    match s.recorder.evictionsFor h with
    | none => (s, none)
    | some evicted =>
      let cleared := s.evictAll evicted
      match cleared.recorder.freeSlot with
      | none => (s, none)
      | some slot =>
        let flagged := { h with flags := { h.flags with evictedOthers := !evicted.isEmpty } }
        let filled := cleared.setRecorder (cleared.recorder.fillSlot slot flagged)
        let ref : SlotRef := ⟨slot, filled.recorder.tenure slot⟩
        (filled.reportPlaced breach ref h.flags.prerollShort h.flags.truncated, some ref)

/-! ### Ending holds (R109 to R111, R115, R121) -/

/-- The last sequence number of an OPEN hold closed now: the current page's, or first less one when no page has been
begun since a placement with no current page (R110). The truncation of R111 and the cut of R121 take the same where there is
no current page (log 43). -/
def Recorder.lastNow (r : Recorder) (h : Hold) : Nat := r.currentSeq.getD (h.first - 1)

/-- An OPEN hold become CLOSED (R110, R111, R121). -/
def Recorder.closedHold (r : Recorder) (now stop : Nat) (h : Hold) : Hold :=
  { h with isOpen := false, stop := some stop, last := some (r.lastNow h), closeStamp := some now }

/-- Set end (R104, R109): an OPEN hold of that slot and tenure whose to is absent takes the end stamp plus the
post-roll; any other set end is ignored. -/
def State.setEnd (s : State) (ref : SlotRef) (stop : Nat) : State :=
  if s.recorder.tenure ref.slot = ref.tenure then
    s.setRecorder (s.recorder.changeHold ref.slot (fun h =>
      if h.isOpen && h.stop.isNone then { h with stop := some (shelfAdd stop (s.config.postRoll * second)) } else h))
  else s

/-- Whether a unit or MARK request stamped at or before a time still waits (R110). A MARK request that waits at the entry to
FAULT goes on waiting there (log 23). -/
def State.waitsUpTo (s : State) (t : Nat) : Bool :=
  s.port.queue.any (fun u => u.arrival.time ≤ t) || s.recorder.marks.any (fun m => m.stamp.time ≤ t)

/-- The end of a hold's interval (R110): an OPEN hold's end has passed and every unit up to it has been taken or
discarded. -/
def State.holdIntervalClose (s : State) (slot : Nat) : State :=
  match s.recorder.hold? slot with
  | none => s
  | some h =>
    match h.stop with
    | none => s
    | some stop =>
      if h.isOpen && stop < s.now && !s.waitsUpTo stop then
        s.setRecorder (s.recorder.changeHold slot (s.recorder.closedHold s.now stop))
      else s

/-- HOLD_INTERVAL_CLOSE: a hold's interval ends (R110). -/
def execHoldIntervalClose (slot : BitVec 5) (s : State) : Host.Outcome State Fault Refusal :=
  .next (s.holdIntervalClose slot.toNat)

/-- The maximum length of a hold (R111): an OPEN hold reaches from plus M and is truncated there, unless its end is
present and at or before that moment. -/
def State.holdMaxLengthExpiry (s : State) (slot : Nat) : State :=
  match s.recorder.hold? slot with
  | none => s
  | some h =>
    let limit := h.start + h.maxLength
    if h.isOpen && limit ≤ s.now && !h.stop.any (fun t => t ≤ limit) then
      let closed := s.setRecorder (s.recorder.changeHold slot (fun x =>
        { s.recorder.closedHold s.now limit x with flags := { x.flags with truncated := true } }))
      closed.reportTruncated h.breach
    else s

/-- HOLD_MAX_LENGTH_EXPIRY: a hold reaches its maximum length (R111). -/
def execHoldMaxLengthExpiry (slot : BitVec 5) (s : State) : Host.Outcome State Fault Refusal :=
  .next (s.holdMaxLengthExpiry slot.toNat)

/-- Cuts every OPEN hold at a restart, and tells the Breach Log of those that name a record (R121). -/
def State.cutHolds (s : State) : State :=
  let cut := s.setRecorder (s.recorder.changeOpen (fun h =>
    { s.recorder.closedHold s.now s.now h with flags := { h.flags with restartCut := true } }))
  s.recorder.openHolds.foldl (fun t h => t.reportCut h.breach) cut

/-! ### Beginning a page (R101, R108, R115) -/

/-- The chosen page begun: its old contents cease to exist and it becomes the current page, not yet pinned (R101). -/
def Recorder.beginUnpinned (r : Recorder) (index : Nat) : Recorder :=
  { r with
    pages := putPage ⟨index, r.counter, none, none, [], 0⟩ r.pages
    current := some index
    counter := r.counter + 1 }

/-- The begun page pinned by every OPEN hold (R108). -/
def Recorder.pinBegun (r : Recorder) (index : Nat) : Recorder :=
  let n := r.openHolds.length
  if n = 0 then r
  else
    { r.changeOpen (fun h => { h with pinned := h.pinned + 1 }) with
      pages := r.pages.map (fun p => if p.index == index then { p with pins := n } else p)
      pinnedTotal := r.pinnedTotal + 1 }

/-- The highest priority among the OPEN holds (R115). -/
def Recorder.requesterPriority (r : Recorder) : Nat := (r.openHolds.map (fun h => h.priority.number)).foldl max 0

/-- The evictions a page begun at the full budget makes: up to the first that returns a page (R115, log 14). -/
def Recorder.budgetEvictions (r : Recorder) : Option (List Nat) :=
  shortestEviction (fun x => x.pinnedTotal < r.pinnedTotal) r (r.evictable r.requesterPriority)

/-- Every OPEN hold truncated at the budget (R115): last is the page just closed, to the new page's first stamp. -/
def State.truncateOpen (s : State) (closedSeq : Nat) (stop : Nat) : State :=
  let cut := s.setRecorder (s.recorder.changeOpen (fun h =>
    { h with
      isOpen := false
      stop := some stop
      last := some closedSeq
      closeStamp := some s.now
      flags := { h.flags with truncated := true } }))
  s.recorder.openHolds.foldl (fun t h => t.reportTruncated h.breach) cut

/-- The writer begins a page for a unit with the given stamp (R101, R108, R115). -/
def State.beginPage (s : State) (stamp : Stamp) : State :=
  match s.recorder.chosenPage with
  | none => s
  | some index =>
    let closedSeq := s.recorder.currentSeq.getD (s.recorder.counter - 1)
    let begun := s.setRecorder (s.recorder.beginUnpinned index)
    if begun.recorder.openHolds.isEmpty || begun.recorder.pinnedTotal < pinBudget then
      begun.setRecorder (begun.recorder.pinBegun index)
    else
      match begun.recorder.budgetEvictions with
      | some slots =>
        let cleared := begun.evictAll slots
        let flagged := cleared.recorder.changeOpen (fun h =>
          { h with flags := { h.flags with evictedOthers := true } })
        cleared.setRecorder (flagged.pinBegun index)
      | none => begun.truncateOpen closedSeq stamp.time

/-! ### Writing (R100, R102) -/

/-- Whether a unit needs a new page: there is none, or it does not fit (R100). -/
def Recorder.needsPage (r : Recorder) (u : RecordedUnit) : Bool :=
  match r.currentPage with
  | none => true
  | some p => pageBytes < p.fill + u.size

/-- Makes the page ready for a unit; none when no further page can be begun and the unit is taken unwritten (R101). -/
def State.readyPage (s : State) (u : RecordedUnit) : Option State :=
  if s.recorder.needsPage u then
    if s.recorder.counter < counterEnd then some (s.beginPage u.arrival) else none
  else some s

/-- Writes a unit at the current page's fill (R100, steps 3 and 4). -/
def Recorder.append (r : Recorder) (u : RecordedUnit) : Recorder :=
  match r.current with
  | none => r
  | some index =>
    { r with
      pages := r.pages.map (fun p =>
        if p.index == index then
          { p with
            units := p.units ++ [u]
            first := if p.units.isEmpty then some u.arrival else p.first
            last := some u.arrival }
        else p)
      lastMedia := u.mediaTime }

/-- Gives a recorded unit to the Recorder (R100): the page is made ready and the write begins. A unit that no page can
take leaves the input queue at once (R101, log 21). -/
def State.recordUnit (s : State) (u : RecordedUnit) : State :=
  match s.readyPage u with
  | some t => t.setRecorder { t.recorder with writing := some u }
  | none => s.setPort { s.port with queue := s.port.queue.drop 1 }

/-- RECORDER_WRITE_COMPLETE (R7, R100): the unit's bytes are in stacked DRAM, so it is taken and leaves the queue. -/
def execRecorderWriteComplete (s : State) : Host.Outcome State Fault Refusal :=
  match s.recorder.writing with
  | none => .next s
  | some u =>
    let written := s.setRecorder { s.recorder.append u with writing := none }
    .next (written.setPort { written.port with queue := written.port.queue.drop 1 })

/-- A MARK request joins those waiting, behind those of an earlier or the same place (R102). -/
def State.requestMark (s : State) (m : MarkRequest) : State :=
  s.setRecorder { s.recorder with marks := placeBefore (fun y => m.place < y.place) m s.recorder.marks }

/-- The MARK unit of a request; a media time not given is that of the most recent unit written (R102, log 8). -/
def Recorder.markUnit (r : Recorder) (m : MarkRequest) : RecordedUnit :=
  ⟨.mark, false, m.stamp, m.media.getD r.lastMedia, markBytes m⟩

/-- Whether every unit that goes before a MARK request has been taken or discarded (R102). -/
def State.markDue (s : State) (m : MarkRequest) : Bool := s.port.queue.all (fun u => m.place ≤ u.serial)

/-- MARK_UNIT_WRITE (R102): the first waiting MARK unit, its turn come, is written into the recording. No page is begun
and no MARK unit served in FAULT (R119, log 23). -/
def execMarkUnitWrite (s : State) : Host.Outcome State Fault Refusal :=
  match s.recorder.marks with
  | [] => .next s
  | m :: rest =>
    if s.startup.station != .fault && s.recorder.writing.isNone && s.markDue m then
      let served := s.setRecorder { s.recorder with marks := rest }
      let u := s.recorder.markUnit m
      match served.readyPage u with
      | some t => .next (t.setRecorder (t.recorder.append u))
      | none => .next served
    else .next s

/-! ### Reading (R118) -/

/-- The units of a page with their read positions. -/
def pagePositions (seq : Nat) : Nat → List RecordedUnit → List (ReadPosition × RecordedUnit)
  | _, [] => []
  | n, u :: us => (⟨seq, n⟩, u) :: pagePositions seq (n + 1) us

/-- The units of a hold as one ordered list (R118). -/
def Recorder.holdUnits (r : Recorder) (h : Hold) : List (ReadPosition × RecordedUnit) :=
  ((sortBy (fun p => p.seq) (r.pages.filter (r.covers h))).map (fun p => pagePositions p.seq 0 p.units)).flatten

/-- The position after the last unit of a hold (R118): its last page's, or its first when it has no page. -/
def Recorder.endPosition (r : Recorder) (h : Hold) : ReadPosition :=
  match (sortBy (fun p => p.seq) (r.pages.filter (r.covers h))).getLast? with
  | none => ⟨h.first, 0⟩
  | some p => ⟨p.seq, p.units.length⟩

/-- Whether a position is at or after another. -/
def ReadPosition.atOrAfter (a b : ReadPosition) : Bool := b.seq < a.seq || (a.seq == b.seq && b.number ≤ a.number)

/-- The first position whose unit's arrival stamp is at or after a time, or the position after the last unit (R118). -/
def Recorder.seekPosition (r : Recorder) (h : Hold) (t : Nat) : ReadPosition :=
  match (r.holdUnits h).find? (fun x => t ≤ x.2.arrival.time) with
  | some x => x.1
  | none => r.endPosition h

/-- The unit at a position, with its own position, if one is written there or after it (R118). -/
def Recorder.unitAt (r : Recorder) (h : Hold) (pos : ReadPosition) : Option (ReadPosition × RecordedUnit) :=
  (r.holdUnits h).find? (fun x => x.1.atOrAfter pos)

end Sys2Proof.Machine
end

