-- ==== Sys2Proof/Machine/Breach.lean ====
section
/-! DEFINITION. Raising and ending breaches: the one creation operation every block uses (R169), its close (R170), the
close of PEER_NOTED records (R171). -/

namespace Sys2Proof.Machine

/-- The segment a record names: id, class and scope (R166). -/
structure SegmentName where
  id    : Word32
  cls   : SegClass
  scope : Scope
deriving DecidableEq, Repr

/-- A creation request (R169). With an end stamp the record is instant, without one it is opened. Where no segment is
named, the current segment record's is taken (R166). -/
structure BreachRequest where
  category   : Category
  startStamp : Stamp
  endStamp   : Option Stamp := none
  figure     : Option Int := none
  segment    : Option SegmentName := none
  origin     : Origin := .own
  impaired   : Bool := false
  proxy      : Bool := false
deriving DecidableEq, Repr

/-- The name of a segment record. -/
def SegmentRecord.name (r : SegmentRecord) : SegmentName := ⟨r.segmentId, r.cls, r.scope⟩

/-- The segment a request's record names (R166). -/
def State.segmentOf (s : State) (q : BreachRequest) : SegmentName := q.segment.getD s.segments.current.name

/-- The record a request creates under a number (R166). -/
def State.recordOf (s : State) (q : BreachRequest) (number : Nat) : BreachRecord where
  serial := 0
  number := number
  category := q.category
  origin := q.origin
  segmentId := (s.segmentOf q).id
  cls := (s.segmentOf q).cls
  scope := (s.segmentOf q).scope
  startStamp := q.startStamp
  endStamp := q.endStamp
  figure := q.figure
  hold := none
  flags := ⟨q.impaired, q.proxy, false, false, false, false, false⟩
  isOpen := q.endStamp.isNone
  acked := false

/-- The open-cause row a request fills (R170). -/
def State.causeOf (s : State) (q : BreachRequest) (number : Nat) (stored : Bool) : OpenCause where
  category := q.category
  number := number
  stored := stored
  hold := none
  segmentId := (s.segmentOf q).id
  scope := (s.segmentOf q).scope
  startStamp := q.startStamp
  flags := ⟨q.impaired, q.proxy⟩

/-- Fills the row of a category, in code order (R170). -/
def BreachLog.putCause (l : BreachLog) (c : OpenCause) : BreachLog :=
  { l with
    causes := placeBefore (fun y => c.category.code < y.category.code) c
      (l.causes.filter (fun y => y.category != c.category)) }

/-- The filled row of a category. -/
def BreachLog.cause? (l : BreachLog) (c : Category) : Option OpenCause := l.causes.find? (fun y => y.category == c)

/-- Steps 1 to 3 of R169: number, storing and open cause, with the pulses of R178. Answers the number and whether the
record was stored. -/
def State.enterRecord (s : State) (q : BreachRequest) : State × Nat × Bool :=
  let number := s.log.drawn
  let pulsed := (s.setLog { s.log with nextNumber := numberAfter number }).pulseForCategory q.category
  let stored := pulsed.storeRecord (s.recordOf q number)
  if q.category.hasCause && q.endStamp.isNone then
    (stored.1.setLog (stored.1.log.putCause (s.causeOf q number stored.2)), number, stored.2)
  else (stored.1, number, stored.2)

/-- The notice of a creation (R135, R169): the figure goes with an instant record only. -/
def State.noticeOf (s : State) (q : BreachRequest) (number : Nat) : Notice :=
  .breach
    { number := number
      category := q.category
      flags := ⟨q.impaired, q.proxy⟩
      segmentId := (s.segmentOf q).id
      scope := (s.segmentOf q).scope
      startStamp := q.startStamp
      endStamp := q.endStamp
      figure := if q.endStamp.isSome then q.figure else none }

/-- Steps 5 and 6 of R169: the BREACH notice of a shared category, and the upshift event of origin OWN. -/
def State.announce (s : State) (q : BreachRequest) (notice : Notice) : State :=
  let offered := if q.category.shared then s.offer notice [] else s
  match q.origin with
  | .own => offered.upshift
  | .peer _ _ => offered

/-- Creation without step 4 of R169, for a category that retains no evidence of its own. -/
def State.createPlain (s : State) (q : BreachRequest) : State × Option Nat :=
  let entered := s.enterRecord q
  (entered.1.announce q (s.noticeOf q entered.2.1), if entered.2.2 then some entered.2.1 else none)

/-- The HOLD_REFUSED record of a refused OWN or SYMPATHETIC placement (R114). -/
def State.createHoldRefused (s : State) (breach : Option Nat) : State :=
  (s.createPlain
    { category := .holdRefused
      startStamp := s.nowStamp
      endStamp := some s.nowStamp
      figure := breach.map Int.ofNat }).1

/-- Step 4 of R169: the OWN hold of a category that retains evidence. The answer goes to the open-cause row; a refusal
creates HOLD_REFUSED in full. -/
def State.holdForRecord (s : State) (q : BreachRequest) (number : Option Nat) : State :=
  if q.category.retains && q.origin == .own then
    let placed := s.placeHold .own q.startStamp.time (q.endStamp.map (fun t => t.time)) number
    match placed.2 with
    | none => placed.1.createHoldRefused number
    | some ref =>
      placed.1.setLog { placed.1.log with causes := placed.1.log.causes.map (fun c =>
        if c.category == q.category && q.endStamp.isNone then { c with hold := some ref } else c) }
  else s

/-- Taking a creation request (R169): the one operation by which every record comes about. Answers the breach number,
or none when the record was not stored. -/
def State.createBreach (s : State) (q : BreachRequest) : State × Option Nat :=
  let entered := s.enterRecord q
  let number := if entered.2.2 then some entered.2.1 else none
  ((entered.1.holdForRecord q number).announce q (s.noticeOf q entered.2.1), number)

/-- A creation whose answer the requester does not use (R169, step 7). -/
def State.raise (s : State) (q : BreachRequest) : State := (s.createBreach q).1

/-- The record of a stored cause as the close leaves it (R170, step 1). -/
def closeRecord (stop : Stamp) (figure : Option Int) (impaired : Bool) (r : BreachRecord) : BreachRecord :=
  { r with
    endStamp := some stop
    figure := figure
    isOpen := false
    flags := { r.flags with impaired := r.flags.impaired || impaired } }

/-- The flags a closing notice carries: those of the record as they now stand, or of the row (R170, step 3). -/
def BreachLog.closingFlags (l : BreachLog) (c : OpenCause) (impaired : Bool) : NoticeFlags :=
  match (if c.stored then l.record? c.number else none) with
  | some r => ⟨r.flags.impaired, r.flags.proxy⟩
  | none => ⟨c.flags.impaired || impaired, c.flags.proxy⟩

/-- The closing notice of a cause (R170, step 3). -/
def BreachLog.closingNotice (l : BreachLog) (c : OpenCause) (stop : Stamp) (figure : Option Int) (impaired : Bool) :
    Notice :=
  .breach
    { number := c.number
      category := c.category
      flags := l.closingFlags c impaired
      segmentId := c.segmentId
      scope := c.scope
      startStamp := c.startStamp
      endStamp := some stop
      figure := figure }

/-- A close request for a category of the open-cause table (R170). -/
def State.closeBreach (s : State) (category : Category) (stop : Stamp) (figure : Option Int) (impaired : Bool) :
    State :=
  match s.log.cause? category with
  | none => s
  | some c =>
    let closed := if c.stored then s.setLog (s.log.change c.number (closeRecord stop figure impaired)) else s
    let ended := match c.hold with
      | none => closed
      | some ref => closed.setEnd ref stop.time
    let offered :=
      if category.shared then ended.offer (ended.log.closingNotice c stop figure impaired) [] else ended
    offered.setLog { offered.log with causes := offered.log.causes.filter (fun y => y.category != category) }

/-- A close request for a PEER_NOTED record, by its number (R171); ignored unless the record is present and OPEN. -/
def State.closePeerNoted (s : State) (number : Nat) (stop : Stamp) (impaired proxy lost : Bool) : State :=
  s.setLog (s.log.change number (fun r =>
    if r.isOpen && r.category == .peerNoted then
      { r with
        endStamp := some stop
        isOpen := false
        flags := { r.flags with
          impaired := r.flags.impaired || impaired
          proxy := r.flags.proxy || proxy
          peerLost := r.flags.peerLost || lost } }
    else r))

/-- Places a SYMPATHETIC hold (R157, step 3); a refusal creates HOLD_REFUSED (R114). -/
def State.placeSympathetic (s : State) (start : Nat) (stop : Option Nat) (number : Option Nat) :
    State × Option SlotRef :=
  let placed := s.placeHold .sympathetic start stop number
  match placed.2 with
  | none => (placed.1.createHoldRefused number, none)
  | some ref => (placed.1, some ref)

end Sys2Proof.Machine
end

