-- ==== Sys2Proof/Machine/TimeBase.lean ====
section
/-! DEFINITION. The Time Base: the local count and shelf time, the source states, the reference history and following a
peer (R25 to R33, R35, R37, R40). Correction and the oscillator check are in Machine/Correction.lean. -/

namespace Sys2Proof.Machine

/-! ### Source states (R28 to R31, R37, R40) -/

/-- Whether TIME_DEGRADED reports a source state: HOLDOVER and FREE (R37). -/
def TimeClass.degraded : TimeClass → Bool
  | .holdover | .free => true
  | .locked | .peer => false

/-- The Time Base in a source state entered: leaving LOCKED ends the reference silence deadline and abandons the check
window, which both begin after LOCKED is entered (R28, R29, R38); entering HOLDOVER sets the holdover deadline (R30);
leaving PEER gives up the followed peer (R28, R33). -/
def TimeBase.inSource (t : TimeBase) (limit : Nat) (c : TimeClass) : TimeBase :=
  { t with
    source := c
    followed := if c = .peer then t.followed else none
    silenceDeadline := none
    holdoverDeadline := if c = .holdover then some (t.shelf + limit) else none
    window := none }

/-- The TIME_DEGRADED record that a change of source state opens or closes, unless it is deferred (R37, R40). -/
def State.reportSource (s : State) (was : TimeClass) : State :=
  if s.live then
    if !was.degraded && s.time.source.degraded then s.raise { category := .timeDegraded, startStamp := s.nowStamp }
    else if was.degraded && !s.time.source.degraded then s.closeBreach .timeDegraded s.nowStamp none false
    else s
  else s

/-- Moves the Time Base to a source state, with the record the change asks for (R37). -/
def State.enterSource (s : State) (c : TimeClass) : State :=
  (s.setTime (s.time.inSource (s.config.holdoverLimit * second) c)).reportSource s.time.source

/-- Settles on entry to LISTENING the records deferred until then (R40), TIME_DEGRADED before CLOCK_SUSPECT (log 41). -/
def State.settleTimeRecords (s : State) : State :=
  let opened :=
    if s.time.source.degraded then s.raise { category := .timeDegraded, startStamp := s.nowStamp } else s
  if s.time.suspect then opened.raise { category := .clockSuspect, startStamp := s.nowStamp } else opened

/-! ### Following a peer (R31 to R33) -/

/-- The class number of a peer entry's last STATUS head; 5 while it is absent (R31). -/
def PeerEntry.classNumber (e : PeerEntry) : Nat :=
  match e.status with
  | none => 5
  | some p => p.timeClass.number

/-- Whether a peer entry is a candidate (R31). -/
def PeerEntry.candidate (own : Nat) (e : PeerEntry) : Bool :=
  e.heard && e.classNumber ≤ 2 && e.station.toNat != own

/-- The peer choice: the lowest time class, then the lowest station number (R31). -/
def State.peerChoice (s : State) : Option PeerEntry :=
  leastBy (fun e => e.classNumber * 256 + e.station.toNat)
    (s.peers.table.filter (fun e => e.candidate s.config.stationNumber))

/-- Follows a peer: the state becomes or stays PEER (R31). -/
def State.follow (s : State) (e : PeerEntry) : State :=
  (s.setTime { s.time with followed := some e.station }).enterSource .peer

/-- The class number of the followed peer (R31). -/
def State.followedClass (s : State) : Nat :=
  match s.time.followed.bind s.peer? with
  | none => 5
  | some e => e.classNumber

/-- A peer choice made while FREE or PEER (R31). -/
def State.considerPeers (s : State) : State :=
  match s.time.source, s.peerChoice with
  | .free, some e => s.follow e
  | .peer, some e => if e.classNumber < s.followedClass then s.follow e else s
  | _, _ => s

/-- The loss of the followed peer (R33). -/
def State.loseFollowed (s : State) (station : Byte) : State :=
  if s.time.source = .peer ∧ s.time.followed = some station then
    match s.peerChoice with
    | some e => s.follow e
    | none => s.enterSource .free
  else s

/-! ### The tick (R25, R35) -/

/-- By how much a tick advances shelf time (R25, R35). -/
def TimeBase.advance (t : TimeBase) : Nat :=
  if t.adjustNext then
    if 0 < t.remaining then 2 else if t.remaining < 0 then 0 else 1
  else 1

/-- The remaining offset after a tick (R35). -/
def TimeBase.remainingAfter (t : TimeBase) : Int :=
  if t.adjustNext then
    if 0 < t.remaining then t.remaining - 1 else if t.remaining < 0 then t.remaining + 1 else 0
  else t.remaining

/-- The Time Base after one tick (R25, R35). -/
def TimeBase.tick (t : TimeBase) : TimeBase :=
  let shelf := shelfAdd t.shelf t.advance
  { t with
    localCount := t.localCount + 1
    shelf := shelf
    remaining := t.remainingAfter
    adjustNext := t.shelf < shelf && shelf % 10000 == 0 }

/-- The line's measures after one tick: the quiet count (R127, log 28) and the current occupancy bucket (R133), which
runs in LISTENING, RUNNING and LISTEN_ONLY. -/
def ShelfLink.tick (l : ShelfLink) (live : Bool) : ShelfLink :=
  { l with
    quietCount := if l.busy then l.quietCount else l.quietCount + 1
    occupancy := if live && l.busy then changeAt (fun n => n + 1) 0 l.occupancy else l.occupancy
    bucketTicks := if live then l.bucketTicks + 1 else l.bucketTicks }

/-- OSCILLATOR_TICK: one tick of the local oscillator (R25, R35, R127, R133). -/
def execOscillatorTick (s : State) : Host.Outcome State Fault Refusal :=
  .next ((s.setTime s.time.tick).setLink (s.link.tick s.live))

/-! ### Deadlines (R28 to R30) -/

/-- The reference history without the entries 30 s or more old (R28). -/
def TimeBase.pruned (t : TimeBase) : TimeBase :=
  { t with history := t.history.filter (fun e => t.shelf < e.arrival.time + 30 * second) }

/-- Entries of the reference history that have reached 30 s of age are removed (R28). -/
def State.historyEntryExpiry (s : State) : State := s.setTime s.time.pruned

/-- HISTORY_ENTRY_EXPIRY: entries of the reference history have reached 30 s of age (R28). -/
def execHistoryEntryExpiry (s : State) : Host.Outcome State Fault Refusal := .next s.historyEntryExpiry

/-- The reference silence expires: LOCKED gives way to HOLDOVER (R29). In FAULT the source state does not change
(R40). -/
def State.referenceSilenceExpiry (s : State) : State :=
  if s.startup.station ≠ .fault ∧ s.time.source = .locked ∧ reached s.time.silenceDeadline s.now = true then
    s.enterSource .holdover
  else s

/-- REFERENCE_SILENCE_EXPIRY: the reference silence expires (R29). -/
def execReferenceSilenceExpiry (s : State) : Host.Outcome State Fault Refusal := .next s.referenceSilenceExpiry

/-- The holdover deadline: a peer choice gives PEER, or else FREE (R30). In FAULT the source state does not change
(R40). -/
def State.holdoverExpiry (s : State) : State :=
  if s.startup.station ≠ .fault ∧ s.time.source = .holdover ∧ reached s.time.holdoverDeadline s.now = true then
    match s.peerChoice with
    | some e => s.follow e
    | none => s.enterSource .free
  else s

/-- HOLDOVER_EXPIRY: the holdover deadline is reached (R30). -/
def execHoldoverExpiry (s : State) : Host.Outcome State Fault Refusal := .next s.holdoverExpiry

end Sys2Proof.Machine
end

