-- ==== Sys2Proof/Machine/Companions.lean ====
section
/-! DEFINITION. Expected companions and divergence (R153 to R155), peer deadlines and the removal of a peer entry
(R147, R148). Taking a received frame is in Machine/Peers.lean. -/

namespace Sys2Proof.Machine

/-! ### Judgement (R153 to R155) -/

/-- Whether a peer's last STATUS head reported a common count of 1 or more (R154). -/
def PeerEntry.agreesWithSomeone (e : PeerEntry) : Bool := e.status.any (fun p => 1 ≤ p.commonCount.toNat)

/-- The divergence condition (R154). -/
def State.diverges (s : State) : Bool :=
  s.reception.state == .normal && 2 ≤ s.companions.length && s.companions.all (fun e => e.relation == .apart)
    && s.companions.any (fun e => e.agreesWithSomeone)

/-- The divergence timer after a judgement (R154). -/
def State.divergenceTimer (s : State) : Option Stamp :=
  if s.diverges then
    match s.peers.divergence with
    | some t => some t
    | none => if s.peers.divergentOpen then none else some s.nowStamp
  else none

/-- Closes the CONTENT_DIVERGENT record, if one is open (R155). -/
def State.closeDivergent (s : State) : State :=
  if s.peers.divergentOpen then
    (s.setPeers { s.peers with divergentOpen := false }).closeBreach .contentDivergent s.nowStamp none false
  else s

/-- A judgement of the expected companions: the timer is driven, and a companion held COMMON closes CONTENT_DIVERGENT
(R153 to R155). -/
def State.judge (s : State) : State :=
  let timed := s.setPeers { s.peers with divergence := s.divergenceTimer }
  if 0 < s.commonCount then timed.closeDivergent else timed

/-- The divergence timer expires and CONTENT_DIVERGENT opens, backdated (R154, R155). The Peer Monitor does not run in
FAULT (R164). -/
def State.divergenceExpiry (s : State) : State :=
  match s.peers.divergence with
  | none => s
  | some start =>
    if s.startup.station ≠ .fault ∧ start.time + s.config.divergenceTime * second ≤ s.now then
      (s.setPeers { s.peers with divergence := none, divergentOpen := true }).raise
        { category := .contentDivergent, startStamp := start }
    else s

/-- DIVERGENCE_EXPIRY: the divergence timer expires (R154). -/
def execDivergenceExpiry (s : State) : Host.Outcome State Fault Refusal := .next s.divergenceExpiry

/-! ### Removal of an entry (R147, R148) -/

/-- The period a peer's deadlines count in: 16 s while its class is absent (R147). -/
def PeerEntry.period (e : PeerEntry) : Nat :=
  match e.status with
  | none => 16 * second
  | some p => p.period.period

/-- The stale deadline (R147). -/
def PeerEntry.staleDeadline (e : PeerEntry) : Nat := e.lastHeard.time + 3 * e.period

/-- The removal deadline (R147). -/
def PeerEntry.removalDeadline (e : PeerEntry) : Nat := e.lastHeard.time + 6 * e.period

/-- Sends a set end for a hold that may be absent (R109). -/
def State.endHold (s : State) (ref : Option SlotRef) (stop : Nat) : State :=
  match ref with
  | none => s
  | some r => s.setEnd r stop

/-- Ends one noted breach of a peer that is lost (R148, step 1). -/
def State.loseNoted (s : State) (e : NotedBreach) : State :=
  let ended := s.endHold e.hold s.now
  match e.ownBreach with
  | none => ended
  | some n => ended.closePeerNoted n s.nowStamp false false true

/-- Steps 1 to 3 of a removal: noted breaches, cache entries and the entry go (R148). -/
def State.dropPeer (s : State) (station : Byte) : State :=
  let ended := (s.peers.noted.filter (fun e => e.peer == station)).foldl (fun t e => t.loseNoted e) s
  ended.setPeers { ended.peers with
    noted := ended.peers.noted.filter (fun e => e.peer != station)
    cache := ended.peers.cache.filter (fun e => e.sender != station)
    table := ended.peers.table.filter (fun e => e.station != station) }

/-- Removes a peer entry (R148). -/
def State.removePeer (s : State) (station : Byte) : State :=
  ((((s.dropPeer station).upshift).loseFollowed station).considerPeers).judge

/-- A HEARD entry becomes STALE, and the companions and divergence are judged afresh (R147). -/
def State.becomeStale (s : State) (station : Byte) : State :=
  (s.setPeers (s.peers.change station (fun x => { x with heard := false }))).judge

/-- The stale deadline of a peer: a HEARD entry becomes STALE (R147). -/
def State.peerStaleDeadline (s : State) (station : Byte) : State :=
  match s.peer? station with
  | none => s
  | some e =>
    if s.startup.station ≠ .fault ∧ e.heard = true ∧ e.staleDeadline ≤ s.now then s.becomeStale station else s

/-- PEER_STALE_DEADLINE: a peer's stale deadline is reached (R147). -/
def execPeerStaleDeadline (station : Byte) (s : State) : Host.Outcome State Fault Refusal :=
  .next (s.peerStaleDeadline station)

/-- The removal deadline of a peer: an entry unheard for six periods is removed (R147, R148). One that is still HEARD has
had both deadlines passed: it becomes STALE first and is then removed (R147). -/
def State.peerRemovalDeadline (s : State) (station : Byte) : State :=
  match s.peer? station with
  | none => s
  | some e =>
    if s.startup.station ≠ .fault ∧ e.removalDeadline ≤ s.now then
      (if e.heard then s.becomeStale station else s).removePeer station
    else s

/-- PEER_REMOVAL_DEADLINE: a peer's removal deadline is reached (R147, R148). -/
def execPeerRemovalDeadline (station : Byte) (s : State) : Host.Outcome State Fault Refusal :=
  .next (s.peerRemovalDeadline station)

end Sys2Proof.Machine
end

