-- ==== Sys2Proof/Machine/Measure.lean ====
section
/-! DEFINITION. The arithmetic of the measurements: the weighting filter (R43 to R46), mean squares and energies (R47,
R48), the loudness of an energy (R51), peak magnitudes and figures (R65, R66), the gated mean (R64). -/

namespace Sys2Proof.Machine

/-! ### Channels (R43, R65) -/

/-- The channels that are filtered and peak-measured, in channel order: LFE, the fourth of six, is left out (R43, R65). -/
def measured (samples : List Int) : List Int :=
  if samples.length = 6 then samples.take 3 ++ samples.drop 4 else samples

/-- The surround weight 1.41253754 in multiples of 2^-30 (R43). -/
def surroundWeight : Nat := 1516700635

/-- The weights of the measured channels in multiples of 2^-30: Ls and Rs are the last two of five (R43). -/
def channelWeights (channels : Nat) : List Nat :=
  if channels = 5 then [2 ^ 30, 2 ^ 30, 2 ^ 30, surroundWeight, surroundWeight] else List.replicate channels (2 ^ 30)

/-! ### The weighting filter (R45, R46) -/

/-- The coefficients of a section in multiples of 2^-30 (R45). -/
structure Coefficients where
  b0 : Int
  b1 : Int
  b2 : Int
  a1 : Int
  a2 : Int
deriving DecidableEq, Repr

/-- Section 1, the high shelf (R45). -/
def shelfCoefficients : Coefficients := ⟨1648327767, -2890186776, 1286764483, -1815331593, 786495243⟩

/-- Section 2, the high pass (R45). -/
def highPassCoefficients : Coefficients := ⟨1073741824, -2147483648, 1073741824, -2136797184, 1063081984⟩

/-- Rounds to the nearest multiple of 2^30 and answers how many; a tie goes to the even one (R45). -/
def roundEven (x : Int) : Int :=
  let q := x / 2 ^ 30
  let r := x % 2 ^ 30
  if r < 2 ^ 29 then q else if 2 ^ 29 < r then q + 1 else if q % 2 = 0 then q else q + 1

/-- A section's output for an input in multiples of 2^-32 (R45). -/
def Section.output (c : Coefficients) (s : Section) (x : Int) : Int :=
  roundEven (c.b0 * x + c.b1 * s.in1 + c.b2 * s.in2 - c.a1 * s.out1 - c.a2 * s.out2)

/-- A section's state after an input (R46). -/
def Section.next (c : Coefficients) (s : Section) (x : Int) : Section := ⟨x, s.in1, s.output c x, s.out1⟩

/-- The zero filter state (R46). -/
def ChannelFilter.zero : ChannelFilter := ⟨⟨0, 0, 0, 0⟩, ⟨0, 0, 0, 0⟩⟩

/-- A channel's filter state after a 24-bit sample (R43, R45, R46). -/
def ChannelFilter.next (f : ChannelFilter) (sample : Int) : ChannelFilter :=
  ⟨f.shelf.next shelfCoefficients (sample * 512),
    f.highPass.next highPassCoefficients (f.shelf.output shelfCoefficients (sample * 512))⟩

/-- The weighted sample of a channel, in multiples of 2^-32: section 2's newest output (R45). -/
def ChannelFilter.weighted (f : ChannelFilter) : Int := f.highPass.out1

/-! ### Energies (R47, R48, R50, R53, R54) -/

/-- The mean square of a square sum over a number of positions, in multiples of 2^-48 (R47). -/
def meanSquare (positions sum : Nat) : Nat := sum / (positions * 2 ^ 16)

/-- The energy of a sub-block from the square sums of its measured channels (R48). -/
def subBlockEnergy (positions : Nat) (sums : List Nat) : Nat :=
  (List.zipWith (fun w x => w * meanSquare positions x) (channelWeights sums.length) sums).sum / 2 ^ 30

/-- The mean of energies, rounded toward zero to a multiple of 2^-48 (R50, R53, R54). -/
def meanEnergy (energies : List Nat) : Nat := energies.sum / energies.length

/-! ### The loudness of an energy (R51) -/

/-- The greatest number below 2^bits plus a base that a downward-closed test holds of, by halving. -/
def greatest (test : Nat → Bool) : Nat → Nat → Nat
  | 0, low => low
  | bits + 1, low => if test (low + 2 ^ bits) then greatest test bits (low + 2 ^ bits) else greatest test bits low

/-- Whether the exact loudness of the energy num / den, rounded with ties to the greater, is `n` hundredths or more:
n - 0.5 is at most 100 (-0.691 + 10 log10 e), which is 10^(5 n + 343) ≤ e^5000 (R51). -/
def loudnessAtLeast (numPower denPower : Nat) (n : Int) : Bool :=
  if 0 ≤ 5 * n + 343 then 10 ^ (5 * n + 343).toNat * denPower ≤ numPower
  else denPower ≤ numPower * 10 ^ (-(5 * n + 343)).toNat

/-- The loudness of the exact energy num / den, in 0.01 LU, -20,000 … 999 (R51). -/
def loudnessOfQuotient (num den : Nat) : Int :=
  if num = 0 then -20000
  else
    let numPower := num ^ 5000
    let denPower := den ^ 5000
    (greatest (fun k => k ≤ 20999 && loudnessAtLeast numPower denPower ((k : Int) - 20000)) 15 0 : Int) - 20000

/-- The loudness of an energy in multiples of 2^-48 (R51). -/
def loudnessOf (energy : Nat) : Int := loudnessOfQuotient energy (2 ^ 48)

/-! ### Peaks (R65, R66) -/

/-- The midpoint estimate's magnitude from four samples, oldest first, in multiples of 2^-27 (R65). -/
def midpointMagnitude (a b c d : Int) : Nat := (9 * b + 9 * c - a - d).natAbs

/-- The greatest magnitude a sample credits for a channel, in multiples of 2^-27 (R65). -/
def creditedMagnitude (history : List Int) (sample : Int) : Nat :=
  match history with
  | [a, b, c] => max (sample * 16).natAbs (midpointMagnitude a b c sample)
  | _ => (sample * 16).natAbs

/-- The peak history after a sample: the last three (R65). -/
def rememberSample (history : List Int) (sample : Int) : List Int := newest 3 (history ++ [sample])

/-- Whether the exact peak of a magnitude, rounded with ties to the greater, is `n` tenths or more:
n - 0.5 is at most 200 log10 P, which is 10^(2 n - 1) ≤ P^400 with P in multiples of 2^-27 (R66). -/
def peakAtLeast (magnitude : Nat) (n : Int) : Bool :=
  if 0 ≤ 2 * n - 1 then 10 ^ (2 * n - 1).toNat * 2 ^ 10800 ≤ magnitude ^ 400
  else 2 ^ 10800 ≤ magnitude ^ 400 * 10 ^ (-(2 * n - 1)).toNat

/-- The peak figure of a magnitude in multiples of 2^-27, in 0.1 dB, -999 … 19 (R66). -/
def peakFigure (magnitude : Nat) : Int :=
  if magnitude = 0 then -999
  else (greatest (fun k => k ≤ 1018 && peakAtLeast magnitude ((k : Int) - 999)) 10 0 : Int) - 999

/-- The greatest of a list of magnitudes, 0 for none. -/
def greatestOf (l : List Nat) : Nat := l.foldl max 0

/-- Channel by channel the greater of two lists of magnitudes; a channel in one list only keeps its own. -/
def maxEach : List Nat → List Nat → List Nat
  | [], ys => ys
  | xs, [] => xs
  | x :: xs, y :: ys => max x y :: maxEach xs ys

/-! ### Figures that may be NONE -/

/-- The greater of two figures, NONE giving way to any figure (R61, R63). -/
def maxFigure : Option Int → Option Int → Option Int
  | none, y => y
  | x, none => x
  | some x, some y => some (max x y)

/-! ### The histogram (R62, R64) -/

/-- Enters a block of an energy in a bin: count and energy sum grow unless the count holds (R62). -/
def enterBin (b energy : Nat) : List Bin → List Bin
  | [] => [⟨b, 1, energy⟩]
  | x :: xs =>
    if b < x.bin then ⟨b, 1, energy⟩ :: x :: xs
    else if b = x.bin then
      (if x.count < count32Max then ⟨b, x.count + 1, x.energySum + energy⟩ else x) :: xs
    else x :: enterBin b energy xs

/-- The bin of a loudness at or above the absolute gate (R62). -/
def binOf (loudness : Int) : Nat := ((loudness + 7000) / 10).toNat

/-- Gives a block to a histogram (R62). -/
def enterBlock (energy : Nat) (loudness : Int) (h : List Bin) : List Bin :=
  if loudness < -7000 then h else enterBin (binOf loudness) energy h

/-- The sum of the counts of bins. -/
def countSum (h : List Bin) : Nat := (h.map (fun b => b.count)).sum

/-- The sum of the energy sums of bins. -/
def energyTotal (h : List Bin) : Nat := (h.map (fun b => b.energySum)).sum

/-- The gate bin for a relative gate (R64). -/
def gateBin (gate : Int) : Nat := ((gate + 7000 + 9) / 10).toNat

/-- The integrated loudness of a histogram (R64). -/
def integratedLoudness (h : List Bin) : Option Int :=
  if countSum h = 0 then none
  else
    let gate := loudnessOfQuotient (energyTotal h) (countSum h * 2 ^ 48) - 1000
    let gated := h.filter (fun b => gateBin gate ≤ b.bin)
    some (loudnessOfQuotient (energyTotal gated) (countSum gated * 2 ^ 48))

end Sys2Proof.Machine
end

