-- ==== Sys2Proof/Machine/Verdicts.lean ====
section
/-! DEFINITION. The Verdict Former and the proxy verdicts: issue, loudness check, handoff to the pending list, adoption
of a peer's figures, resolution as UNMEASURED (R72 to R78, R160 to R163). -/

namespace Sys2Proof.Machine

/-! ### Issue (R77, R78, R185) -/

/-- A verdict enters the verdict history: the seventeenth pushes the oldest out, and the verdict cursor follows
(R78, R185). -/
def State.issue (s : State) (v : Verdict) : State :=
  let entered := { v with serial := s.verdicts.nextSerial }
  let history := newest 16 (s.verdicts.history ++ [entered])
  let t := s.setVerdicts ⟨history, s.verdicts.nextSerial + 1⟩
  match s.evidence.verdictCursor with
  | none => t.setEvidence { s.evidence with verdictCursor := some entered.serial }
  | some n =>
    if history.any (fun x => x.serial == n) then t
    else t.setEvidence { s.evidence with verdictCursor := history.head?.map (fun x => x.serial) }

/-- The name a verdict's records carry: its id, class and scope (R74, R75). -/
def Verdict.name (v : Verdict) : SegmentName := ⟨v.id, v.cls, v.scope⟩

/-- The LOUDNESS_HIGH or LOUDNESS_LOW category of an integrated loudness against a profile, if it lies outside the
band (R74). -/
def loudnessBreach (p : ClassProfile) (integrated : Option Int) : Option Category :=
  match integrated with
  | none => none
  | some i =>
    if p.target + p.tolerance < i then some .loudnessHigh
    else if i < p.target - p.tolerance then some .loudnessLow
    else none

/-- The loudness check of a verdict (R74, R162). -/
def State.checkLoudness (s : State) (v : Verdict) (proxy : Bool) : State :=
  match loudnessBreach (s.config.profile v.cls) v.figures.integrated with
  | none => s
  | some c =>
    s.raise
      { category := c
        startStamp := v.startStamp
        endStamp := some v.endStamp
        figure := v.figures.integrated
        segment := some v.name
        proxy := proxy }

/-- The VERDICT notice of a verdict issued OWN (R77, R136). -/
def Verdict.notice (v : Verdict) : Notice :=
  .verdict ⟨v.kind, v.id, v.cls, v.scope, v.startStamp, v.endStamp, v.figures, v.coverage, v.impaired⟩

/-- Issues a verdict with source OWN: history, notice, loudness check (R74, R77; log 37). -/
def State.issueOwn (s : State) (v : Verdict) : State :=
  let own := { v with source := .own }
  ((s.issue own).offer own.notice []).checkLoudness own false

/-- Issues a verdict with source UNMEASURED, with its MEASUREMENT_LOST record (R75, R163). -/
def State.issueUnmeasured (s : State) (v : Verdict) : State :=
  (s.issue { v with source := .unmeasured }).raise
    { category := .measurementLost
      startStamp := v.startStamp
      endStamp := some v.endStamp
      segment := some v.name }

/-! ### Proxy verdicts (R160 to R163) -/

/-- Whether the relation held toward a station is COMMON, with any offset (R162). -/
def State.isCommonPeer (s : State) (station : Byte) : Bool := (s.peer? station).any (fun e => e.relation.isCommon)

/-- Whether a cache entry is a candidate for a pending verdict (R162). -/
def State.isCandidate (s : State) (c : CacheEntry) (v : Verdict) : Bool :=
  c.verdict.kind == v.kind && c.verdict.id == v.id && !c.verdict.impaired && s.isCommonPeer c.sender

/-- The candidate taken for a verdict among cache entries: the lowest station number (R162). -/
def State.candidateFor (s : State) (v : Verdict) (cache : List CacheEntry) : Option CacheEntry :=
  leastBy (fun c => c.sender.toNat) (cache.filter (fun c => s.isCandidate c v))

/-- Resolves a verdict with source PROXY from a cache entry (R162). -/
def State.resolveProxy (s : State) (v : Verdict) (c : CacheEntry) : State :=
  let adopted := { v with figures := c.verdict.figures, source := .proxy c.sender }
  (s.issue adopted).checkLoudness adopted true

/-- Takes a pending entry off the list. -/
def PeerMonitor.takePending (p : PeerMonitor) (e : PendingVerdict) : PeerMonitor :=
  { p with pendingVerdicts := p.pendingVerdicts.erase e }

/-- Resolves a pending entry as UNMEASURED (R163). -/
def State.resolveUnmeasured (s : State) (e : PendingVerdict) : State :=
  (s.setPeers (s.peers.takePending e)).issueUnmeasured e.verdict

/-- Checks one cache entry against each pending entry in list order (R162). -/
def State.checkEntry (s : State) (c : CacheEntry) : State :=
  s.peers.pendingVerdicts.foldl (fun t e =>
    if t.isCandidate c e.verdict then (t.setPeers (t.peers.takePending e)).resolveProxy e.verdict c else t) s

/-- Checks each cache entry of a peer, at a change of its relation into COMMON (R152, R162). The entries are taken in cache
order, oldest first (log 52). -/
def State.checkPeerCache (s : State) (station : Byte) : State :=
  (s.peers.cache.filter (fun c => c.sender == station)).foldl (fun t c => t.checkEntry c) s

/-- Room for one more pending verdict: a full list first resolves its first entry (R161). -/
def State.makeRoom (s : State) : State :=
  match s.peers.pendingVerdicts with
  | e :: _ => if 4 ≤ s.peers.pendingVerdicts.length then s.resolveUnmeasured e else s
  | [] => s

/-- Places an entry in the pending list, in order of end stamp (R161). -/
def PeerMonitor.placeProxy (p : PeerMonitor) (e : PendingVerdict) : PeerMonitor :=
  { p with
    pendingVerdicts :=
      placeBefore (fun y => e.verdict.endStamp.time < y.verdict.endStamp.time) e p.pendingVerdicts }

/-- Places a verdict in the pending list (R161). One whose deadline already lies behind shelf time takes its place and is
resolved at once, so that the list is as without it. -/
def State.placePending (s : State) (v : Verdict) : State :=
  let deadline := v.endStamp.time + s.config.proxyWait * second
  if deadline < s.now then s.makeRoom.issueUnmeasured v
  else s.makeRoom.setPeers (s.makeRoom.peers.placeProxy ⟨v, deadline⟩)

/-- The handoff of an impaired NATIONAL verdict (R76, R161). -/
def State.handOff (s : State) (v : Verdict) : State :=
  match s.candidateFor v s.peers.cache with
  | some c => s.resolveProxy v c
  | none => s.placePending v

/-! ### Forming (R72 to R76) -/

/-- The figures of a closed context (R64, R66, R73). -/
def Context.figures (c : Context) : Figures :=
  ⟨integratedLoudness c.histogram, c.maxMomentary, c.maxShortTerm, peakFigure (greatestOf c.peaks), c.offered⟩

/-- The verdict of a closed context, its source still open (R73). The field then holds `own`, which nothing reads before the
verdict is issued, or resolved out of the pending list, with its own source (R76; log 46). -/
def Context.verdict (c : Context) (kind : VerdictKind) (id : Word32) (cls : SegClass) (scope : Scope)
    (coverage : Option Nat) : Verdict where
  kind := kind
  id := id
  cls := cls
  scope := scope
  startStamp := c.startStamp
  endStamp := c.endStamp.getD c.startStamp
  figures := c.figures
  coverage := coverage
  source := .own
  impaired := c.impaired
  serial := 0

/-- Deals with a verdict at its forming, by impaired mark and scope (R72). -/
def State.deal (s : State) (v : Verdict) : State :=
  if v.impaired then
    match v.scope with
    | .national => s.handOff v
    | .regional => s.issueUnmeasured v
  else s.issueOwn v

/-- The first pending entry whose deadline has been reached is resolved UNMEASURED (R163). -/
def State.proxyDeadline (s : State) : State :=
  match s.peers.pendingVerdicts.find? (fun e => e.deadline ≤ s.now) with
  | none => s
  | some e => if s.startup.station ≠ .fault then s.resolveUnmeasured e else s

/-- PROXY_DEADLINE: a pending verdict's deadline is reached (R163). -/
def execProxyDeadline (s : State) : Host.Outcome State Fault Refusal := .next s.proxyDeadline

end Sys2Proof.Machine
end

