-- ==== Sys2Proof/Machine/Evidence.lean ====
section
/-! DEFINITION. The Evidence Port: transactions, the summary, the log and verdict cursors, holds and held units (R181 to
R187). -/

namespace Sys2Proof.Machine

/-! ### Transactions (R181, R182) -/

/-- Runs a request when no transaction is in progress: one request makes one transaction (R181, log 30). -/
def State.request (s : State) (serve : State → State) : Host.Outcome State Fault Refusal :=
  match s.evidence.txn with
  | none => .next (serve s)
  | some _ => .next s

/-- Begins a transaction with its response and what its commit point will do (R181, R182). -/
def State.answer (s : State) (response : List Byte) (commit : CommitEffect) : State :=
  s.setEvidence { s.evidence with txn := some ⟨response, 0x00, commit⟩ }

/-- UNKNOWN_REQUEST: a code not in the table; every response byte is 0xFF, and nothing else happens (R181). -/
def execUnknownRequest (_code : Byte) (s : State) : Host.Outcome State Fault Refusal :=
  s.request (fun s => s.setEvidence { s.evidence with txn := some ⟨[], 0xFF, .nothing⟩ })

/-- CHIP_SELECT_RISE: the transaction ends; a reading request before its commit point takes no effect (R182). -/
def execChipSelectRise (s : State) : Host.Outcome State Fault Refusal :=
  .next (s.setEvidence { s.evidence with txn := none })

/-- The bytes clocked out from the end of the arguments on: the turnaround byte 0x00, the response, then the fill
(R181). -/
def Transaction.dataOut (x : Transaction) : Nat → Byte
  | 0 => 0x00
  | n + 1 => x.response.getD n x.fill

/-- The bits clocked out from the end of the arguments on, most significant first (R181). -/
def Transaction.dataOutBit (x : Transaction) (n : Nat) : Bool := (x.dataOut (n / 8)).getLsbD (7 - n % 8)

/-! ### The summary (R183) -/

/-- The ten counts of the summary, in order (R183). -/
def State.counts (s : State) : List Nat :=
  [s.port.inputDrops, s.port.startDiscards, s.port.framingErrors, s.port.damaged, s.captions.lateCount,
    s.segments.cueDrops, s.link.noticeDrops, s.link.crcErrors, s.log.overflow, s.peers.overflow]

/-- The configuration flags byte (R183). -/
def State.configFlags (s : State) : Byte :=
  BitVec.ofNat 8 (markBit 0 s.startup.configClamped + markBit 1 s.startup.defaultsInUse
    + markBit 2 s.startup.listenOnlyMark)

/-- The 66 bytes of the summary (R183). -/
def State.summaryBytes (s : State) : List Byte :=
  [BitVec.ofNat 8 s.startup.station.code, BitVec.ofNat 8 s.config.stationNumber] ++ stampBytes s.nowStamp
    ++ [BitVec.ofNat 8 s.link.period.code, BitVec.ofNat 8 s.reception.state.code, BitVec.ofNat 8 s.reception.effective]
    ++ beBytes 2 s.recorder.pinnedTotal
    ++ [BitVec.ofNat 8 s.recorder.freeSlots, s.configFlags, BitVec.ofNat 8 s.startup.checkResult,
      BitVec.ofNat 8 s.log.records.length, BitVec.ofNat 8 s.openBreaches, boolByte s.log.full]
    ++ beBytes 2 s.log.ackPoint ++ beBytes 2 s.log.nextNumber
    ++ (s.counts.map (beBytes 4)).flatten

/-- Reduces each of the ten counts by the value reported (R183). -/
def State.reduceCounts (s : State) (reported : List Nat) : State :=
  let r := fun i => reported.getD i 0
  let ported := s.setPort { s.port with
    inputDrops := s.port.inputDrops - r 0
    startDiscards := s.port.startDiscards - r 1
    framingErrors := s.port.framingErrors - r 2
    damaged := s.port.damaged - r 3 }
  let judged := (ported.setCaptions { s.captions with lateCount := s.captions.lateCount - r 4 }).setSegments
    { s.segments with cueDrops := s.segments.cueDrops - r 5 }
  let linked := judged.setLink { s.link with
    noticeDrops := s.link.noticeDrops - r 6
    crcErrors := s.link.crcErrors - r 7 }
  (linked.setLog { s.log with overflow := s.log.overflow - r 8 }).setPeers
    { s.peers with overflow := s.peers.overflow - r 9 }

/-- READ_SUMMARY: the response is formed (R183). -/
def execReadSummary (s : State) : Host.Outcome State Fault Refusal :=
  s.request (fun s => s.answer s.summaryBytes (.summary s.counts))

/-! ### The log and the verdict history (R184 to R186) -/

/-- The record the log cursor names, if any (R184). -/
def State.cursorRecord (s : State) : Option BreachRecord :=
  s.evidence.logCursor.bind (fun n => s.log.records.find? (fun r => r.serial == n))

/-- LOG_NEXT: the record at the cursor, or END (R184). -/
def execLogNext (s : State) : Host.Outcome State Fault Refusal :=
  s.request (fun s =>
    match s.cursorRecord with
    | some r => s.answer (0x00 :: recordBytesOf r) (.logAfter r.serial)
    | none => s.answer (0x01 :: List.replicate 37 0) .nothing)

/-- LOG_REWIND (R184). -/
def execLogRewind (s : State) : Host.Outcome State Fault Refusal := s.request (fun s => s.answer [0x00] .logOldest)

/-- LOG_ACK at its commit point: the answer is the acknowledge point as it stood before (R174, R186). -/
def execLogAck (number : BitVec 16) (s : State) : Host.Outcome State Fault Refusal :=
  s.request (fun s =>
    (s.setLog (s.log.acknowledge number.toNat)).answer (beBytes 2 s.log.ackPoint) .nothing)

/-- The verdict the verdict cursor names, if any (R185). -/
def State.cursorVerdict (s : State) : Option Verdict :=
  s.evidence.verdictCursor.bind (fun n => s.verdicts.history.find? (fun v => v.serial == n))

/-- The serial of the oldest verdict issued after a serial (R185). -/
def VerdictFormer.after (f : VerdictFormer) (serial : Nat) : Option Nat :=
  (f.history.find? (fun v => serial < v.serial)).map (fun v => v.serial)

/-- VERDICT_NEXT: the verdict at the cursor, or END (R185). -/
def execVerdictNext (s : State) : Host.Outcome State Fault Refusal :=
  s.request (fun s =>
    match s.cursorVerdict with
    | some v => s.answer (0x00 :: verdictBytesOf v) (.verdictAfter v.serial)
    | none => s.answer (0x01 :: List.replicate 42 0) .nothing)

/-- VERDICT_REWIND (R185). Its answer byte is that of LOG_REWIND (R184; log 53). -/
def execVerdictRewind (s : State) : Host.Outcome State Fault Refusal :=
  s.request (fun s => s.answer [0x00] .verdictOldest)

/-! ### Holds (R104 to R107, R117, R186) -/

/-- HOLD_LIST: the 32 entries of the hold table (R186). -/
def execHoldList (s : State) : Host.Outcome State Fault Refusal :=
  s.request (fun s => s.answer (s.recorder.slots.map holdEntryBytes).flatten .nothing)

/-- A shelf time in an argument; none when its microseconds exceed 999,999 (R182). -/
def argumentTime (seconds micros : Word32) : Option Nat :=
  if micros.toNat ≤ 999999 then some (seconds.toNat * second + micros.toNat) else none

/-- A CONTROLLER placement with its answer byte (R186). -/
def State.placeController (s : State) (start stop : Option Nat) : State × Byte :=
  match start, stop with
  | some a, some b =>
    let placed := s.placeHold .controller a (some b) none
    (placed.1, match placed.2 with | some ref => BitVec.ofNat 8 ref.slot | none => 0xFF)
  | _, _ => (s, 0xFF)

/-- HOLD_PLACE at its commit point (R186). -/
def execHoldPlace (fromSeconds fromMicros toSeconds toMicros : Word32) (s : State) :
    Host.Outcome State Fault Refusal :=
  s.request (fun s =>
    let placed := s.placeController (argumentTime fromSeconds fromMicros) (argumentTime toSeconds toMicros)
    placed.1.answer [placed.2] .nothing)

/-- HOLD_RELEASE at its commit point: NOT_HELD for a FREE slot or a number above 31 (R117, R186). -/
def execHoldRelease (slot : Byte) (s : State) : Host.Outcome State Fault Refusal :=
  s.request (fun s =>
    match s.recorder.hold? slot.toNat with
    | none => s.answer [0x01] .nothing
    | some _ => (s.releaseHold slot.toNat).answer [0x00] .nothing)

/-! ### Held units (R118, R187) -/

/-- UNIT_SEEK: the slot is examined (R187). -/
def execUnitSeek (slot : Byte) (seconds micros : Word32) (s : State) : Host.Outcome State Fault Refusal :=
  s.request (fun s =>
    match argumentTime seconds micros, s.recorder.hold? slot.toNat with
    | some t, some h =>
      s.answer [0x00]
        (.seek ⟨slot.toNat, s.recorder.tenure slot.toNat, s.recorder.seekPosition h t⟩ t)
    | _, _ => s.answer [0x01] .nothing)

/-- The position past a unit (R187). -/
def ReadPosition.past (p : ReadPosition) : ReadPosition := ⟨p.seq, p.number + 1⟩

/-- The hold a cursor reads: that of its slot, while the tenure is still the slot's (R187). -/
def State.cursorHold (s : State) (c : UnitCursor) : Option Hold :=
  if s.recorder.tenure c.slot = c.tenure then s.recorder.hold? c.slot else none

/-- UNIT_READ: one result byte, and the unit where there is one (R187). -/
def execUnitRead (s : State) : Host.Outcome State Fault Refusal :=
  s.request (fun s =>
    match s.evidence.unitCursor with
    | none => s.answer [0x04] .nothing
    | some c =>
      match s.cursorHold c with
      | none => s.answer [0x03] .nothing
      | some h =>
        match s.recorder.unitAt h c.position with
        | some x => s.answer (0x00 :: unitBytesOf x.2) (.position x.1.past)
        | none => s.answer [if h.isOpen then 0x02 else 0x01] .nothing)

/-! ### The commit point of reading requests (R182) -/

/-- The cursor that a seek leaves: its position is judged at the commit point while the slot is still so held, else it is
the one seen when the response was formed (R187, log 22). -/
def State.soughtCursor (s : State) (c : UnitCursor) (t : Nat) : UnitCursor :=
  match s.cursorHold c with
  | none => c
  | some h => { c with position := s.recorder.seekPosition h t }

/-- What a reading request does at its commit point (R183 to R185, R187). -/
def State.commit (s : State) (e : CommitEffect) : State :=
  match e with
  | .nothing => s
  | .summary reported => s.reduceCounts reported
  | .logAfter serial => s.setEvidence { s.evidence with logCursor := s.log.after serial }
  | .logOldest => s.setEvidence { s.evidence with logCursor := s.log.records.head?.map (fun r => r.serial) }
  | .verdictAfter serial => s.setEvidence { s.evidence with verdictCursor := s.verdicts.after serial }
  | .verdictOldest => s.setEvidence { s.evidence with verdictCursor := s.verdicts.history.head?.map (fun v => v.serial) }
  | .seek c t => s.setEvidence { s.evidence with unitCursor := some (s.soughtCursor c t) }
  | .position next => s.setEvidence { s.evidence with
      unitCursor := s.evidence.unitCursor.map (fun c => { c with position := next }) }

/-- READING_REQUEST_COMMIT: the last response bit of a reading request has been clocked out (R182). -/
def execReadingRequestCommit (s : State) : Host.Outcome State Fault Refusal :=
  match s.evidence.txn with
  | none => .next s
  | some x =>
    .next ((s.setEvidence { s.evidence with txn := some { x with commit := .nothing } }).commit x.commit)

end Sys2Proof.Machine
end

