-- ==== Sys2Proof/Machine/Reception.lean ====
section
/-! DEFINITION. The Reception Monitor: reported and effective quality, the damaged-audio tally, the reception state and
the sub-block impaired latch (R14 to R18). -/

namespace Sys2Proof.Machine

/-! ### The tally and the effective quality (R14, R15) -/

/-- The number of the 100 ms interval that holds a shelf time (R15). -/
def tallyIntervalOf (t : Nat) : Nat := t / 100000

/-- The tally moved on so that its newest bucket covers an interval not before its own (R15, log 26). -/
def ReceptionMonitor.advanceTo (r : ReceptionMonitor) (interval : Nat) : ReceptionMonitor :=
  { r with
    tally := (List.replicate (min 10 (interval - r.tallyInterval)) (⟨0, 0⟩ : TallyBucket) ++ r.tally).take 10
    tallyInterval := max r.tallyInterval interval }

/-- Counts an accepted AUDIO unit in the bucket of its arrival stamp; one older than the window counts nowhere
(R15, log 26). -/
def ReceptionMonitor.countAudio (r : ReceptionMonitor) (arrival : Nat) (damaged : Bool) : ReceptionMonitor :=
  let q := r.advanceTo (tallyIntervalOf arrival)
  { q with
    tally := changeAt (fun b => ⟨b.accepted + 1, if damaged then b.damaged + 1 else b.damaged⟩)
      (q.tallyInterval - tallyIntervalOf arrival) q.tally }

/-- The effective quality (R15). -/
def ReceptionMonitor.quality (r : ReceptionMonitor) : Nat :=
  if (r.tally.map (fun b => b.accepted)).sum < 10 * (r.tally.map (fun b => b.damaged)).sum then 0 else r.reported

/-- The exit level (R16). -/
def exitLevel (tq : Nat) : Nat := if tq ≤ 90 then tq + 10 else 100

/-! ### The state (R16, R17) -/

/-- The Caption Checker's notes at the reception state entering IMPAIRED (R91): each open record is noted. -/
def CaptionChecker.noteImpaired (c : CaptionChecker) : CaptionChecker :=
  { c with
    absentNote := c.absentNote || c.gap.recordOpen
    stuckNote := c.stuckNote || c.stuck.recordOpen }

/-- The state enters IMPAIRED: record, lowest quality and latch, then the Caption Checker and the Peer
Monitor told (R16, R17, R91, R153, R155). The Shelf Link Controller reads the state, and takes it for no upshift event
(R141). The record is opened before CONTENT_DIVERGENT is closed (log 44). -/
def State.enterImpaired (s : State) (effective : Nat) : State :=
  let entered := s.setReception { s.reception with
    state := .impaired, lowest := some effective, recoveryStart := none, latch := true }
  let opened := entered.raise { category := .receptionImpaired, startStamp := s.nowStamp }
  (opened.setCaptions opened.captions.noteImpaired).closeDivergent.judge

/-- The recovery start after an evaluation while IMPAIRED (R16). -/
def ReceptionMonitor.recovering (r : ReceptionMonitor) (tq effective : Nat) (now : Nat) : Option Nat :=
  if exitLevel tq ≤ effective then some (r.recoveryStart.getD now) else none

/-- An evaluation: the effective quality is computed, and outside the grace the state is judged (R15, R16). -/
def State.evaluate (s : State) : State :=
  let effective := s.reception.quality
  let t := s.setReception { s.reception with effective := effective }
  if t.reception.grace then t
  else
    match t.reception.state with
    | .normal => if effective < s.config.tq then t.enterImpaired effective else t
    | .impaired =>
      t.setReception { t.reception with
        lowest := some (min (t.reception.lowest.getD effective) effective)
        recoveryStart := t.reception.recovering s.config.tq effective s.now }

/-- A QUALITY unit accepted: reported quality, silence deadline, end of the grace, evaluation (R14 to R16). -/
def State.acceptQuality (s : State) (arrival : Nat) (payload : List Byte) : State :=
  (s.setReception { s.reception with
    reported := readQuality payload
    silenceDeadline := some (arrival + 2 * second)
    grace := false }).evaluate

/-- An AUDIO unit accepted: the tally, then an evaluation (R10, R15). -/
def State.acceptAudio (s : State) (arrival : Nat) (damaged : Bool) : State :=
  (s.setReception (s.reception.countAudio arrival damaged)).evaluate

/-- Hands out the sub-block impaired latch and sets it to the current state (R17). -/
def ReceptionMonitor.handOut (r : ReceptionMonitor) : ReceptionMonitor := { r with latch := r.state == .impaired }

/-! ### Deadlines (R14 to R16) -/

/-- The quality silence expires: the reported quality becomes 0, the grace ends, and it is evaluated (R14, R16). The
deadline is then spent; the monitor does not run in FAULT (R18). -/
def State.qualitySilenceExpiry (s : State) : State :=
  if s.live = true ∧ reached s.reception.silenceDeadline s.now = true then
    (s.setReception { s.reception with reported := 0, silenceDeadline := none, grace := false }).evaluate
  else s

/-- QUALITY_SILENCE_EXPIRY: the quality silence expires (R14). -/
def execQualitySilenceExpiry (s : State) : Host.Outcome State Fault Refusal := .next s.qualitySilenceExpiry

/-- Shelf time has crossed a bucket boundary: the oldest bucket is emptied and becomes the newest, and the quality is
evaluated (R15). -/
def State.tallyBucketBoundary (s : State) : State :=
  if s.startup.station ≠ .fault ∧ s.reception.tallyInterval < tallyIntervalOf s.now then
    (s.setReception (s.reception.advanceTo (tallyIntervalOf s.now))).evaluate
  else s

/-- TALLY_BUCKET_BOUNDARY: shelf time has crossed a bucket boundary (R15). -/
def execTallyBucketBoundary (s : State) : Host.Outcome State Fault Refusal := .next s.tallyBucketBoundary

/-- The recovery ends, 5 s after its start: the state returns to NORMAL and the record closes with the lowest quality
(R16); the Peer Monitor is told (R17, R153). -/
def State.recoveryExpiry (s : State) : State :=
  match s.reception.recoveryStart with
  | none => s
  | some start =>
    if s.live = true ∧ s.reception.state = .impaired ∧ start + 5 * second ≤ s.now then
      let left := s.setReception { s.reception with state := .normal, recoveryStart := none, lowest := none }
      (left.closeBreach .receptionImpaired s.nowStamp (s.reception.lowest.map Int.ofNat) false).judge
    else s

/-- RECOVERY_EXPIRY: the recovery ends (R16). -/
def execRecoveryExpiry (s : State) : Host.Outcome State Fault Refusal := .next s.recoveryExpiry

end Sys2Proof.Machine
end

