-- ==== Sys2Proof/Machine/Correction.lean ====
section
/-! DEFINITION. Correction of shelf time by step or slew, the deadlines that a step passes, the oscillator check, TIME
units and the offsets of a followed peer (R27 to R29, R32 to R39). -/

namespace Sys2Proof.Machine

/-! ### The deadlines of the Media Port (R6, R12) -/

/-- The overrun run expires: 1 s after the last drop the record closes with the run's count (R6). -/
def State.overrunExpiry (s : State) : State :=
  match s.port.overrun with
  | none => s
  | some run =>
    if s.startup.station ≠ .fault ∧ run.lastDrop.time + second ≤ s.now then
      (s.setPort { s.port with overrun := none }).closeBreach .inputOverrun s.nowStamp (some run.count) false
    else s

/-- AUDIO_ABSENT's deadline: 500 ms after the reference it opens, backdated (R12). -/
def State.audioAbsentDeadline (s : State) : State :=
  match s.port.audioRef with
  | none => s
  | some r =>
    if s.live = true ∧ s.port.audioAbsentOpen = false ∧ r.time + 500000 ≤ s.now then
      (s.setPort { s.port with audioAbsentOpen := true }).raise { category := .audioAbsent, startStamp := r }
    else s

/-! ### The deadlines a forward step passes (R36) -/

/-- What happens at the deadlines of a hold slot; a hold that its maximum length truncates is not closed by its interval
(R110, R111). -/
def slotExpiries (slot : Nat) : List (State → State) :=
  [fun t => t.holdMaxLengthExpiry slot, fun t => t.holdIntervalClose slot]

/-- What happens at the deadlines of a peer entry: STALE, then removal (R147). -/
def peerExpiries (e : PeerEntry) : List (State → State) :=
  [fun t => t.peerStaleDeadline e.station, fun t => t.peerRemovalDeadline e.station]

/-- What happens at each deadline in shelf time, block by block in the order of the spec's chapters; each does nothing
where its deadline is not reached. The order is log 48's. -/
def State.expiries (s : State) : List (State → State) :=
  [[.overrunExpiry, .audioAbsentDeadline, .qualitySilenceExpiry, .tallyBucketBoundary, .recoveryExpiry],
    [.historyEntryExpiry, .referenceSilenceExpiry, .holdoverExpiry],
    ((List.range 32).map slotExpiries).flatten,
    [.statusTimerExpiry, .downshiftDeadline],
    (s.peers.table.map peerExpiries).flatten,
    [.divergenceExpiry],
    List.replicate s.peers.pendingVerdicts.length .proxyDeadline,
    (List.range 4).map (fun line t => t.endPulse line),
    [.listeningEnd]].flatten

/-- Every deadline that shelf time has reached expires, at shelf time now (R36; log 48). -/
def State.passDeadlines (s : State) : State := s.expiries.foldl (fun t expiry => expiry t) s

/-! ### Correction (R34 to R36) -/

/-- The figure of a TIME_STEP record, and the step size of its MARK unit (R36). -/
def stepMilliseconds (o : Nat) : Nat := min (o / 1000) 2147483647

/-- Empties each tally bucket whose interval ended 1 s or more before a shelf time; the first bucket of the list covers
the given interval (R15). -/
def emptyStale (now : Nat) : Nat → List TallyBucket → List TallyBucket
  | _, [] => []
  | interval, b :: rest =>
    (if (interval + 1) * 100000 + second ≤ now then ⟨0, 0⟩ else b) :: emptyStale now (interval - 1) rest

/-- Step 1 of a forward step: shelf time jumps, the slew ends, and old history entries and tally buckets go
(R15, R28, R36). -/
def State.jump (s : State) (o : Nat) : State :=
  let t := s.setTime ({ s.time with shelf := shelfAdd s.time.shelf o, remaining := 0 }).pruned
  t.setReception { t.reception with tally := emptyStale t.now t.reception.tallyInterval t.reception.tally }

/-- Steps 1 to 3 of a forward step of `o` microseconds: the jump, the TIME_STEP record and the MARK unit (R36). The stamp
just before the step carries the time quality after it, in the MARK unit as in the record (log 49). -/
def State.takeStep (s : State) (o : Nat) : State :=
  let t := s.jump o
  let before : Stamp := { t.nowStamp with time := s.now }
  let raised := t.raise
    { category := .timeStep
      startStamp := before
      endStamp := some t.nowStamp
      figure := some (stepMilliseconds o) }
  raised.requestMark
    { reason := .timeStep
      stamp := t.nowStamp
      media := none
      stepMs := stepMilliseconds o
      before := some before
      place := raised.port.nextSerial }

/-- A forward step of `o` microseconds: its three steps, and then every deadline it passes expires (R36; log 48). -/
def State.forwardStep (s : State) (o : Nat) : State := (s.takeStep o).passDeadlines

/-- The correction rule (R34). -/
def State.correct (s : State) (o : Int) : State :=
  if 5000 ≤ o then s.forwardStep o.toNat else s.setTime { s.time with remaining := o }

/-- The local ticks since a noted local count (R26, R27, R32). -/
def State.ticksSince (s : State) (noted : BitVec 64) : Nat := (s.time.localCount - noted).toNat

/-- The offset of a predicted shelf time noted at a local count (R27, R32). -/
def State.offsetOf (s : State) (prediction : Nat) (noted : BitVec 64) : Int :=
  (prediction : Int) + s.ticksSince noted - s.now

/-! ### The oscillator check (R38, R39) -/

/-- The deviation of a window in whole ppm (R38). -/
def deviationPpm (localElapsed referenceElapsed : Nat) : Nat :=
  ((localElapsed : Int) - referenceElapsed).natAbs * 1000000 / referenceElapsed

/-- What a deviation does (R39). `stop` is the closing unit's arrival stamp. -/
def State.judgeDeviation (s : State) (deviation : Nat) (stop : Stamp) : State :=
  if s.time.suspect then
    if 150 < deviation then s.setTime { s.time with largestDeviation := max s.time.largestDeviation deviation }
    else
      (s.setTime { s.time with suspect := false }).closeBreach .clockSuspect stop (some s.time.largestDeviation) false
  else if 200 < deviation then
    (s.setTime { s.time with suspect := true, largestDeviation := deviation }).raise
      { category := .clockSuspect, startStamp := stop }
  else s

/-- The window a TIME unit opens (R38). -/
def windowAt (u : QueuedUnit) (prediction : Nat) : CheckWindow where
  raw := (prediction : Int) - u.noted.toNat
  prediction := prediction
  arrival := u.arrival
  noted := u.noted

/-- The check at a TIME unit while LOCKED: a window 60,000,000 ticks old or more closes, and the unit opens the next
(R38). -/
def State.checkOscillator (s : State) (u : QueuedUnit) (prediction : Nat) : State :=
  match s.time.window with
  | none => s
  | some w =>
    if 60000000 ≤ (u.noted - w.noted).toNat then
      let next := s.setTime { s.time with window := some (windowAt u prediction) }
      if w.prediction < prediction then
        next.judgeDeviation (deviationPpm (u.noted - w.noted).toNat (prediction - w.prediction)) u.arrival
      else next
    else s

/-! ### TIME units (R27 to R29) -/

/-- What shelf time ought to have read when the unit's header completed (R27). -/
def State.prediction (s : State) (payload : List Byte) : Nat :=
  readReference payload + s.config.referenceDelay * 1000

/-- Whether the history agrees (R28). -/
def historyAgrees (h : List HistoryEntry) : Bool :=
  h.length == 3 && h.all (fun a => h.all (fun b => a.raw - b.raw ≤ 20000))

/-- The history with an entry appended (R28). -/
def TimeBase.remember (t : TimeBase) (e : HistoryEntry) : TimeBase :=
  { t with history := newest 3 (t.history ++ [e]) }

/-- The reference silence deadline a TIME unit sets (R29). -/
def TimeBase.silenceFrom (t : TimeBase) (arrival : Stamp) : TimeBase :=
  { t with silenceDeadline := some (arrival.time + 30 * second) }

/-- Locks on an agreeing TIME unit (R28, R29, R38): the state and its records, the correction, then the deadline and the
window. The deadline is counted from the arrival stamp as it was taken, so the unit's own forward step may lie behind it;
it then stands as due (log 40). -/
def State.lock (s : State) (u : QueuedUnit) (prediction : Nat) : State :=
  let locked := s.enterSource .locked
  let corrected := locked.correct (locked.offsetOf prediction u.noted)
  corrected.setTime { corrected.time.silenceFrom u.arrival with window := some (windowAt u prediction) }

/-- A TIME unit accepted by the Time Base (R27 to R29, R38). -/
def State.takeTime (s : State) (u : QueuedUnit) (payload : List Byte) : State :=
  let prediction := s.prediction payload
  let entry : HistoryEntry := ⟨(prediction : Int) - u.noted.toNat, u.arrival⟩
  let t := s.setTime (s.time.pruned.remember entry)
  match t.time.source with
  | .locked =>
    ((t.setTime (t.time.silenceFrom u.arrival)).correct (t.offsetOf prediction u.noted)).checkOscillator u prediction
  | .holdover | .peer | .free => if historyAgrees t.time.history then t.lock u prediction else t

/-- A STATUS notice of a peer handed to the Time Base (R145, step 5): a peer offset or the loss of the followed peer
(R32, R33), then a peer choice (R31). -/
def State.takePeerTime (s : State) (station : Byte) (cls : TimeClass) (senderTime : Nat) (noted : BitVec 64) :
    State :=
  let examined :=
    if s.time.source = .peer ∧ s.time.followed = some station then
      match cls with
      | .locked | .holdover => s.correct (s.offsetOf senderTime noted)
      | .peer | .free => s.loseFollowed station
    else s
  examined.considerPeers

end Sys2Proof.Machine
end

