-- ==== Sys2Proof/Machine/Captions.lean ====
section
/-! DEFINITION. The Caption Checker: timeline, shown captions, gap and stuck timers, coverage, and what it does at
segment and programme changes (R81 to R97). -/

namespace Sys2Proof.Machine

/-! ### The timeline (R81 to R83) -/

/-- Takes a CAPTION unit: its entry is appended, or is late (R81, R82). -/
def CaptionChecker.takeCaption (c : CaptionChecker) (payload : List Byte) : CaptionChecker :=
  let e := readCaption payload
  match c.timeline.getLast? with
  | none => { c with timeline := [e] }
  | some last =>
    if mediaDiff e.presentation last.presentation < 0 then { c with lateCount := addCount c.lateCount 1 }
    else { c with timeline := newest 16 (c.timeline ++ [e]) }

/-- The current entry at a media time: the last whose presentation is at or before it (R83). -/
def currentEntry (timeline : List CaptionEntry) (t : MediaTime) : Option CaptionEntry :=
  (timeline.filter (fun e => mediaDiff e.presentation t ≤ 0)).getLast?

/-- The identity shown at a media time, absent when no caption is shown (R83). -/
def shownIdentity (timeline : List CaptionEntry) (t : MediaTime) : Option CaptionIdentity :=
  match currentEntry timeline t with
  | none => none
  | some e =>
    if e.textLength ≠ 0 ∧ e.stop.all (fun x => mediaDiff t x < 0) = true then some ⟨e.digest.getD 0, e.language⟩
    else none

/-! ### A sub-block judged (R84 to R92) -/

/-- A sound-present judgement as the Loudness Unit hands it on (R55, R84, R87). -/
structure Judgement where
  start     : MediaTime
  sound     : Bool
  impaired  : Bool
  lastStamp : Stamp
deriving DecidableEq, Repr

/-- The probe time of a sub-block: its last sample position (R84). -/
def probeTime (start : MediaTime) : MediaTime := start + BitVec.ofNat 40 (subBlockLength start - 1)

/-- The name of the checked segment (R86). -/
def CheckingRecord.name (r : CheckingRecord) : SegmentName := ⟨r.segmentId, r.cls, r.scope⟩

/-- Closes an open CAPTION_ABSENT record (R88, R91). -/
def State.closeAbsent (s : State) (stop : Stamp) : State :=
  if s.captions.gap.recordOpen then
    (s.setCaptions { s.captions with gap := { s.captions.gap with recordOpen := false }, absentNote := false }).closeBreach
      .captionAbsent stop none s.captions.absentNote
  else s

/-- Closes an open CAPTION_STUCK record (R90, R91). -/
def State.closeStuck (s : State) (stop : Stamp) : State :=
  if s.captions.stuck.recordOpen then
    (s.setCaptions
      { s.captions with stuck := { s.captions.stuck with recordOpen := false }, stuckNote := false }).closeBreach
      .captionStuck stop none s.captions.stuckNote
  else s

/-- Opens CAPTION_ABSENT when the gap count has reached the limit and no record is open (R88, R91). -/
def State.openAbsent (s : State) (r : CheckingRecord) : State :=
  match s.captions.gap.runStart with
  | none => s
  | some start =>
    if s.captions.gap.count = s.config.gapLimit * 10 ∧ s.captions.gap.recordOpen = false then
      (s.setCaptions { s.captions with
        gap := { s.captions.gap with recordOpen := true }
        absentNote := s.segments.current.impaired }).raise
          { category := .captionAbsent
            startStamp := start
            segment := some r.name
            impaired := s.segments.current.impaired }
    else s

/-- Opens CAPTION_STUCK when the stuck count has reached the limit and no record is open (R90, R91). -/
def State.openStuck (s : State) (r : CheckingRecord) : State :=
  match s.captions.stuck.runStart with
  | none => s
  | some start =>
    if s.captions.stuck.count = s.config.stuckLimit * 10 ∧ s.captions.stuck.recordOpen = false then
      (s.setCaptions { s.captions with
        stuck := { s.captions.stuck with recordOpen := true }
        stuckNote := s.segments.current.impaired }).raise
          { category := .captionStuck
            startStamp := start
            segment := some r.name
            impaired := s.segments.current.impaired }
    else s

/-- A count that starts a run at the sub-block's last stamp, or goes on up to its limit (R87, R89). -/
def runStep (limit count : Nat) (start : Option Stamp) (last : Stamp) : Nat × Option Stamp :=
  if count = 0 then (1, some last) else if count < limit then (count + 1, start) else (count, start)

/-- Sets the impaired notes of open records at a sub-block with its mark set (R91). -/
def CaptionChecker.noteMark (c : CaptionChecker) (impaired : Bool) : CaptionChecker :=
  { c with
    absentNote := c.absentNote || (impaired && c.gap.recordOpen)
    stuckNote := c.stuckNote || (impaired && c.stuck.recordOpen) }

/-- The gap timer step (R87, R88). -/
def State.gapStep (s : State) (r : CheckingRecord) (j : Judgement) (shown : Option CaptionIdentity) : State :=
  if shown.isSome then
    let closed := s.closeAbsent j.lastStamp
    closed.setCaptions { closed.captions with gap := { closed.captions.gap with count := 0, runStart := none } }
  else if j.sound && !j.impaired then
    let g := s.captions.gap
    let run := runStep (s.config.gapLimit * 10) g.count g.runStart j.lastStamp
    (s.setCaptions { s.captions with gap := { g with count := run.1, runStart := run.2 } }).openAbsent r
  else s

/-- Puts a new held identity in the stuck timer, or none (R89, first two rows). -/
def StuckTimer.hold (t : StuckTimer) (shown : Option CaptionIdentity) (sound : Bool) (last : Stamp) : StuckTimer :=
  if shown.isSome && sound then { t with held := shown, count := 1, runStart := some last }
  else { t with held := shown, count := 0, runStart := none }

/-- The stuck timer step (R89, R90). -/
def State.stuckStep (s : State) (r : CheckingRecord) (j : Judgement) (shown : Option CaptionIdentity) : State :=
  if shown.isNone || shown != s.captions.stuck.held then
    let closed := s.closeStuck j.lastStamp
    closed.setCaptions { closed.captions with stuck := closed.captions.stuck.hold shown j.sound j.lastStamp }
  else if j.sound then
    let k := s.captions.stuck
    let run := runStep (s.config.stuckLimit * 10) k.count k.runStart j.lastStamp
    (s.setCaptions { s.captions with stuck := { k with count := run.1, runStart := run.2 } }).openStuck r
  else s

/-- The coverage step (R92). -/
def CaptionChecker.cover (c : CaptionChecker) (sound shown : Bool) : CaptionChecker :=
  if sound && c.soundCount < count32Max then
    { c with soundCount := c.soundCount + 1, coveredCount := if shown then c.coveredCount + 1 else c.coveredCount }
  else c

/-- The caption pair after an evaluation (R85). -/
def CaptionChecker.showPair (c : CaptionChecker) (shown : Option CaptionIdentity) : CaptionChecker :=
  match shown with
  | none => { c with pairShown := false, pairDigest := 0 }
  | some i => { c with pairShown := true, pairDigest := i.digest }

/-- The three steps of a checked segment's sub-block (R84). -/
def State.captionSteps (s : State) (r : CheckingRecord) (j : Judgement) (shown : Option CaptionIdentity) : State :=
  let gapped := (s.setCaptions (s.captions.noteMark j.impaired)).gapStep r j shown
  let stuck := gapped.stuckStep r j shown
  stuck.setCaptions (stuck.captions.cover j.sound shown.isSome)

/-- A completed sub-block taken by the Caption Checker (R84). -/
def State.judgeCaptions (s : State) (j : Judgement) : State :=
  let shown := shownIdentity s.captions.timeline (probeTime j.start)
  let paired := s.setCaptions (s.captions.showPair shown)
  match paired.captions.checking with
  | none => paired
  | some r => if r.checked then paired.captionSteps r j shown else paired

/-! ### Coverage and changes (R86, R92 to R95) -/

/-- Coverage in per-mille from a covered count and a sound count, NONE where the sound count is 0 (R92, R93). -/
def coverageOf (covered sound : Nat) : Option Nat := if sound = 0 then none else some (covered * 1000 / sound)

/-- The coverage of the current segment (R92). -/
def CaptionChecker.segmentCoverage (c : CaptionChecker) : Option Nat :=
  if c.checking.any (fun r => r.checked) then coverageOf c.coveredCount c.soundCount else none

/-- The coverage of the open programme (R93). -/
def CaptionChecker.programmeCoverage (c : CaptionChecker) : Option Nat :=
  if c.progChecked then coverageOf c.progCovered c.progSound else none

/-- Adds a checked segment's counts to the programme it is tied to (R93). -/
def CaptionChecker.addToProgramme (c : CaptionChecker) (programme : Option Nat) : CaptionChecker :=
  match c.checking with
  | none => c
  | some r =>
    if r.checked && r.opening.programme.isSome && r.opening.programme == programme then
      { c with
        progSound := addCount c.progSound c.soundCount
        progCovered := min (c.progCovered + c.coveredCount) (addCount c.progSound c.soundCount)
        progChecked := true }
    else c

/-- The checking record, timers and segment counts given up (R95, step 4). -/
def CaptionChecker.giveUp (c : CaptionChecker) : CaptionChecker :=
  { c with
    checking := none
    gap := .zero
    stuck := .zero
    absentNote := false
    stuckNote := false
    soundCount := 0
    coveredCount := 0 }

/-- The segment close at the Caption Checker (R95): its records close, its counts join the programme's sums, its
coverage is handed on, and its timers go. -/
def State.closeCaptions (s : State) (stop : Stamp) (programme : Option Nat) : State × Option Nat :=
  let closed := (s.closeAbsent stop).closeStuck stop
  (closed.setCaptions (closed.captions.addToProgramme programme).giveUp, closed.captions.segmentCoverage)

/-- The programme opening at the Caption Checker (R93). -/
def CaptionChecker.openProgramme (c : CaptionChecker) : CaptionChecker :=
  { c with progSound := 0, progCovered := 0, progChecked := false }

/-- The segment opening at the Caption Checker (R86). -/
def CaptionChecker.openSegment (c : CaptionChecker) (config : WorkingCopy) (r : SegmentRecord) : CaptionChecker :=
  { c.giveUp with
    checking := some ⟨r.opening, r.segmentId, r.cls, r.scope, (config.profile r.cls).captionCheck && r.captions⟩ }

end Sys2Proof.Machine
end

