-- ==== Sys2Proof/Machine/Loudness.lean ====
section
/-! DEFINITION. The Loudness Unit: samples, sub-blocks, blocks, short-term figures, signatures, measurement contexts and
the two in-segment breaches (R43 to R71). -/

namespace Sys2Proof.Machine

/-! ### Samples (R43 to R47, R65) -/

/-- The state kept per channel, or one value per channel where none is kept yet. -/
def perChannel {α : Type} (value : α) (channels : Nat) (l : List α) : List α :=
  if l.isEmpty then List.replicate channels value else l

/-- Takes one sample position (R44 to R47, R65): filters, square sums, peak magnitudes and last stamp move on. Nothing is
accumulated before the first grid-point event of a run. -/
def LoudnessUnit.takePosition (l : LoudnessUnit) (position : List Int) (stamp : Stamp) : LoudnessUnit :=
  match l.inProgress with
  | none => l
  | some b =>
    let samples := measured position
    let filters := List.zipWith ChannelFilter.next (perChannel ChannelFilter.zero samples.length l.filters) samples
    let histories := perChannel [] samples.length l.peakHistory
    { l with
      filters := filters
      peakHistory := List.zipWith rememberSample histories samples
      inProgress := some { b with
        sums := List.zipWith (fun x (f : ChannelFilter) => x + f.weighted.natAbs ^ 2)
          (perChannel 0 samples.length b.sums) filters
        peaks := List.zipWith max (perChannel 0 samples.length b.peaks)
          (List.zipWith creditedMagnitude histories samples)
        lastStamp := stamp } }

/-- A discontinuity notice: all that depends on the continuity of the run goes (R44, R65). -/
def LoudnessUnit.discontinue (l : LoudnessUnit) : LoudnessUnit :=
  { l with
    inProgress := none
    filters := []
    peakHistory := []
    chain := []
    ring := []
    momentary := none
    shortTerm := none
    lastSub := none }

/-- Starts the sub-block beginning at a grid point (R47, R49). -/
def LoudnessUnit.startSubBlock (l : LoudnessUnit) (start : MediaTime) (opening : Opening) (stamp : Stamp) :
    LoudnessUnit :=
  { l with inProgress := some ⟨start, opening, [], [], stamp⟩ }

/-! ### The completed sub-block (R47 to R50, R52 to R54) -/

/-- The record of a sub-block (R48). -/
def SubBlockInProgress.record (b : SubBlockInProgress) (impaired : Bool) : SubBlock :=
  let energy := subBlockEnergy (subBlockLength b.start) b.sums
  ⟨b.start, energy, loudnessOf energy, b.opening, impaired, b.lastStamp⟩

/-- The mean energy's loudness over 10 records or more, else NONE (R53, R54). -/
def shortTermOf (records : List SubBlock) : Option Int :=
  if records.length < 10 then none else some (loudnessOf (meanEnergy (records.map (fun r => r.energy))))

/-- The segment short-term loudness of a sub-block's instance (R54). -/
def segmentShortTerm (ring : List SubBlock) (opening : Opening) : Option Int :=
  shortTermOf (ring.filter (fun r => r.opening.segment == opening.segment))

/-- The block ending at the newest sub-block of the chain, as its energy (R50). -/
def blockEnergy (chain : List SubBlock) : Option Nat :=
  if chain.length = 4 then some (meanEnergy (chain.map (fun r => r.energy))) else none

/-! ### Contexts (R60 to R63, R66) -/

/-- A context just opened (R60). -/
def Context.opened (opening : Nat) (start : Stamp) : Context where
  opening := opening
  histogram := []
  offered := 0
  maxMomentary := none
  maxShortTerm := none
  peaks := []
  startStamp := start
  endStamp := none
  impaired := false

/-- A context takes a block that met its membership test (R61, R62). -/
def Context.offer (c : Context) (energy : Nat) (momentary : Int) : Context :=
  { c with
    offered := addCount c.offered 1
    maxMomentary := maxFigure c.maxMomentary (some momentary)
    histogram := enterBlock energy momentary c.histogram }

/-- A context takes the channel maxima of a sub-block (R66). -/
def Context.creditPeaks (c : Context) (peaks : List Nat) : Context := { c with peaks := maxEach c.peaks peaks }

/-- Whether a sub-block belongs to a SEGMENT context (R61, R66). -/
def Opening.inSegment (o : Opening) (c : Context) : Bool := o.segment == c.opening

/-- Whether a sub-block belongs to a PROGRAMME context (R61, R66). -/
def Opening.inProgramme (o : Opening) (c : Context) : Bool := o.programme == some c.opening

/-- Offers the block of a chain to both contexts, and holds its momentary loudness (R50, R52, R61). -/
def LoudnessUnit.formBlock (l : LoudnessUnit) : LoudnessUnit :=
  match blockEnergy l.chain with
  | none => l
  | some energy =>
    let momentary := loudnessOf energy
    { l with
      momentary := some momentary
      segmentCtx := l.segmentCtx.map (fun c =>
        if l.chain.all (fun r => r.opening.inSegment c) then c.offer energy momentary else c)
      programmeCtx := l.programmeCtx.map (fun c =>
        if l.chain.all (fun r => r.opening.inProgramme c) then c.offer energy momentary else c) }

/-- Credits a sub-block's channel maxima to the contexts it belongs to (R66). -/
def LoudnessUnit.creditPeaks (l : LoudnessUnit) (opening : Opening) (peaks : List Nat) : LoudnessUnit :=
  { l with
    segmentCtx := l.segmentCtx.map (fun c => if opening.inSegment c then c.creditPeaks peaks else c)
    programmeCtx := l.programmeCtx.map (fun c => if opening.inProgramme c then c.creditPeaks peaks else c) }

/-- The channel short-term figure, and the segment's handed to the SEGMENT context's maximum (R53, R54, R61). -/
def LoudnessUnit.formShortTerm (l : LoudnessUnit) (opening : Opening) : LoudnessUnit :=
  { l with
    shortTerm := shortTermOf l.ring
    segmentCtx := l.segmentCtx.map (fun c =>
      if opening.inSegment c then
        { c with maxShortTerm := maxFigure c.maxShortTerm (segmentShortTerm l.ring opening) }
      else c) }

/-! ### Breaches within a segment (R68 to R71) -/

/-- Judges PEAK_EXCESS at a completed sub-block (R68). -/
def State.judgePeak (s : State) (r : SubBlock) (peaks : List Nat) : State :=
  let current := s.segments.current
  if s.loudness.segmentCtx.any (fun c => r.opening.inSegment c) && !s.loudness.peakRaised && !r.impaired
      && (s.config.profile current.cls).peakLimit < peakFigure (greatestOf peaks) then
    (s.setLoudness { s.loudness with peakRaised := true }).raise
      { category := .peakExcess
        startStamp := r.lastStamp
        segment := some current.name
        impaired := current.impaired }
  else s

/-- The excess level of a class, when its short-term excess run is active (R70). -/
def excessLevel (p : ClassProfile) (cls : SegClass) : Option Int :=
  match cls with
  | .advert | .promotion => if p.margin = 0 then none else some (p.target + p.margin)
  | .programme | .junction => none

/-- Closes an open SHORT_TERM_EXCESS record (R71). -/
def State.closeExcess (s : State) (stop : Stamp) : State :=
  if s.loudness.excess.recordOpen then
    (s.setLoudness { s.loudness with excess := { s.loudness.excess with recordOpen := false } }).closeBreach
      .shortTermExcess stop s.loudness.excess.maximum s.segments.current.impaired
  else s

/-- Opens SHORT_TERM_EXCESS when the run's count has reached 30 and no record is open for it (R71). -/
def State.openExcess (s : State) : State :=
  match s.loudness.excess.start with
  | none => s
  | some start =>
    if s.loudness.excess.count = 30 ∧ s.loudness.excess.recordOpen = false then
      (s.setLoudness { s.loudness with excess := { s.loudness.excess with recordOpen := true } }).raise
        { category := .shortTermExcess
          startStamp := start
          segment := some s.segments.current.name
          impaired := s.segments.current.impaired }
    else s

/-- The run after a figure above the excess level (R70). -/
def ExcessRun.above (e : ExcessRun) (figure : Int) (last : Stamp) : ExcessRun :=
  if e.count = 0 then { e with count := 1, start := some last, maximum := some figure }
  else { e with count := min (e.count + 1) 30, maximum := maxFigure e.maximum (some figure) }

/-- The short-term excess run at a completed sub-block (R70, R71). -/
def State.stepExcess (s : State) (r : SubBlock) : State :=
  let cls := s.segments.current.cls
  match excessLevel (s.config.profile cls) cls, segmentShortTerm s.loudness.ring r.opening with
  | some level, some figure =>
    if r.impaired || !s.loudness.segmentCtx.any (fun c => r.opening.inSegment c) then s
    else if level < figure then
      (s.setLoudness { s.loudness with excess := s.loudness.excess.above figure r.lastStamp }).openExcess
    else
      let closed := s.closeExcess r.lastStamp
      closed.setLoudness { closed.loudness with excess := .initial }
  | _, _ => s

/-! ### Signatures (R56 to R58) -/

/-- Whether a sub-block's trend bit is 1 (R57). -/
def trendRises (last : Option (MediaTime × Int)) (r : SubBlock) : Bool :=
  match last with
  | none => false
  | some (start, loudness) =>
    start + BitVec.ofNat 40 (subBlockLength start) == r.start && loudness + 50 ≤ r.loudness

/-- The accumulator of a media second, every position missing (R56). -/
def SignatureAccumulator.ofSecond (second : MediaTime) : SignatureAccumulator := ⟨second, List.replicate 10 none, false⟩

/-- The accumulator with a completed sub-block assigned its position (R56, R57). -/
def LoudnessUnit.accumulate (l : LoudnessUnit) (r : SubBlock) : LoudnessUnit :=
  let second := mediaSecondOf r.start
  let held := match l.signature with
    | none => SignatureAccumulator.ofSecond second
    | some a => if a.second = second then a else SignatureAccumulator.ofSecond second
  let position := (r.start.toNat - second.toNat) / 4800
  { l with
    signature := some { held with
      positions := changeAt (fun _ => some (r.loudness, trendRises l.lastSub r)) position held.positions
      impaired := held.impaired || r.impaired }
    lastSub := some (r.start, r.loudness) }

/-- The trend bits of an accumulator: bit k - 1 for position k (R57). -/
def trendBits : List (Option (Int × Bool)) → Nat
  | [] => 0
  | p :: ps => (if p.any (fun x => x.2) then 1 else 0) + 2 * trendBits ps

/-- The level of a signature from a short-term figure: nearest whole LU, a half to the greater, limited (R57). -/
def levelOf (shortTerm : Option Int) : Int :=
  match shortTerm with
  | none => -70
  | some x => min (max ((x + 50) / 100) (-70)) 10

/-- The signature of an accumulator (R56, R57). -/
def SignatureAccumulator.form (a : SignatureAccumulator) (shortTerm : Option Int) (last : Stamp) : Signature where
  second := BitVec.ofNat 32 (secondsOf last.time)
  trend := BitVec.ofNat 10 (trendBits a.positions)
  level := levelOf shortTerm
  impaired := a.impaired

/-- Places a signature in the own signature history (R58). -/
def placeOwn (g : Signature) (history : List Signature) : List Signature :=
  match history.getLast? with
  | none => [g]
  | some last => if last.second = g.second then history.dropLast ++ [g] else newest 16 (history ++ [g])

/-- Forms the signature of a media second that has just ended, places and offers it (R56, R58, R134). -/
def State.formSignature (s : State) (last : Stamp) : State :=
  match s.loudness.signature with
  | none => s
  | some a =>
    let g := a.form s.loudness.shortTerm last
    (s.setLoudness { s.loudness with
      signature := none, ownHistory := placeOwn g s.loudness.ownHistory }).offerSignature g

/-! ### Completion (R49) -/

/-- Whether sound is present at a channel short-term figure (R55). -/
def soundPresent (threshold : Int) (shortTerm : Option Int) : Bool := shortTerm.any (fun x => threshold ≤ x)

/-- The record joins the ring and the chain (R48, R50). -/
def LoudnessUnit.take (l : LoudnessUnit) (r : SubBlock) : LoudnessUnit :=
  { l with ring := newest 30 (l.ring ++ [r]), chain := newest 4 (l.chain ++ [r]) }

/-- Completes the sub-block in progress at the grid point `g`, in full (R49; log 9). -/
def State.completeSubBlock (s : State) (b : SubBlockInProgress) (impaired : Bool) (g : MediaTime) : State :=
  let r := b.record impaired
  let blocked := s.setLoudness (((s.loudness.take r).formBlock).creditPeaks r.opening b.peaks)
  let peaked := blocked.judgePeak r b.peaks
  let figured := (peaked.setLoudness (peaked.loudness.formShortTerm r.opening)).stepExcess r
  let judged := figured.judgeCaptions
    ⟨r.start, soundPresent s.config.soundThreshold figured.loudness.shortTerm, impaired, r.lastStamp⟩
  let assigned := judged.setLoudness (judged.loudness.accumulate r)
  if isMediaSecond g then assigned.formSignature r.lastStamp else assigned

/-! ### Context changes (R60, R63, R69, R71) -/

/-- Closes PEAK_EXCESS with the SEGMENT context's max peak, when it was raised (R69). -/
def State.closePeak (s : State) (stop : Stamp) (impaired : Bool) : State :=
  match s.loudness.segmentCtx with
  | none => s
  | some c =>
    if s.loudness.peakRaised then s.closeBreach .peakExcess stop (some (peakFigure (greatestOf c.peaks))) impaired
    else s

/-- Closes the SEGMENT context (R63): its records close, the PROGRAMME context takes its maximum, and the context with its
end is answered. -/
def State.closeSegmentContext (s : State) (r : SegmentRecord) (stop : Stamp) : State × Option Context :=
  let closed := (s.closeExcess stop).closePeak stop r.impaired
  let l := closed.loudness
  let ended := l.segmentCtx.map (fun c => { c with endStamp := some stop, impaired := r.impaired })
  (closed.setLoudness { l with
    segmentCtx := none
    programmeCtx := l.programmeCtx.map (fun p =>
      if r.opening.inProgramme p then
        { p with maxShortTerm := maxFigure p.maxShortTerm (l.segmentCtx.bind (fun c => c.maxShortTerm)) }
      else p)
    peakRaised := false
    excess := .initial }, ended)

/-- Closes the PROGRAMME context (R63). -/
def State.closeProgrammeContext (s : State) (p : Programme) : State × Option Context :=
  (s.setLoudness { s.loudness with programmeCtx := none },
    s.loudness.programmeCtx.map (fun c => { c with endStamp := p.endStamp, impaired := p.impaired }))

/-- Opens the SEGMENT context with its peak excess state and its short-term excess run (R60, R68, R70). -/
def LoudnessUnit.openSegment (l : LoudnessUnit) (opening : Nat) (start : Stamp) : LoudnessUnit :=
  { l with segmentCtx := some (.opened opening start), peakRaised := false, excess := .initial }

/-- Opens the PROGRAMME context (R60). -/
def LoudnessUnit.openProgramme (l : LoudnessUnit) (opening : Nat) (start : Stamp) : LoudnessUnit :=
  { l with programmeCtx := some (.opened opening start) }

end Sys2Proof.Machine
end

