-- ==== Sys2Proof/Machine/Segments.lean ====
section
/-! DEFINITION. The Segment Tracker: the pending cue list, grid-point events, segment and programme changes and what
their recipients do (R19 to R24). -/

namespace Sys2Proof.Machine

/-! ### The pending cue list (R19) -/

/-- How far after a media time a cue starts, as a number that rises with the start: the difference of R19 plus 2^39. -/
def PendingCue.startFrom (ref : MediaTime) (c : PendingCue) : Nat := (mediaDiff c.start ref + 2 ^ 39).toNat

/-- Cues in order of start, those with equal starts in the order they stood in (R19). Starts are compared by their
differences to one media time, which gives the order of R19 wherever its pairwise comparisons give one; where they run in a
circle, the order by that media time is the model's choice (log 39). -/
def orderCues (ref : MediaTime) (l : List PendingCue) : List PendingCue := sortBy (PendingCue.startFrom ref) l

/-- Places a cue by its start, after those with an equal start (R19). -/
def placeCue (c : PendingCue) (l : List PendingCue) : List PendingCue := orderCues c.start (l ++ [c])

/-- The list without its latest-starting cue, of those with an equal start the one that arrived last (R19, case 5); the
pending cues are compared among themselves (log 39). -/
def dropLatest : List PendingCue → List PendingCue
  | [] => []
  | x :: rest => (orderCues x.start (x :: rest)).dropLast

/-- Takes a delivered cue, by the first of the five cases of R19 that applies. -/
def SegmentTracker.takeCue (t : SegmentTracker) (c : PendingCue) : SegmentTracker :=
  if t.pending.any (fun y => y.segmentId == c.segmentId) then
    { t with pending := placeCue c (t.pending.filter (fun y => y.segmentId != c.segmentId)) }
  else if c.segmentId = t.current.segmentId then t
  else if t.pending.length < 4 then { t with pending := placeCue c t.pending }
  else if t.pending.all (fun y => 0 < mediaDiff c.start y.start) then { t with cueDrops := addCount t.cueDrops 1 }
  else { t with pending := placeCue c (dropLatest t.pending), cueDrops := addCount t.cueDrops 1 }

/-- Whether a cue is due at a grid point (R20). -/
def PendingCue.due (c : PendingCue) (g : MediaTime) : Bool := mediaDiff c.start g ≤ 0

/-- The record of the segment a cue opens at a grid point (R21); its opening is given by the tracker. -/
def PendingCue.record (c : PendingCue) (g : MediaTime) (stamp : Stamp) : SegmentRecord where
  segmentId := c.segmentId
  cls := c.cls
  scope := c.scope
  captions := c.captions
  programmeId := match c.cls with
    | .programme => c.programmeId
    | .advert | .promotion | .junction => 0
  startMedia := some g
  startStamp := some stamp
  impaired := false
  endStamp := none
  opening := ⟨0, none⟩

/-! ### Changes (R22, R23) -/

/-- The outgoing segment and its programme gather a sub-block's impaired mark (R20 to R22). -/
def SegmentTracker.gather (t : SegmentTracker) (mark : Bool) : SegmentTracker :=
  { t with
    current := { t.current with impaired := t.current.impaired || mark }
    programme := t.programme.map (fun p =>
      if t.current.cls = .programme then { p with impaired := p.impaired || mark } else p) }

/-- The open programme's end stamp at the close of a PROGRAMME-class segment (R22). -/
def SegmentTracker.endProgrammeSegment (t : SegmentTracker) (stop : Stamp) : SegmentTracker :=
  { t with programme := t.programme.map (fun p => if t.current.cls = .programme then { p with endStamp := some stop } else p) }

/-- Deals with the verdict of a closed context, if there is one (R72). -/
def State.dealClosed (s : State) (c : Option Context) (kind : VerdictKind) (id : Word32) (cls : SegClass)
    (scope : Scope) (coverage : Option Nat) : State :=
  match c with
  | none => s
  | some c => s.deal (c.verdict kind id cls scope coverage)

/-- Step 1: the close of the outgoing segment (R23, R63, R95, R72). -/
def State.closeSegment (s : State) (stop : Stamp) : State :=
  let r := { s.segments.current with endStamp := some stop }
  let noted := s.setSegments (s.segments.endProgrammeSegment stop)
  let measured := noted.closeSegmentContext r stop
  let checked := measured.1.closeCaptions stop (noted.segments.programme.map (fun p => p.opening))
  match r.cls with
  | .programme => checked.1
  | .advert | .promotion | .junction =>
    checked.1.dealClosed measured.2 .segment r.segmentId r.cls r.scope checked.2

/-- Whether an opening segment closes the open programme (R22). -/
def Programme.closedBy (p : Programme) (r : SegmentRecord) : Bool :=
  r.cls == .programme && (r.programmeId != p.programmeId || p.programmeId == 0)

/-- Step 2: the close of the programme, if the opening segment closes it (R22, R23, R63, R72). -/
def State.closeProgramme (s : State) (r : SegmentRecord) : State :=
  match s.segments.programme with
  | none => s
  | some p =>
    if p.closedBy r then
      let measured := s.closeProgrammeContext p
      (measured.1.dealClosed measured.2 .programme p.programmeId .programme p.scope
        s.captions.programmeCoverage).setSegments { s.segments with programme := none }
    else s

/-- The programme's scope with a further segment: NATIONAL while every one is (R22). -/
def Scope.join : Scope → Scope → Scope
  | .national, .national => .national
  | .national, .regional | .regional, _ => .regional

/-- Step 3: a PROGRAMME-class segment opens a programme where none is open, or joins the open one (R22, R23). -/
def State.openProgramme (s : State) (r : SegmentRecord) (stamp : Stamp) : State :=
  match r.cls, s.segments.programme with
  | .programme, none =>
    let n := s.segments.nextOpening
    let told := s.setSegments { s.segments with
      programme := some ⟨r.programmeId, stamp, none, r.scope, false, n⟩, nextOpening := n + 1 }
    (told.setLoudness (told.loudness.openProgramme n stamp)).setCaptions told.captions.openProgramme
  | .programme, some p => s.setSegments { s.segments with programme := some { p with scope := p.scope.join r.scope } }
  | _, _ => s

/-- The opening number of a new segment, tied to the open programme for class PROGRAMME (R48, R60). -/
def SegmentTracker.openingFor (t : SegmentTracker) (r : SegmentRecord) : Opening :=
  ⟨t.nextOpening, if r.cls = .programme then t.programme.map (fun p => p.opening) else none⟩

/-- Step 4: the opening of the new segment, with its record (R23). `replaced` is the scope of the segment it replaces;
a change of scope is an upshift event (R141). -/
def State.openSegment (s : State) (record : SegmentRecord) (stamp : Stamp) (replaced : Option Scope) : State :=
  let r := { record with opening := s.segments.openingFor record }
  let told := s.setSegments { s.segments with current := r, begun := true, nextOpening := s.segments.nextOpening + 1 }
  let measured := told.setLoudness (told.loudness.openSegment r.opening.segment stamp)
  let checked := measured.setCaptions (measured.captions.openSegment s.config r)
  let linked := if replaced.any (fun x => x != r.scope) then checked.upshift else checked
  linked.judge

/-- The whole of a segment change at a grid point (R22, R23). Before the first grid-point event there is no outgoing
segment. -/
def State.changeSegment (s : State) (r : SegmentRecord) (stamp : Stamp) : State :=
  if s.segments.begun then
    (((s.closeSegment stamp).closeProgramme r).openProgramme r stamp).openSegment r stamp (some s.segments.current.scope)
  else (s.openProgramme r stamp).openSegment r stamp none

/-- Looks for due cues at a grid point and applies the one with the latest start, or the latest-arrived of those sharing
it (R20). The first event opens the unannounced segment when none is due. -/
def State.applyCues (s : State) (g : MediaTime) (stamp : Stamp) : State :=
  let due := orderCues g (s.segments.pending.filter (fun c => c.due g))
  match due.getLast? with
  | some c =>
    (s.setSegments { s.segments with
      pending := s.segments.pending.filter (fun c => !c.due g)
      cueDrops := addCount s.segments.cueDrops (due.length - 1) }).changeSegment (c.record g stamp) stamp
  | none =>
    if s.segments.begun then s
    else s.changeSegment { SegmentRecord.unannounced with startMedia := some g, startStamp := some stamp } stamp

/-- The part of a grid-point event that ends a sub-block: the outgoing segment gathers its mark, and then the Loudness Unit
completes it (R17, R20, R49). That the mark is gathered before the sub-block's judgements are taken is log 50's choice. -/
def State.endSubBlock (s : State) (mark : Bool) (g : MediaTime) : State :=
  match s.loudness.inProgress with
  | none => s
  | some b => (s.setSegments (s.segments.gather mark)).completeSubBlock b mark g

/-- A grid-point event (R11, R17, R20, R23, R49). -/
def State.gridPointEvent (s : State) (g : MediaTime) (stamp : Stamp) : State :=
  let handed := s.setReception s.reception.handOut
  let changed := (handed.endSubBlock s.reception.latch g).applyCues g stamp
  changed.setLoudness (changed.loudness.startSubBlock g changed.segments.current.opening stamp)

end Sys2Proof.Machine
end

