-- ==== Sys2Proof/Machine/Media.lean ====
section
/-! DEFINITION. The Media Port: framing, arrival, the input queue and overrun run, delivery, and the continuity stage
(R1 to R13). -/

namespace Sys2Proof.Machine

/-! ### Framing and admission (R1 to R6) -/

/-- Whether the port can be at a header: it takes the stream, and no queued unit's payload is still arriving (R1, R4). -/
def State.atHeader (s : State) : Bool :=
  s.startup.station != .fault && (s.port.queue.getLast?.all (fun u => u.payload.isSome))

/-- The sixteen bytes of the header that ends the bytes examined (R1): the bytes themselves when framed, found behind the
delimiter when hunting. -/
def MediaPort.headerIn (p : MediaPort) (bytes : List Byte) : Option (List Byte) :=
  match p.framing with
  | .framed => if bytes.length = 16 ∧ byteAt bytes 0 = 0xB4 ∧ byteAt bytes 1 = 0x4B then some bytes else none
  | .hunting => huntHeader (p.huntByte.toList ++ bytes)

/-- The port after a header with its delimiter: framed, unless the check failed on an implausible length (R1, R2). The hunt
then begins with the byte after the header's sixteen (log 42). -/
def MediaPort.afterHeader (p : MediaPort) (h : UnitHeader) : MediaPort :=
  { p with
    huntByte := none
    framing := if (framedKind h).isSome || h.length ≤ 16384 then .framed else .hunting
    framingErrors := if (framedKind h).isSome then p.framingErrors else addCount p.framingErrors 1 }

/-- The payload bytes counted against the input queue (R5). -/
def MediaPort.held (p : MediaPort) : Nat := (p.queue.map (fun u => u.length)).sum

/-- Whether the input queue has room for a unit of a length (R5). -/
def MediaPort.hasRoom (p : MediaPort) (length : Nat) : Bool :=
  p.queue.length < inputQueueUnits && p.held + length ≤ inputQueueBytes

/-- Admits a unit to the input queue (R4, R5). -/
def State.enqueue (s : State) (k : UnitKind) (h : UnitHeader) : State :=
  s.setPort { s.port with
    queue := s.port.queue ++
      [⟨k, h.damaged, h.length, h.mediaTime, s.nowStamp, s.time.localCount, s.port.nextSerial, none⟩]
    nextSerial := s.port.nextSerial + 1 }

/-- Drops a unit for which there is no room (R5), and reports it to the overrun run (R6). -/
def State.dropUnit (s : State) : State :=
  let counted := { s.port with inputDrops := addCount s.port.inputDrops 1 }
  match s.port.overrun with
  | some run => s.setPort { counted with overrun := some ⟨s.nowStamp, addCount run.count 1⟩ }
  | none =>
    (s.setPort { counted with overrun := some ⟨s.nowStamp, 1⟩ }).raise
      { category := .inputOverrun, startStamp := s.nowStamp }

/-- What happens to a unit that passes the framing check, by station state (R4, R5). -/
def State.arrive (s : State) (k : UnitKind) (h : UnitHeader) : State :=
  match s.startup.station with
  | .loading | .checking => s.setPort { s.port with startDiscards := addCount s.port.startDiscards 1 }
  | .listening | .running | .listenOnly => if s.port.hasRoom h.length then s.enqueue k h else s.dropUnit
  | .fault => s

/-- UNIT_HEADER_COMPLETE: a header completes, is checked, and its unit arrives (R1, R2, R4, R5). -/
def execUnitHeaderComplete (bytes : List Byte) (s : State) : Host.Outcome State Fault Refusal :=
  match if s.atHeader then s.port.headerIn bytes else none with
  | none => .next s
  | some raw =>
    let h := readUnitHeader raw
    let t := s.setPort (s.port.afterHeader h)
    match framedKind h with
    | none => .next t
    | some k => .next (t.arrive k h)

/-- MISSING_DELIMITER: two bytes at the expected header position are not the delimiter (R2). -/
def execMissingDelimiter (first second : Byte) (s : State) : Host.Outcome State Fault Refusal :=
  if s.atHeader && s.port.framing == .framed && !(first == 0xB4 && second == 0x4B) then
    .next (s.setPort { s.port with
      framing := .hunting
      huntByte := some second
      framingErrors := addCount s.port.framingErrors 1 })
  else .next s

/-- PAYLOAD_COMPLETE: the last payload byte of the newest queued unit arrives; a malformed payload discards the unit
(R3). -/
def execPayloadComplete (payload : List Byte) (s : State) : Host.Outcome State Fault Refusal :=
  match s.port.queue.getLast? with
  | none => .next s
  | some u =>
    if s.startup.station ≠ .fault ∧ u.payload = none ∧ payload.length = u.length then
      if payloadWellFormed u.kind payload then
        .next (s.setPort { s.port with queue := s.port.queue.dropLast ++ [{ u with payload := some payload }] })
      else
        .next (s.setPort { s.port with
          queue := s.port.queue.dropLast
          framingErrors := addCount s.port.framingErrors 1 })
    else .next s

/-- OVERRUN_EXPIRY: the overrun run expires (R6). -/
def execOverrunExpiry (s : State) : Host.Outcome State Fault Refusal := .next s.overrunExpiry

/-! ### Continuity (R10 to R12) -/

/-- Hands on one sample position (R11): dropped before the resume grid point; at a grid point the event goes first. -/
def State.handOn (s : State) (t : MediaTime) (position : List Int) (stamp : Stamp) : State :=
  if s.port.aligning.any (fun g => t != g) then s
  else
    let run := s.setPort { s.port with aligning := none }
    let ready := if isGridPoint t then run.gridPointEvent t stamp else run
    ready.setLoudness (ready.loudness.takePosition position stamp)

/-- Hands on sample positions in media-time order (R11). -/
def State.handOnAll : State → MediaTime → Stamp → List (List Int) → State
  | s, _, _, [] => s
  | s, t, stamp, p :: ps => (s.handOn t p stamp).handOnAll (t + 1) stamp ps

/-- Begins a run, aligned to the first grid point at or after a media time (R11). -/
def State.beginRun (s : State) (t : MediaTime) : State :=
  s.setPort { s.port with aligning := some (gridPointFrom t) }

/-- A discontinuity (R11): the Loudness Unit is told, the MARK unit requested, and a new run begun. -/
def State.discontinuity (s : State) (u : QueuedUnit) : State :=
  ((s.setLoudness s.loudness.discontinue).requestMark
    { reason := .discontinuity
      stamp := u.arrival
      media := some u.mediaTime
      stepMs := 0
      before := none
      place := u.serial }).beginRun u.mediaTime

/-- One more damaged unit (R8, R10). -/
def State.countDamaged (s : State) : State := s.setPort { s.port with damaged := addCount s.port.damaged 1 }

/-- Closes AUDIO_ABSENT at an acceptance and moves its reference (R12). -/
def State.refreshAudio (s : State) (arrival : Stamp) : State :=
  let t := s.setPort { s.port with audioRef := some arrival, audioAbsentOpen := false }
  if s.port.audioAbsentOpen then t.closeBreach .audioAbsent arrival none false else t

/-- Accepts an AUDIO unit whose run is settled: the stage's state, AUDIO_ABSENT, the samples with any filled zeros, then
the tally (R10, R12, R15; log 11). -/
def State.acceptRun (s : State) (u : QueuedUnit) (payload : List Byte) (filled : Nat) : State :=
  let positions := readAudio payload
  let zeros := List.replicate filled (List.replicate (audioChannels payload) (0 : Int))
  let held := s.setPort { s.port with
    expected := some (u.mediaTime + BitVec.ofNat 40 (audioSamples payload)), channels := some (audioChannels payload) }
  let handed := (held.refreshAudio u.arrival).handOnAll (u.mediaTime - BitVec.ofNat 40 filled) u.arrival
    (zeros ++ positions)
  handed.acceptAudio u.arrival.time u.damaged

/-- An AUDIO unit at the continuity stage, by the first row of the table of R10 that applies. -/
def State.takeAudio (s : State) (u : QueuedUnit) (payload : List Byte) : State :=
  match s.port.expected with
  | none => (s.beginRun u.mediaTime).acceptRun u payload 0
  | some expected =>
    let d := mediaDiff u.mediaTime expected
    if s.port.channels ≠ some (audioChannels payload) then (s.discontinuity u).acceptRun u payload 0
    else if d = 0 then s.acceptRun u payload 0
    else if 1 ≤ d ∧ d ≤ 480 then s.countDamaged.acceptRun u payload d.toNat
    else if 480 < d then (s.discontinuity u).acceptRun u payload 0
    else s.countDamaged

/-- AUDIO_ABSENT_DEADLINE: AUDIO_ABSENT's deadline is reached (R12). -/
def execAudioAbsentDeadline (s : State) : Host.Outcome State Fault Refusal := .next s.audioAbsentDeadline

/-! ### Delivery (R7, R8) -/

/-- The head leaves the input queue (R7). -/
def State.popUnit (s : State) : State := s.setPort { s.port with queue := s.port.queue.drop 1 }

/-- Whether the Recorder can take a unit now: no MARK unit goes before it (R102). -/
def State.mayRecord (s : State) (u : QueuedUnit) : Bool := !s.recorder.marks.any (fun m => m.place ≤ u.serial)

/-- A unit as the Recorder records it (R99). -/
def QueuedUnit.recorded (u : QueuedUnit) (kind : RecordedKind) (payload : List Byte) : RecordedUnit :=
  ⟨kind, u.damaged, u.arrival, u.mediaTime, payload⟩

/-- Gives a unit to the Recorder, its other destination already served (R7, R8, R100). -/
def State.record (s : State) (u : QueuedUnit) (kind : RecordedKind) (payload : List Byte) : State :=
  s.recordUnit (u.recorded kind payload)

/-- Delivers the head of the queue, complete and checked, to its destinations (R7, R8). A unit for the Recorder waits
while a MARK unit goes before it (R102). -/
def State.deliver (s : State) (u : QueuedUnit) (payload : List Byte) : State :=
  match u.kind with
  | .audio => s.popUnit.takeAudio u payload
  | .time => if u.damaged then s.popUnit.countDamaged else s.popUnit.takeTime u payload
  | .quality => if u.damaged then s.popUnit else s.popUnit.acceptQuality u.arrival.time payload
  | .payload => if s.mayRecord u then s.record u .payload payload else s
  | .caption =>
    if u.damaged then s.popUnit.countDamaged
    else if s.mayRecord u then (s.setCaptions (s.captions.takeCaption payload)).record u .caption payload
    else s
  | .cue =>
    if u.damaged then s.popUnit.countDamaged
    else if s.mayRecord u then
      (s.setSegments (s.segments.takeCue (readCue payload u.arrival))).record u .cue payload
    else s

/-- UNIT_DELIVERY: the head unit, complete and checked, is delivered (R7, R8). A unit whose write to stacked DRAM is in
progress holds the head. -/
def execUnitDelivery (s : State) : Host.Outcome State Fault Refusal :=
  match s.port.queue with
  | [] => .next s
  | u :: _ =>
    match u.payload with
    | none => .next s
    | some payload =>
      if s.live = true ∧ s.recorder.writing = none then .next (s.deliver u payload) else .next s

end Sys2Proof.Machine
end

