-- ==== Sys2Proof/Machine/Peers.lean ====
section
/-! DEFINITION. Received frames: validity, a duplicate number, the peer table, signature stores and their comparison,
noted breaches and the verdict cache (R124 to R126, R143 to R146, R149 to R152, R156 to R160). -/

namespace Sys2Proof.Machine

/-! ### Cross-feed comparison (R146, R150 to R152) -/

/-- Places a signature in a peer's store (R146). -/
def placeSignature (g : Signature) (store : List Signature) : List Signature :=
  let byPlace := fun (l : List Signature) => placeBefore (fun y => g.second.toNat < y.second.toNat) g l
  if store.any (fun y => y.second == g.second) then store.map (fun y => if y.second == g.second then g else y)
  else if store.length < 16 then byPlace store
  else if store.all (fun y => g.second.toNat < y.second.toNat) then store
  else byPlace (store.drop 1)

/-- The number of trend bits that differ between two signatures (R151). -/
def trendDifference (a b : Signature) : Nat :=
  ((List.range 10).filter (fun k => (a.trend ^^^ b.trend).getLsbD k)).length

/-- Whether two signatures match (R151). -/
def signaturesMatch (a b : Signature) : Bool := trendDifference a b ≤ 2 && (a.level - b.level).natAbs ≤ 3

/-- Whether a signature's second says something about content (R151). -/
def Signature.usable (g : Signature) : Bool := !g.impaired && -60 < g.level

/-- The pairs not excluded at an offset: own second t with peer second t - d (R151). -/
def pairsAt (own store : List Signature) (d : Int) : List (Signature × Signature) :=
  (own.filter Signature.usable).filterMap (fun a =>
    (store.find? (fun b => (b.second.toNat : Int) = a.second.toNat - d && b.usable)).map (fun b => (a, b)))

/-- n(d) (R151). -/
def pairCount (own store : List Signature) (d : Int) : Nat := (pairsAt own store d).length

/-- m(d) (R151). -/
def matchCount (own store : List Signature) (d : Int) : Nat :=
  ((pairsAt own store d).filter (fun p => signaturesMatch p.1 p.2)).length

/-- Whether an offset fits (R151). -/
def offsetFits (own store : List Signature) (d : Int) : Bool :=
  4 ≤ pairCount own store d && pairCount own store d ≤ matchCount own store d + 1

/-- The offsets tried, the preferred of two with equal m(d) first: smaller magnitude, then the negative (R151). -/
def offsetsTried : List Int := [0, -1, 1, -2, 2, -3, 3, -4, 4, -5, 5, -6, 6]

/-- The best of a list of offsets: the first with the largest m(d) (R151). -/
def bestOf (own store : List Signature) : List Int → Option Int
  | [] => none
  | d :: ds =>
    match bestOf own store ds with
    | none => some d
    | some e => if matchCount own store e ≤ matchCount own store d then some d else some e

/-- The best offset of an evaluation, if one fits (R151). -/
def bestOffset (own store : List Signature) : Option Int := bestOf own store (offsetsTried.filter (offsetFits own store))

/-- A peer entry after an evaluation (R152). -/
def PeerEntry.evaluated (own : List Signature) (e : PeerEntry) : PeerEntry :=
  match bestOffset own e.store with
  | some d => { e with relation := .common d, streak := 0 }
  | none =>
    if offsetsTried.any (fun d => 4 ≤ pairCount own e.store d) then
      { e with streak := min (e.streak + 1) 3, relation := if 2 ≤ e.streak then .apart else e.relation }
    else e

/-- A change of relation reported: upshift, judgement, and the pending verdicts checked on a change into COMMON (R152,
R153, R162). -/
def State.relationChanged (s : State) (station : Byte) (relation : Relation) : State :=
  let judged := s.upshift.judge
  if relation.isCommon then judged.checkPeerCache station else judged

/-- Runs an evaluation for a peer (R150 to R152). -/
def State.compare (s : State) (station : Byte) : State :=
  match s.peer? station with
  | none => s
  | some e =>
    let after := e.evaluated s.loudness.ownHistory
    let t := s.setPeers (s.peers.change station (fun x => x.evaluated s.loudness.ownHistory))
    if after.relation = e.relation then t else t.relationChanged station after.relation

/-! ### STATUS (R145) -/

/-- The entry's fields taken from a STATUS head (R143, R145). -/
def StatusHead.fields (h : StatusHead) : PeerStatus :=
  ⟨h.serviceId, h.regionGroup, h.timeClass, h.reception, h.period, h.cls, h.scope, h.commonCount⟩

/-- Steps 1 and 2 of R145: the fields are replaced and the tail's signatures stored, oldest first. -/
def PeerEntry.takeStatus (e : PeerEntry) (h : StatusHead) (signatures : List Signature) : PeerEntry :=
  { e with status := some h.fields, store := signatures.foldl (fun l g => placeSignature g l) e.store }

/-- The signatures of a tail that may be absent. -/
def tailSignatures (tail : Option StatusTail) : List Signature :=
  match tail with
  | none => []
  | some t => t.signatures

/-- A STATUS notice taken (R145). -/
def State.takeStatus (s : State) (station : Byte) (rx : FrameRx) (senderTime : Nat) (h : StatusHead)
    (tail : Option StatusTail) : State :=
  let signatures := tailSignatures tail
  let stored := s.setPeers (s.peers.change station (fun e => e.takeStatus h signatures))
  let compared :=
    if !signatures.isEmpty && h.serviceId == s.config.serviceId && s.reception.state == .normal then
      stored.compare station
    else stored
  compared.judge.takePeerTime station h.timeClass senderTime rx.noted

/-! ### BREACH (R156 to R158) -/

/-- A stamp shifted by whole seconds, its time quality kept (R157). -/
def shiftStamp (d : Int) (t : Stamp) : Stamp := { t with time := shelfShift t.time (d * 1000000) }

/-- The noted-breach entry of a peer's breach (R156). -/
def State.noted? (s : State) (station : Byte) (number : Nat) : Option NotedBreach :=
  s.peers.noted.find? (fun e => e.peer == station && e.peerBreach == number)

/-- The class a PEER_NOTED record names (R157). -/
def State.announcedClass (s : State) (station : Byte) : SegClass :=
  match s.peer? station with
  | none => .programme
  | some e => (e.status.map (fun p => p.cls)).getD .programme

/-- Notes a peer's breach at an offset (R157). -/
def State.noteBreach (s : State) (station : Byte) (b : BreachNotice) (d : Int) : State :=
  if b.endStamp.isNone && notedMax ≤ s.peers.noted.length then
    s.setPeers { s.peers with overflow := addCount s.peers.overflow 1 }
  else
    let start := shiftStamp d b.startStamp
    let stop := b.endStamp.map (shiftStamp d)
    let created := s.createBreach
      { category := .peerNoted
        startStamp := start
        endStamp := stop
        segment := some ⟨b.segmentId, s.announcedClass station, b.scope⟩
        origin := .peer station b.number
        impaired := b.flags.impaired
        proxy := b.flags.proxy }
    let placed := created.1.placeSympathetic start.time (stop.map (fun t => t.time)) created.2
    match b.endStamp with
    | some _ => placed.1
    | none => placed.1.setPeers { placed.1.peers with
        noted := placed.1.peers.noted ++ [⟨station, b.number, d, created.2, placed.2⟩] }

/-- Ends a noted breach by the peer's closing notice (R158). -/
def State.endNoted (s : State) (e : NotedBreach) (b : BreachNotice) (stop : Stamp) : State :=
  let shifted := shiftStamp e.offset stop
  let ended := s.endHold e.hold shifted.time
  let closed := match e.ownBreach with
    | none => ended
    | some n => ended.closePeerNoted n shifted b.flags.impaired b.flags.proxy false
  closed.setPeers { closed.peers with
    noted := closed.peers.noted.filter (fun x => !(x.peer == e.peer && x.peerBreach == e.peerBreach)) }

/-- A BREACH notice taken (R157, R158). -/
def State.takeBreach (s : State) (station : Byte) (b : BreachNotice) : State :=
  match s.noted? station b.number with
  | some e =>
    match b.endStamp with
    | some stop => s.endNoted e b stop
    | none => s
  | none =>
    match (s.peer? station).map PeerEntry.relation, b.scope with
    | some (.common d), .national => s.noteBreach station b d
    | _, _ => s

/-! ### VERDICT (R160) -/

/-- The verdict cache with an entry stored (R160). -/
def storeVerdict (c : CacheEntry) (cache : List CacheEntry) : List CacheEntry :=
  newest 8 (cache.filter (fun x =>
    !(x.sender == c.sender && x.verdict.kind == c.verdict.kind && x.verdict.id == c.verdict.id)) ++ [c])

/-- A VERDICT notice taken (R160, R162). Its arrival stamp is the frame-start stamp (log 51). -/
def State.takeVerdict (s : State) (station : Byte) (rx : FrameRx) (v : VerdictNotice) : State :=
  if (s.peer? station).any (fun e => e.status.any (fun p => p.serviceId == s.config.serviceId)) then
    let c : CacheEntry := ⟨station, v, rx.stamp⟩
    (s.setPeers { s.peers with cache := storeVerdict c s.peers.cache }).checkEntry c
  else s

/-! ### Taking a frame (R144, R149) -/

/-- A new peer entry (R143). -/
def PeerEntry.fresh (station : Byte) (stamp : Stamp) : PeerEntry := ⟨station, true, stamp, none, [], .unknown, 0⟩

/-- Creates an entry in order of station number and reports it (R143, R144, R153). -/
def State.createPeer (s : State) (station : Byte) (stamp : Stamp) : State :=
  ((s.setPeers { s.peers with
    table := placeBefore (fun y => station.toNat < y.station.toNat) (.fresh station stamp) s.peers.table
    }).upshift.considerPeers).judge

/-- Refreshes an entry; one that becomes HEARD is judged afresh (R144, R153). -/
def State.refreshPeer (s : State) (e : PeerEntry) (stamp : Stamp) : State :=
  let t := s.setPeers (s.peers.change e.station (fun x => { x with lastHeard := stamp, heard := true }))
  if e.heard then t else t.judge

/-- Acts on a notice of a peer that has an entry (R144, step 3). -/
def State.actOn (s : State) (f : ReceivedFrame) (rx : FrameRx) : State :=
  match f.notice with
  | .status h tail => s.takeStatus f.sender rx f.senderTime h tail
  | .breach b => s.takeBreach f.sender b
  | .verdict v => s.takeVerdict f.sender rx v
  | .withdraw => s.removePeer f.sender

/-- Whether a notice is a WITHDRAW. -/
def ReceivedFrame.isWithdraw (f : ReceivedFrame) : Bool := f.notice.isWithdraw

/-- A valid frame of another station taken by the Peer Monitor (R144). -/
def State.takeFrame (s : State) (f : ReceivedFrame) (rx : FrameRx) : State :=
  match s.peer? f.sender with
  | some e => (s.refreshPeer e rx.stamp).actOn f rx
  | none =>
    if f.isWithdraw then s
    else if s.peers.table.length < peerTableMax then (s.createPeer f.sender rx.stamp).actOn f rx
    else s.setPeers { s.peers with overflow := addCount s.peers.overflow 1 }

/-! ### Completion (R124 to R126) -/

/-- A duplicate station number heard (R125): in LISTENING and RUNNING a record is created and the station moves to
LISTEN_ONLY, with the mark set (R190). -/
def State.duplicateHeard (s : State) (rx : FrameRx) : State :=
  match s.startup.station with
  | .listening | .running =>
    let raised := s.raise { category := .duplicateStation, startStamp := rx.stamp, endStamp := some rx.stamp }
    (raised.setStartup { raised.startup with listenOnlyMark := true }).enterListenOnly
  | .loading | .checking | .listenOnly | .fault => s

/-- A complete frame judged (R124 to R126). -/
def State.judgeFrame (s : State) (bytes : List Byte) (rx : FrameRx) : State :=
  match readFrame? bytes with
  | none => s.setLink { s.link with crcErrors := addCount s.link.crcErrors 1 }
  | some f => if f.sender.toNat = s.config.stationNumber then s.duplicateHeard rx else s.takeFrame f rx

/-- FRAME_COMPLETE: the last CRC byte of the frame being received arrives (R122, R124). The bytes are those that
`frameOfBits?` reads. A header that states more than 256 bytes is only judged here; its frame ends, and is counted, when
the line falls quiet. -/
def execFrameComplete (bytes : List Byte) (s : State) : Host.Outcome State Fault Refusal :=
  match s.link.rx with
  | none => .next s
  | some rx =>
    if s.live && !rx.overlong then
      if overlongHeader bytes then .next (s.setLink { s.link with rx := some { rx with overlong := true } })
      else if bytes.length = 14 + frameLength bytes then
        .next ((s.setLink { s.link with rx := none }).judgeFrame bytes rx)
      else .next s
    else .next s

end Sys2Proof.Machine
end

