-- ==== Sys2Proof/Machine/Startup.lean ====
section
/-! DEFINITION. The Start-up Controller: full reset, configuration, memory check, the station state and the restart
sequence (R189 to R193). -/

namespace Sys2Proof.Machine

/-! ### Full reset and configuration (R189, R190) -/

/-- FULL_RESET: every block takes its value after full reset (R190 and the blocks' own rules). The commands that wait are
kept (log 3), and so is the line, which is a pin (log 19). -/
def execFullReset (s : State) : Host.Outcome State Fault Refusal :=
  .next ((State.reset.setPending s.pending).setLink { ShelfLink.reset with busy := s.link.busy })

/-- The working copy and flags that a record gives (R189). A station number outside 1 … 16 does not set config-clamped
(log 47). -/
def Startup.configure (u : Startup) (record : List Byte) : Startup :=
  if sumGood record then
    let read := readConfig record
    let clamped := clampConfig read
    { u with
      config := if stationNumberOk read.stationNumber then clamped else { clamped with stationNumber := 0 }
      configClamped := clamped != read
      listenOnlyMark := !stationNumberOk read.stationNumber }
  else { u with config := builtInDefaults, defaultsInUse := true, listenOnlyMark := true }

/-- CONFIG_LOADED: the working copy is filled, a bad sum or an invalid station number requests CONFIG_FAULT, and the
station enters CHECKING (R189, R190). The record's two stamps are that moment's (log 45). -/
def execConfigLoaded (bytes : List Byte) (s : State) : Host.Outcome State Fault Refusal :=
  if s.startup.station = .loading then
    let filled := s.setStartup (s.startup.configure (recordBytes bytes))
    let requested :=
      if filled.startup.listenOnlyMark then
        filled.raise { category := .configFault, startStamp := s.nowStamp, endStamp := some s.nowStamp }
      else filled
    .next (requested.setStartup { requested.startup with station := .checking })
  else .next s

/-! ### The memory check (R191) -/

/-- The code of the first failing group, 0 where none failed (R191). -/
def firstFailed (r : CheckReport) : Nat :=
  if r.group1 then 1 else if r.group2 then 2 else if r.group3 then 3 else if r.group4 then 4
  else if r.group5 then 5 else 0

/-- Entry to LISTENING: the deadlines that run from it begin, and the deferred time records are made
(R12, R14, R40, R190). -/
def State.enterListening (s : State) : State :=
  let started := s.setStartup { s.startup with station := .listening, listeningSince := some s.now }
  let ported := started.setPort { s.port with audioRef := some s.nowStamp }
  (ported.setReception { s.reception with silenceDeadline := some (s.now + 2 * second) }).settleTimeRecords

/-- Entry to FAULT: every alarm line is asserted and no pulse end is kept (R177, R178, R190). -/
def State.enterFault (s : State) : State := (s.setStartup { s.startup with station := .fault }).setAlarms .reset

/-- MEMORY_CHECK_DONE: the check passes into LISTENING, or fails into FAULT with the first failing group's code
(R190, R191). -/
def execMemoryCheckDone (failed : CheckReport) (s : State) : Host.Outcome State Fault Refusal :=
  if s.startup.station = .checking then
    let checked := s.setStartup { s.startup with checkResult := firstFailed failed }
    .next (if firstFailed failed = 0 then checked.enterListening else checked.enterFault)
  else .next s

/-- LISTENING_END: LISTENING ends (R190). -/
def execListeningEnd (s : State) : Host.Outcome State Fault Refusal := .next s.listeningEnd

/-! ### Restart (R192, R193) -/

/-- A restart accepted outside FAULT: step 1, the withdrawal (R138, R192). -/
def State.acceptRestart (s : State) : State :=
  (s.setStartup { s.startup with restarting := true, withdrawReported := false }).beginWithdrawal

/-- RESTART at its commit point: ACCEPTED or BUSY; in FAULT only the cuts are made (R192, R193). -/
def execRestart (s : State) : Host.Outcome State Fault Refusal :=
  s.request (fun s =>
    match s.startup.station with
    | .loading | .checking => s.answer [0x01] .nothing
    | .fault => s.cutRecords.cutHolds.answer [0x00] .nothing
    | .listening | .running | .listenOnly =>
      if s.startup.restarting then s.answer [0x01] .nothing else s.acceptRestart.answer [0x00] .nothing)

/-- Step 4: each pending verdict is resolved UNMEASURED, in list order (R165, R192). -/
def State.resolveAll (s : State) : State := s.peers.pendingVerdicts.foldl (fun t e => t.resolveUnmeasured e) s

/-- The Media Port cleared by a restart (R13): a unit whose write to stacked DRAM is in progress stays until it is
taken. -/
def MediaPort.restarted (p : MediaPort) (writing : Bool) : MediaPort :=
  let kept := if writing then p.queue.take 1 else []
  { p with
    queue := kept
    overrun := none
    expected := none
    channels := none
    aligning := none
    audioRef := none
    audioAbsentOpen := false
    startDiscards := addCount p.startDiscards (p.queue.length - kept.length) }

/-- The Shelf Link Controller after a restart (R142); its line measures and counts are kept. -/
def ShelfLink.restarted (l : ShelfLink) : ShelfLink :=
  { l with
    queue := []
    transmitter := .idle
    committed := none
    rx := none
    period := .alert
    statusNext := none
    downshift := none
    unsent := [] }

/-- The Peer Monitor after a restart (R165). -/
def PeerMonitor.restarted (p : PeerMonitor) : PeerMonitor := { PeerMonitor.reset with overflow := p.overflow }

/-- Tells the Time Base that its followed peer, if any, is lost (R42, R165). -/
def State.forgetFollowed (s : State) : State :=
  match s.time.followed with
  | none => s
  | some station => s.loseFollowed station

/-- Step 6: the station enters CHECKING and the blocks are cleared (R13, R18, R24, R59, R80, R97, R142, R165, R192). -/
def State.clearForRestart (s : State) : State :=
  let entered := s.setStartup { s.startup with
    station := .checking, listeningSince := none, restarting := false, withdrawReported := false }
  let ported := (entered.setPort (s.port.restarted s.recorder.writing.isSome)).setReception
    (.resetAt (tallyIntervalOf s.now))
  let tracked := ported.setSegments
    { SegmentTracker.reset with nextOpening := s.segments.nextOpening, cueDrops := s.segments.cueDrops }
  let measured := (tracked.setLoudness .reset).setCaptions { CaptionChecker.reset with lateCount := s.captions.lateCount }
  ((measured.setPeers s.peers.restarted).setLink s.link.restarted).forgetFollowed

/-- Step 5: the RESTART MARK unit is asked for (R102, R192). -/
def State.markRestart (s : State) : State :=
  s.requestMark
    { reason := .restart, stamp := s.nowStamp, media := none, stepMs := 0, before := none, place := s.port.nextSerial }

/-- RESTART_SEQUENCE: steps 2 to 6, taken together at the withdrawal report (R192). -/
def execRestartSequence (s : State) : Host.Outcome State Fault Refusal :=
  if s.live = true ∧ s.startup.withdrawReported = true then
    .next s.cutRecords.cutHolds.resolveAll.markRestart.clearForRestart
  else .next s

end Sys2Proof.Machine
end

