-- ==== Sys2Proof/Machine/Dispatch.lean ====
section
/-! DEFINITION. One arm per command of spec/opcode_table.json: which meaning it has. -/

namespace Sys2Proof.Machine

/-- The effect of a command on everything but the queue of commands. -/
def exec (i : Instr) (s : State) : Host.Outcome State Fault Refusal :=
  match i with
  | .fullReset => Sys2Proof.Machine.execFullReset s
  | .configLoaded bytes => Sys2Proof.Machine.execConfigLoaded bytes s
  | .memoryCheckDone failed => Sys2Proof.Machine.execMemoryCheckDone failed s
  | .listeningEnd => Sys2Proof.Machine.execListeningEnd s
  | .oscillatorTick => Sys2Proof.Machine.execOscillatorTick s
  | .unitHeaderComplete bytes => Sys2Proof.Machine.execUnitHeaderComplete bytes s
  | .payloadComplete payload => Sys2Proof.Machine.execPayloadComplete payload s
  | .unitDelivery => Sys2Proof.Machine.execUnitDelivery s
  | .recorderWriteComplete => Sys2Proof.Machine.execRecorderWriteComplete s
  | .markUnitWrite => Sys2Proof.Machine.execMarkUnitWrite s
  | .overrunExpiry => Sys2Proof.Machine.execOverrunExpiry s
  | .audioAbsentDeadline => Sys2Proof.Machine.execAudioAbsentDeadline s
  | .qualitySilenceExpiry => Sys2Proof.Machine.execQualitySilenceExpiry s
  | .tallyBucketBoundary => Sys2Proof.Machine.execTallyBucketBoundary s
  | .recoveryExpiry => Sys2Proof.Machine.execRecoveryExpiry s
  | .historyEntryExpiry => Sys2Proof.Machine.execHistoryEntryExpiry s
  | .referenceSilenceExpiry => Sys2Proof.Machine.execReferenceSilenceExpiry s
  | .holdoverExpiry => Sys2Proof.Machine.execHoldoverExpiry s
  | .lineBusy => Sys2Proof.Machine.execLineBusy s
  | .lineQuiet received => Sys2Proof.Machine.execLineQuiet received s
  | .frameStart => Sys2Proof.Machine.execFrameStart s
  | .frameComplete bytes => Sys2Proof.Machine.execFrameComplete bytes s
  | .attemptStart => Sys2Proof.Machine.execAttemptStart s
  | .collision => Sys2Proof.Machine.execCollision s
  | .noticeCommitted => Sys2Proof.Machine.execNoticeCommitted s
  | .frameSent => Sys2Proof.Machine.execFrameSent s
  | .occupancyBucketEnd => Sys2Proof.Machine.execOccupancyBucketEnd s
  | .statusTimerExpiry => Sys2Proof.Machine.execStatusTimerExpiry s
  | .downshiftDeadline => Sys2Proof.Machine.execDownshiftDeadline s
  | .peerStaleDeadline station => Sys2Proof.Machine.execPeerStaleDeadline station s
  | .peerRemovalDeadline station => Sys2Proof.Machine.execPeerRemovalDeadline station s
  | .divergenceExpiry => Sys2Proof.Machine.execDivergenceExpiry s
  | .proxyDeadline => Sys2Proof.Machine.execProxyDeadline s
  | .holdIntervalClose slot => Sys2Proof.Machine.execHoldIntervalClose slot s
  | .holdMaxLengthExpiry slot => Sys2Proof.Machine.execHoldMaxLengthExpiry slot s
  | .pulseEnd line => Sys2Proof.Machine.execPulseEnd line s
  | .chipSelectRise => Sys2Proof.Machine.execChipSelectRise s
  | .readingRequestCommit => Sys2Proof.Machine.execReadingRequestCommit s
  | .unknownRequest code => Sys2Proof.Machine.execUnknownRequest code s
  | .readSummary => Sys2Proof.Machine.execReadSummary s
  | .logNext => Sys2Proof.Machine.execLogNext s
  | .logRewind => Sys2Proof.Machine.execLogRewind s
  | .logAck number => Sys2Proof.Machine.execLogAck number s
  | .verdictNext => Sys2Proof.Machine.execVerdictNext s
  | .verdictRewind => Sys2Proof.Machine.execVerdictRewind s
  | .holdList => Sys2Proof.Machine.execHoldList s
  | .holdPlace fromSeconds fromMicros toSeconds toMicros => Sys2Proof.Machine.execHoldPlace fromSeconds fromMicros toSeconds toMicros s
  | .holdRelease slot => Sys2Proof.Machine.execHoldRelease slot s
  | .unitSeek slot seconds micros => Sys2Proof.Machine.execUnitSeek slot seconds micros s
  | .unitRead => Sys2Proof.Machine.execUnitRead s
  | .restart => Sys2Proof.Machine.execRestart s
  | .restartSequence => Sys2Proof.Machine.execRestartSequence s
  | .missingDelimiter first second => Sys2Proof.Machine.execMissingDelimiter first second s

end Sys2Proof.Machine
end

