-- ==== Sys2Proof/Safety.lean ====
section
/-! DEFINITION. The terms claims use: a run that goes on, the commands that are due, and what a command keeps. -/

namespace Sys2Proof.Machine

/-- A step from the state goes on: it neither faults nor refuses. -/
def State.goesOn (s : State) : Prop := ∃ t, step s = .next t

/-! ### Due commands (log 2) -/

/-- The timed commands without operands. -/
def plainTimed : List Instr :=
  [.listeningEnd, .overrunExpiry, .audioAbsentDeadline, .qualitySilenceExpiry, .tallyBucketBoundary, .recoveryExpiry,
    .historyEntryExpiry, .referenceSilenceExpiry, .holdoverExpiry, .occupancyBucketEnd, .statusTimerExpiry,
    .downshiftDeadline, .divergenceExpiry, .proxyDeadline, .restartSequence]

/-- The timed commands of a peer entry. -/
def peerTimed (e : PeerEntry) : List Instr := [.peerStaleDeadline e.station, .peerRemovalDeadline e.station]

/-- The timed commands of a hold slot. -/
def slotTimed (n : Nat) : List Instr :=
  [.holdIntervalClose (BitVec.ofNat 5 n), .holdMaxLengthExpiry (BitVec.ofNat 5 n)]

/-- The timed commands of an alarm line. -/
def lineTimed (n : Nat) : List Instr := [.pulseEnd (BitVec.ofNat 2 n)]

/-- The commands that wait for a moment of shelf time, for the local count or for another block's report, with every
operand they can have in the state. -/
def State.timedCommands (s : State) : List Instr :=
  [plainTimed, (s.peers.table.map peerTimed).flatten, ((List.range 32).map slotTimed).flatten,
    ((List.range 4).map lineTimed).flatten].flatten

/-- Whether a command would change the state. -/
def State.changedBy (s : State) (c : Instr) : Bool :=
  match exec c s with
  | .next t => t != s
  | .fault _ | .refused _ => true

/-- The commands that are due: of the timed commands, those that would change the state now (log 2). -/
def State.dueCommands (s : State) : List Instr := s.timedCommands.filter s.changedBy

/-! ### What a command keeps -/

/-- The second state agrees with the first on everything but records, holds, notices, alarm pulses, cursors, the links of
noted breaches and the divergence: the queue of commands, the station state and configuration, the Media Port, the
Reception Monitor, the Segment Tracker, the Time Base, the Loudness Unit, the Verdict Former, the Caption Checker, and the
Peer Monitor's table, verdict cache and pending verdicts. -/
structure KeepsMeasured (s t : State) : Prop where
  pending   : t.pending = s.pending
  startup   : t.startup = s.startup
  port      : t.port = s.port
  reception : t.reception = s.reception
  segments  : t.segments = s.segments
  time      : t.time = s.time
  loudness  : t.loudness = s.loudness
  verdicts  : t.verdicts = s.verdicts
  captions  : t.captions = s.captions
  table     : t.peers.table = s.peers.table
  cache     : t.peers.cache = s.peers.cache
  proxies   : t.peers.pendingVerdicts = s.peers.pendingVerdicts
  noted     : t.peers.noted.length = s.peers.noted.length

/-! ### Limits of the buffers -/

/-- Whether a list of pages is in canonical form: physical indexes strictly rising and below 65,536, and no listed page
equal to a never-written one, whose sequence number is 0 (R98; log 32). -/
def pagesCanonical : List Page → Bool
  | [] => true
  | [p] => p.index < pageCount && 1 ≤ p.seq
  | p :: q :: rest => p.index < q.index && p.index < pageCount && 1 ≤ p.seq && pagesCanonical (q :: rest)

/-- The canonical form of the page store, with the sequence counter past 0 (R98, R101). -/
def Recorder.wf (r : Recorder) : Bool := 1 ≤ r.counter && pagesCanonical r.pages

/-- The number of pages that at least one hold pins (R98). -/
def Recorder.pinnedPages (r : Recorder) : Nat := r.countPages (fun p => p.pins != 0)

/-- The limits of the input queue (R5). -/
structure MediaPort.Within (p : MediaPort) : Prop where
  units : p.queue.length ≤ 64
  bytes : p.held ≤ 262144

/-- The limits of the Loudness Unit's lists (R48, R50, R58). -/
structure LoudnessUnit.Within (l : LoudnessUnit) : Prop where
  ring       : l.ring.length ≤ 30
  chain      : l.chain.length ≤ 4
  signatures : l.ownHistory.length ≤ 16

/-- The limits of the Caption Checker (R82, R92, R93). -/
structure CaptionChecker.Within (c : CaptionChecker) : Prop where
  timeline    : c.timeline.length ≤ 16
  covered     : c.coveredCount ≤ c.soundCount
  progCovered : c.progCovered ≤ c.progSound

/-- The limits of the Shelf Link Controller's lists (R130, R133, R134). -/
structure ShelfLink.Within (l : ShelfLink) : Prop where
  notices   : l.queue.length ≤ 8
  unsent    : l.unsent.length ≤ 8
  occupancy : l.occupancy.length = 10

/-- The limits of the Breach Log (R170, R172): 128 records, one open cause of a category. -/
structure BreachLog.Within (l : BreachLog) : Prop where
  records : l.records.length ≤ 128
  causes  : (l.causes.map (fun c => c.category)).Nodup

/-- The limits of the Peer Monitor (R143, R146, R156, R160, R161). -/
structure PeerMonitor.Within (p : PeerMonitor) : Prop where
  peers    : p.table.length ≤ 15
  stations : (p.table.map (fun e => e.station)).Nodup
  stores   : ∀ e ∈ p.table, e.store.length ≤ 16
  noted    : p.noted.length ≤ 32
  cache    : p.cache.length ≤ 8
  proxies  : p.pendingVerdicts.length ≤ 4

/-- What the rules keep true of the page store and the hold table (R98, R103, R112; the canonical form is log 32's). -/
structure Recorder.Within (r : Recorder) : Prop where
  slots  : r.slots.length = 32
  pages  : r.wf = true
  pinned : r.pinnedTotal = r.pinnedPages
  budget : r.pinnedTotal ≤ 61440

/-- The limits the rules set on queues, lists and tables, but for the Recorder's. -/
structure State.Within (s : State) : Prop where
  port       : s.port.Within
  tally      : s.reception.tally.length = 10
  cues       : s.segments.pending.length ≤ 4
  references : s.time.history.length ≤ 3
  loudness   : s.loudness.Within
  verdicts   : s.verdicts.history.length ≤ 16
  captions   : s.captions.Within
  link       : s.link.Within
  log        : s.log.Within
  pulses     : s.alarms.pulseEnds.length = 4
  peers      : s.peers.Within

/-- The start-up state stays as it is, or LISTENING ends in RUNNING or LISTEN_ONLY (R190). -/
def Startup.ListensOn (a b : Startup) : Prop :=
  b = a ∨ (a.station = .listening ∧ (b = { a with station := .running } ∨ b = { a with station := .listenOnly }))

/-- What a shared operation does besides its own effect: it leaves the queue of commands and the configuration alone, the
station state too but that a forward step may end LISTENING, shelf time does not go back nor pass its last value, and the
limits are kept. -/
structure Proceeds (s t : State) : Prop where
  pending : t.pending = s.pending
  startup : s.startup.ListensOn t.startup
  clock   : s.now ≤ shelfMax → s.now ≤ t.now ∧ t.now ≤ shelfMax
  limits  : s.Within → t.Within
  store   : s.recorder.Within → t.recorder.Within

/-! ### What a frame can carry (R123, R132, R135, R136) -/

/-- Whether a loudness fits its two bytes, where −32,768 stands for NONE (R132, R136). -/
def loudnessFits (x : Option Int) : Prop := ∀ i, x = some i → -32767 ≤ i ∧ i ≤ 32767

/-- The values the fields of a notice can hold on the line (R132, R135, R136). -/
def Notice.Sendable : Notice → Prop
  | .status _ none => True
  | .status _ (some t) =>
    loudnessFits t.shortTerm ∧ 1 ≤ t.signatures.length ∧ t.signatures.length ≤ 8 ∧
      ∀ g ∈ t.signatures, -128 ≤ g.level ∧ g.level ≤ 127
  | .breach b =>
    1 ≤ b.number ∧ b.number ≤ 65535 ∧ b.category.shared = true ∧ b.startStamp.time ≤ shelfMax ∧
      (∀ e, b.endStamp = some e → e.time ≤ shelfMax) ∧ (∀ i, b.figure = some i → -32768 ≤ i ∧ i ≤ 32767)
  | .verdict v =>
    v.startStamp.time ≤ shelfMax ∧ v.endStamp.time ≤ shelfMax ∧ loudnessFits v.figures.integrated ∧
      loudnessFits v.figures.maxMomentary ∧ loudnessFits v.figures.maxShortTerm ∧
      (-32768 ≤ v.figures.maxPeak ∧ v.figures.maxPeak ≤ 32767) ∧ v.figures.offered < 2 ^ 32 ∧
      (∀ c, v.coverage = some c → c ≤ 1000)
  | .withdraw => True

end Sys2Proof.Machine
end

