-- ==== Sys2Proof/Certificates/Slice0/Obligations.lean ====
section
/-! DEFINITION. The statements for the provers. Rule numbers are those of spec/; "log <n>" is notes/assumptions/<n>.md. -/

open Sys2Proof Sys2Proof.Machine

/-! ### The step and the whole machine -/

/-- A step takes the command at the front of the queue and runs it on the state with the queue's rest; with no command
waiting the block idles (the latter is the model's choice, log 3). -/
def Obligations.StepRunsFrontCommand : Prop :=
  (∀ (c : Instr) (rest : List Instr) (s : State), step (s.setPending (c :: rest)) = exec c (s.setPending rest)) ∧
  (∀ s : State, s.pending = [] → step s = .next s)

/-- Every command completes in every state, leaves the waiting commands alone, and changes the configuration only where
it is CONFIG_LOADED or FULL_RESET. That a command completes where it cannot occur is the model's choice (log 1, log 30,
log 34), and so is that FULL_RESET keeps the commands that wait (log 3). -/
def Obligations.EveryCommandCompletes : Prop :=
  ∀ (c : Instr) (s : State), ∃ t, exec c s = .next t ∧ t.pending = s.pending ∧
    ((∀ bytes, c ≠ .configLoaded bytes) → c ≠ .fullReset → t.startup.config = s.startup.config)

/-- Every step keeps the limits of every queue, list and table but the Recorder's. -/
def Obligations.EveryStepKeepsLimits : Prop := ∀ s t : State, s.Within → step s = .next t → t.Within

/-- Every step keeps the page store in its form, the hold table at 32 slots, the pinned-page total equal to the number of
pinned pages and within the pin budget. -/
def Obligations.EveryStepKeepsPinBudget : Prop :=
  ∀ s t : State, s.recorder.Within → step s = .next t → t.recorder.Within

/-- The machine after reset is within every limit. -/
def Obligations.ResetWithinLimits : Prop := State.reset.Within ∧ State.reset.recorder.Within ∧ State.reset.now ≤ shelfMax

/-- Shelf time never goes back and never passes its last value, but for FULL_RESET, which sets it to 0. -/
def Obligations.ShelfTimeNeverGoesBack : Prop :=
  ∀ s t : State, s.now ≤ shelfMax → step s = .next t →
    t.now ≤ shelfMax ∧ (s.pending.head? ≠ some .fullReset → s.now ≤ t.now)

/-- FAULT is left by FULL_RESET only, and nothing else leads back to LOADING (R190). -/
def Obligations.FaultAndLoadingAreLeftForGood : Prop :=
  ∀ (c : Instr) (s t : State), c ≠ .fullReset → exec c s = .next t →
    (s.startup.station = .fault → t.startup.station = .fault) ∧
      (t.startup.station = .loading → s.startup.station = .loading)

/-! ### Start-up -/

/-- FULL_RESET: the values the rules give for full reset, block by block, with the unannounced segment (R24), the
closed divergence (R165), the empty occupancy buckets (R133) and the caption counts, notes and sums (R97). That the
two configuration flags are clear is the model's choice (log 7), and so are the waiting commands and the line pin,
which are kept (log 3, log 19). -/
def Obligations.FullReset : Prop :=
  ∀ s : State, ∃ t, exec .fullReset s = .next t ∧ t.pending = s.pending ∧ t.link.busy = s.link.busy ∧
    t.startup.station = .loading ∧ t.startup.listenOnlyMark = false ∧ t.startup.checkResult = 0 ∧
    t.startup.config = builtInDefaults ∧ t.startup.configClamped = false ∧ t.startup.defaultsInUse = false ∧
    t.port.framing = .hunting ∧ t.port.queue = [] ∧ t.port.overrun = none ∧ t.port.expected = none ∧
    t.port.channels = none ∧ t.port.audioRef = none ∧
    t.port.inputDrops = 0 ∧ t.port.startDiscards = 0 ∧ t.port.framingErrors = 0 ∧ t.port.damaged = 0 ∧
    t.reception.reported = 0 ∧ t.reception.effective = 0 ∧ t.reception.state = .normal ∧ t.reception.grace = true ∧
    t.reception.recoveryStart = none ∧ t.reception.lowest = none ∧
    t.reception.silenceDeadline = none ∧ t.reception.tally = List.replicate 10 ⟨0, 0⟩ ∧ t.reception.latch = false ∧
    t.segments.pending = [] ∧ t.segments.current.segmentId = 0 ∧ t.segments.current.cls = .programme ∧
    t.segments.current.scope = .regional ∧ t.segments.current.captions = false ∧ t.segments.current.programmeId = 0 ∧
    t.segments.current.startStamp = none ∧ t.segments.current.startMedia = none ∧ t.segments.current.endStamp = none ∧
    t.segments.current.impaired = false ∧
    t.segments.programme = none ∧ t.segments.cueDrops = 0 ∧
    t.time.localCount = 0 ∧ t.time.shelf = 0 ∧ t.time.source = .free ∧ t.time.remaining = 0 ∧ t.time.followed = none ∧
    t.time.history = [] ∧ t.time.silenceDeadline = none ∧ t.time.holdoverDeadline = none ∧ t.time.window = none ∧
    t.time.suspect = false ∧ t.time.largestDeviation = 0 ∧
    t.loudness.filters = [] ∧ t.loudness.peakHistory = [] ∧ t.loudness.chain = [] ∧ t.loudness.signature = none ∧
    t.loudness.lastSub = none ∧ t.loudness.peakRaised = false ∧ t.loudness.excess = ⟨0, none, none, false⟩ ∧
    t.loudness.inProgress = none ∧ t.loudness.ring = [] ∧ t.loudness.momentary = none ∧ t.loudness.shortTerm = none ∧
    t.loudness.ownHistory = [] ∧ t.loudness.segmentCtx = none ∧ t.loudness.programmeCtx = none ∧
    t.verdicts.history = [] ∧
    t.captions.timeline = [] ∧ t.captions.pairShown = false ∧ t.captions.pairDigest = 0 ∧ t.captions.checking = none ∧
    t.captions.gap = ⟨0, none, false⟩ ∧ t.captions.stuck = ⟨none, 0, none, false⟩ ∧
    t.captions.lateCount = 0 ∧ t.captions.absentNote = false ∧ t.captions.stuckNote = false ∧
    t.captions.soundCount = 0 ∧ t.captions.coveredCount = 0 ∧ t.captions.progSound = 0 ∧ t.captions.progCovered = 0 ∧
    t.captions.progChecked = false ∧
    t.recorder.pages = [] ∧ t.recorder.current = none ∧ t.recorder.counter = 1 ∧ t.recorder.pinnedTotal = 0 ∧
    t.recorder.slots = List.replicate 32 ⟨0, none⟩ ∧ t.recorder.marks = [] ∧
    t.link.queue = [] ∧ t.link.transmitter = .idle ∧ t.link.period = .alert ∧ t.link.statusNext = none ∧
    t.link.downshift = none ∧ t.link.unsent = [] ∧ t.link.occupancy = List.replicate 10 0 ∧
    t.link.noticeDrops = 0 ∧ t.link.crcErrors = 0 ∧
    t.peers.table = [] ∧ t.peers.noted = [] ∧ t.peers.cache = [] ∧ t.peers.pendingVerdicts = [] ∧
    t.peers.divergence = none ∧ t.peers.divergentOpen = false ∧ t.peers.overflow = 0 ∧
    t.log.records = [] ∧ t.log.nextNumber = 1 ∧ t.log.ackPoint = 0 ∧ t.log.causes = [] ∧ t.log.full = false ∧
    t.log.overflow = 0 ∧ t.alarms.pulseEnds = [none, none, none, none] ∧
    t.evidence.logCursor = none ∧ t.evidence.verdictCursor = none ∧ t.evidence.unitCursor = none

/-- CONFIG_LOADED with a good sum and a station number 1 … 16: the fields read, each limited to its range, and CHECKING.
The byte order in which the record's fields and its sum are read is the model's choice (log 7). -/
def Obligations.ConfigLoadedGood : Prop :=
  ∀ (bytes : List Byte) (s : State), s.startup.station = .loading → bytes.length = 128 → sumGood bytes = true →
    1 ≤ (byteAt bytes 0).toNat → (byteAt bytes 0).toNat ≤ 16 →
    exec (.configLoaded bytes) s = .next (s.setStartup { s.startup with
      station := .checking
      config := clampConfig (readConfig bytes)
      configClamped := clampConfig (readConfig bytes) != readConfig bytes
      listenOnlyMark := false })

/-- CONFIG_LOADED with a bad sum, or with a station number 0 or above 16: the working copy, the two configuration flags,
the listen-only mark, the CONFIG_FAULT record and CHECKING; a memory that does not answer gives a bad sum. And what each
field of a loaded working copy takes from its bytes: every field of R188, a limited one as read inside its range and the
nearer limit outside it. The byte order of the record is the model's choice (log 7), and so are the record's two stamps
(log 45) and that an invalid station number does not set config-clamped (log 47). -/
def Obligations.ConfigFaultyAndFields : Prop :=
  (∀ (bytes : List Byte) (s : State), s.startup.station = .loading → bytes.length = 128 →
    s.log.records.length < 128 → (sumGood bytes = true → (byteAt bytes 0).toNat = 0 ∨ 16 < (byteAt bytes 0).toNat) →
    ∃ t r, exec (.configLoaded bytes) s = .next t ∧
      t.startup = { s.startup with
        station := .checking
        listenOnlyMark := true
        config := if sumGood bytes then { clampConfig (readConfig bytes) with stationNumber := 0 } else builtInDefaults
        configClamped := if sumGood bytes then clampConfig (readConfig bytes) != readConfig bytes
          else s.startup.configClamped
        defaultsInUse := s.startup.defaultsInUse || !sumGood bytes } ∧
      t.log.records = s.log.records ++ [r] ∧ r.category = .configFault ∧ r.origin = .own ∧ r.isOpen = false ∧
      r.startStamp = s.nowStamp ∧ r.endStamp = some s.nowStamp ∧ r.acked = false ∧ r.figure = none ∧
      t.port = s.port ∧ t.time = s.time ∧ t.recorder = s.recorder ∧ t.peers = s.peers ∧ t.link = s.link) ∧
  sumGood (List.replicate 128 0xFF) = false ∧
  (∀ bytes : List Byte,
    let c := clampConfig (readConfig bytes)
    let limited := fun (lo hi read taken : Int) => (lo ≤ taken ∧ taken ≤ hi) ∧
      (read < lo → taken = lo) ∧ (hi < read → taken = hi) ∧ (lo ≤ read → read ≤ hi → taken = read)
    c.stationNumber = (byteAt bytes 0).toNat ∧ c.regionGroup = byteAt bytes 1 ∧ c.serviceId.toNat = natAt bytes 2 2 ∧
    limited 0 2000 (natAt bytes 4 2) c.referenceDelay ∧
    (∀ k b, (k = .programme ∧ b = 6) ∨ (k = .advert ∧ b = 14) ∨ (k = .promotion ∧ b = 22) ∨ (k = .junction ∧ b = 30) →
      limited (-4000) (-1000) (intAt bytes b 2) (c.profile k).target ∧
      limited 10 500 (natAt bytes (b + 2) 2) (c.profile k).tolerance ∧
      limited 0 1000 (natAt bytes (b + 4) 2) (c.profile k).margin ∧
      limited (-99) 0 (intAt bytes (b + 6) 1) (c.profile k).peakLimit ∧
      (c.profile k).captionCheck = (byteAt bytes (b + 7)).getLsbD 0) ∧
    limited (-6000) (-2000) (intAt bytes 38 2) c.soundThreshold ∧
    limited 2 60 (natAt bytes 40 1) c.gapLimit ∧ limited 5 120 (natAt bytes 41 1) c.stuckLimit ∧
    limited 0 100 (natAt bytes 42 1) c.tq ∧ limited 5 60 (natAt bytes 43 1) c.divergenceTime ∧
    limited 5 120 (natAt bytes 44 1) c.proxyWait ∧ limited 0 120 (natAt bytes 45 1) c.preRoll ∧
    limited 0 120 (natAt bytes 46 1) c.postRoll ∧ limited 60 7200 (natAt bytes 48 2) c.maxHold ∧
    limited 10 600 (natAt bytes 50 2) c.steadyDelay ∧ limited 60 3600 (natAt bytes 52 2) c.quietDelay ∧
    limited 60 3600 (natAt bytes 54 2) c.holdoverLimit ∧
    (∀ i, i < 4 → (c.line i).mask.toNat = natAt bytes (56 + 4 * i) 3 % 2 ^ 18 ∧
      (c.line i).logFull = (byteAt bytes (59 + 4 * i)).getLsbD 0 ∧
      (c.line i).pulse = (byteAt bytes (59 + 4 * i)).getLsbD 1 ∧
      (c.line i).activeHigh = (byteAt bytes (59 + 4 * i)).getLsbD 2))

/-- MEMORY_CHECK_DONE in CHECKING: a check that passes leads to LISTENING with its deadlines and, where they were
deferred, the TIME_DEGRADED record of the source states HOLDOVER and FREE and the CLOCK_SUSPECT record of a standing
suspect condition; a check that fails leads to FAULT with the first failing group's code and every alarm line asserted.
That the memory groups' contents are left as they are is log 25's choice; that TIME_DEGRADED is opened before
CLOCK_SUSPECT is log 41's. -/
def Obligations.MemoryCheckDone : Prop :=
  ∀ (failed : CheckReport) (s : State), s.startup.station = .checking →
    let opened := fun (category : Category) (r : BreachRecord) =>
      r.category = category ∧ r.isOpen = true ∧ r.startStamp = s.nowStamp
    (failed = ⟨false, false, false, false, false⟩ → ∃ t, exec (.memoryCheckDone failed) s = .next t ∧
      t.startup = { s.startup with station := .listening, checkResult := 0, listeningSince := some s.now } ∧
      t.port = { s.port with audioRef := some s.nowStamp } ∧
      t.reception = { s.reception with silenceDeadline := some (s.now + 2 * second) } ∧
      (s.log.records.length < 127 → (s.time.source = .holdover ∨ s.time.source = .free) → s.time.suspect = false →
        ∃ a, t.log.records = s.log.records ++ [a] ∧ opened .timeDegraded a) ∧
      (s.log.records.length < 127 → (s.time.source = .holdover ∨ s.time.source = .free) → s.time.suspect = true →
        ∃ a b, t.log.records = s.log.records ++ [a, b] ∧ opened .timeDegraded a ∧ opened .clockSuspect b) ∧
      (s.log.records.length < 127 → (s.time.source = .locked ∨ s.time.source = .peer) → s.time.suspect = true →
        ∃ b, t.log.records = s.log.records ++ [b] ∧ opened .clockSuspect b) ∧
      (s.time.suspect = false → (s.time.source = .locked ∨ s.time.source = .peer) → t.log = s.log) ∧
      t.segments = s.segments ∧ t.time = s.time ∧ t.loudness = s.loudness ∧ t.captions = s.captions ∧
      t.verdicts = s.verdicts ∧ t.recorder = s.recorder ∧ t.peers = s.peers) ∧
    (∀ code : Nat, firstFailed failed = code → code ≠ 0 →
      ∃ t, exec (.memoryCheckDone failed) s = .next t ∧
        t = (s.setStartup { s.startup with station := .fault, checkResult := code }).setAlarms ⟨[none, none, none, none]⟩ ∧
        ∀ i, i < 4 → t.lineAsserted i = true) ∧
    (failed.group1 = true → firstFailed failed = 1) ∧
    (failed.group1 = false → failed.group2 = true → firstFailed failed = 2) ∧
    (failed = ⟨false, false, true, failed.group4, failed.group5⟩ → firstFailed failed = 3) ∧
    (failed = ⟨false, false, false, true, failed.group5⟩ → firstFailed failed = 4) ∧
    (failed = ⟨false, false, false, false, true⟩ → firstFailed failed = 5)

/-- LISTENING_END at the moment of entry plus 2 s: RUNNING in class ALERT with a STATUS notice, its head field by
field, and both timers, or LISTEN_ONLY with an empty queue when the listen-only mark is set. -/
def Obligations.ListeningEnd : Prop :=
  ∀ (since : Nat) (s : State),
    let head : StatusHead := ⟨s.config.serviceId, s.config.regionGroup, s.time.source,
      decide (20000 ≤ s.time.remaining.natAbs), s.reception.state, BitVec.ofNat 8 s.reception.effective, .alert,
      s.segments.current.segmentId, s.segments.current.cls, s.segments.current.scope,
      BitVec.ofNat 8 (s.peers.table.filter (fun e => s.isCompanion e && e.relation.isCommon)).length,
      BitVec.ofNat 8 (s.log.records.filter (fun r => r.isOpen)).length⟩
    s.startup.station = .listening → s.startup.listeningSince = some since →
    since + 2 * second ≤ s.now → s.startup.restarting = false → s.link.queue = [] →
    (s.startup.listenOnlyMark = false → ∃ t q, exec .listeningEnd s = .next t ∧
      t.startup = { s.startup with station := .running } ∧ t.link.period = .alert ∧
      t.link.downshift = some (s.now + s.config.steadyDelay * second) ∧ t.link.statusNext = some (s.now + second) ∧
      t.link.queue = [q] ∧ q.notice = .status head s.statusTail ∧ q.attempts = 0 ∧
      t = (s.setStartup t.startup).setLink t.link) ∧
    (s.startup.listenOnlyMark = true → exec .listeningEnd s = .next
      ((s.setStartup { s.startup with station := .listenOnly }).setLink { s.link with
        queue := [], transmitter := .idle, committed := none, statusNext := none, downshift := none }))

/-- RESTART outside FAULT: BUSY with no effect in LOADING, CHECKING and while one is in progress; else ACCEPTED. In RUNNING
a WITHDRAW notice becomes the only one in the queue; in LISTENING and LISTEN_ONLY the queue is emptied and the withdrawal is
reported at once. -/
def Obligations.RestartAnswers : Prop :=
  ∀ s : State, s.evidence.txn = none →
    ((s.startup.station = .loading ∨ s.startup.station = .checking ∨ (s.live = true ∧ s.startup.restarting = true)) →
      exec .restart s = .next (s.setEvidence { s.evidence with txn := some ⟨[0x01], 0, .nothing⟩ })) ∧
    (s.live = true → s.startup.restarting = false → ∃ t, exec .restart s = .next t ∧
      t.evidence = { s.evidence with txn := some ⟨[0x00], 0, .nothing⟩ } ∧
      t.startup = { s.startup with
        restarting := true, withdrawReported := decide (s.startup.station ≠ .running) } ∧
      t.link.queue.map (fun q => q.notice) = (if s.startup.station = .running then [.withdraw] else []) ∧
      t.link.noticeDrops = s.link.noticeDrops ∧
      t = ((s.setStartup t.startup).setLink t.link).setEvidence t.evidence)

/-- RESTART in FAULT (R193): FAULT is not left, the OPEN records close and the OPEN holds are cut with RESTART_CUT,
no MARK unit is asked for, no page begun, the check not run again, and the answer is ACCEPTED. The last page of a
hold cut with no current page is log 43's choice. -/
def Obligations.RestartInFault : Prop :=
  ∀ s : State, s.evidence.txn = none → s.startup.station = .fault →
    ∃ t, exec .restart s = .next t ∧ t.startup = s.startup ∧
      t.evidence = { s.evidence with txn := some ⟨[0x00], 0, .nothing⟩ } ∧
      List.Forall₂ (fun r x : BreachRecord => x.isOpen = false ∧
          (r.isOpen = true → x.endStamp = some s.nowStamp ∧ x.flags.restartCut = true) ∧
          (r.isOpen = false → x.endStamp = r.endStamp) ∧
          x = { r with endStamp := x.endStamp, isOpen := false, flags := { r.flags with restartCut := x.flags.restartCut } })
        s.log.records t.log.records ∧
      t.log = { s.log with records := t.log.records, causes := [] } ∧
      List.Forall₂ (fun a b : HoldSlot => b.tenure = a.tenure ∧ b.hold = a.hold.map (fun h =>
          if h.isOpen then
            { h with isOpen := false, stop := some s.now, last := some (s.recorder.lastNow h), closeStamp := some s.now
                     flags := { h.flags with restartCut := true } }
          else h))
        s.recorder.slots t.recorder.slots ∧
      t.recorder = { s.recorder with slots := t.recorder.slots } ∧
      t = ((s.setLog t.log).setRecorder t.recorder).setEvidence t.evidence

/-- RESTART_SEQUENCE at the withdrawal report: steps 2 to 6 of R192 taken together. Every old record and hold is kept,
the OPEN records close and the OPEN holds are cut at this moment with RESTART_CUT; the pending verdicts enter the
history in list order as UNMEASURED, each with its MEASUREMENT_LOST record behind the old ones; a RESTART MARK unit is
asked for; the station enters CHECKING and the blocks are cleared. A unit whose write is in progress keeps its place in
the input queue. That the restart is then over is log 18's choice, and the last page of a hold cut with no current page
is log 43's. -/
def Obligations.RestartSequence : Prop :=
  ∀ s : State, s.live = true → s.startup.restarting = true → s.startup.withdrawReported = true →
    ∃ t, exec .restartSequence s = .next t ∧ t.pending = s.pending ∧
      t.startup = { s.startup with
        station := .checking, listeningSince := none, restarting := false, withdrawReported := false } ∧
      (∀ r ∈ t.log.records, r.isOpen = false) ∧ t.log.causes = [] ∧
      (s.log.records.length + s.peers.pendingVerdicts.length ≤ 128 → ∃ cut lost, t.log.records = cut ++ lost ∧
        List.Forall₂ (fun r x : BreachRecord => x = { r with
            endStamp := if r.isOpen then some s.nowStamp else r.endStamp
            isOpen := false
            flags := { r.flags with restartCut := r.flags.restartCut || r.isOpen ||
              s.recorder.openHolds.any (fun h => h.breach == some r.number) } })
          s.log.records cut ∧
        List.Forall₂ (fun (e : PendingVerdict) (x : BreachRecord) => x.category = .measurementLost ∧ x.origin = .own ∧
            x.startStamp = e.verdict.startStamp ∧ x.endStamp = some e.verdict.endStamp ∧ x.figure = none ∧
            x.segmentId = e.verdict.id ∧ x.cls = e.verdict.cls ∧ x.scope = e.verdict.scope ∧ x.hold = none ∧
            x.acked = false)
          s.peers.pendingVerdicts lost) ∧
      (s.verdicts.history.length ≤ 16 → t.verdicts.history = newest 16 (s.verdicts.history ++
        s.peers.pendingVerdicts.mapIdx (fun i e =>
          { e.verdict with source := .unmeasured, serial := s.verdicts.nextSerial + i }))) ∧
      t.verdicts.nextSerial = s.verdicts.nextSerial + s.peers.pendingVerdicts.length ∧
      (s.peers.pendingVerdicts = [] → t.evidence = s.evidence ∧ t.alarms = s.alarms) ∧
      t.evidence.txn = s.evidence.txn ∧ t.evidence.unitCursor = s.evidence.unitCursor ∧
      List.Forall₂ (fun a b : HoldSlot => b.tenure = a.tenure ∧ b.hold = a.hold.map (fun h =>
          if h.isOpen then
            { h with isOpen := false, stop := some s.now, last := some (s.recorder.lastNow h), closeStamp := some s.now
                     flags := { h.flags with restartCut := true } }
          else h))
        s.recorder.slots t.recorder.slots ∧
      t.recorder = { s.recorder with slots := t.recorder.slots, marks := t.recorder.marks } ∧
      (∃ m ∈ t.recorder.marks, m.reason = .restart ∧ m.stamp = s.nowStamp ∧ m.place = s.port.nextSerial) ∧
      (∀ m ∈ s.recorder.marks, m ∈ t.recorder.marks) ∧
      (s.recorder.writing = none → t.port.queue = [] ∧
        t.port.startDiscards = addCount s.port.startDiscards s.port.queue.length) ∧
      (∀ u, s.recorder.writing = some u → t.port.queue = s.port.queue.take 1 ∧
        t.port.startDiscards = addCount s.port.startDiscards (s.port.queue.length - 1)) ∧
      t.recorder.writing = s.recorder.writing ∧ t.port.framing = s.port.framing ∧ t.port.expected = none ∧
      t.port.channels = none ∧ t.port.audioRef = none ∧ t.port.overrun = none ∧
      t.port.inputDrops = s.port.inputDrops ∧ t.port.framingErrors = s.port.framingErrors ∧
      t.port.damaged = s.port.damaged ∧ t.segments.cueDrops = s.segments.cueDrops ∧
      t.reception.state = .normal ∧ t.reception.grace = true ∧ t.segments.pending = [] ∧ t.segments.programme = none ∧
      t.segments.current.segmentId = 0 ∧ t.loudness = LoudnessUnit.reset ∧
      t.captions = { CaptionChecker.reset with lateCount := s.captions.lateCount } ∧
      t.peers = { PeerMonitor.reset with overflow := s.peers.overflow } ∧
      t.link.queue = [] ∧ t.link.transmitter = .idle ∧ t.link.period = .alert ∧ t.link.unsent = [] ∧
      t.link.noticeDrops = s.link.noticeDrops ∧ t.link.crcErrors = s.link.crcErrors ∧
      t.time.shelf = s.time.shelf ∧ t.time.localCount = s.time.localCount ∧ t.time.history = s.time.history ∧
      (s.time.source ≠ .peer → t.time = s.time) ∧
      (∀ n, s.time.source = .peer → s.time.followed = some n → t.time.source = .free ∧ t.time.followed = none)

/-! ### Evidence port -/

/-- READ_SUMMARY (R183): the 66 response bytes in their order; at its commit point each of the ten counts goes down by the
value reported and nothing else changes; aborted before it, it reduces no count. -/
def Obligations.ReadSummary : Prop :=
  ∀ s : State, s.evidence.txn = none →
    let counts := [s.port.inputDrops, s.port.startDiscards, s.port.framingErrors, s.port.damaged, s.captions.lateCount,
      s.segments.cueDrops, s.link.noticeDrops, s.link.crcErrors, s.log.overflow, s.peers.overflow]
    let r : List Byte :=
      [match s.startup.station with
        | .loading => 1 | .checking => 2 | .listening => 3 | .running => 4 | .listenOnly => 5 | .fault => 6,
       BitVec.ofNat 8 s.startup.config.stationNumber] ++
      stampBytes ⟨s.time.shelf, s.time.source, s.time.correcting⟩ ++
      [match s.link.period with | .alert => 1 | .steady => 2 | .quiet => 3,
       match s.reception.state with | .normal => 1 | .impaired => 2,
       BitVec.ofNat 8 s.reception.effective] ++
      beBytes 2 s.recorder.pinnedTotal ++
      [BitVec.ofNat 8 (s.recorder.slots.filter (fun x => x.hold.isNone)).length,
       BitVec.ofNat 8 ((if s.startup.configClamped then 1 else 0) + (if s.startup.defaultsInUse then 2 else 0)
        + (if s.startup.listenOnlyMark then 4 else 0)),
       BitVec.ofNat 8 s.startup.checkResult,
       BitVec.ofNat 8 s.log.records.length,
       BitVec.ofNat 8 (s.log.records.filter (fun x => x.isOpen)).length,
       if s.log.full then 1 else 0] ++
      beBytes 2 s.log.ackPoint ++ beBytes 2 s.log.nextNumber ++ (counts.map (beBytes 4)).flatten
    exec .readSummary s = .next (s.setEvidence { s.evidence with txn := some ⟨r, 0, .summary counts⟩ }) ∧ r.length = 66 ∧
    ∀ u : State, u.evidence.txn = some ⟨r, 0, .summary counts⟩ →
      (∃ v, exec .readingRequestCommit u = .next v ∧
        v.evidence = { u.evidence with txn := some ⟨r, 0, .nothing⟩ } ∧
        v.port = { u.port with
          inputDrops := u.port.inputDrops - s.port.inputDrops
          startDiscards := u.port.startDiscards - s.port.startDiscards
          framingErrors := u.port.framingErrors - s.port.framingErrors
          damaged := u.port.damaged - s.port.damaged } ∧
        v.captions = { u.captions with lateCount := u.captions.lateCount - s.captions.lateCount } ∧
        v.segments = { u.segments with cueDrops := u.segments.cueDrops - s.segments.cueDrops } ∧
        v.link = { u.link with
          noticeDrops := u.link.noticeDrops - s.link.noticeDrops
          crcErrors := u.link.crcErrors - s.link.crcErrors } ∧
        v.log = { u.log with overflow := u.log.overflow - s.log.overflow } ∧
        v.peers = { u.peers with overflow := u.peers.overflow - s.peers.overflow } ∧
        v.pending = u.pending ∧ v.startup = u.startup ∧ v.reception = u.reception ∧ v.time = u.time ∧
        v.loudness = u.loudness ∧ v.verdicts = u.verdicts ∧ v.recorder = u.recorder ∧ v.alarms = u.alarms) ∧
      exec .chipSelectRise u = .next (u.setEvidence { u.evidence with txn := none })

/-- LOG_NEXT and LOG_REWIND with their commits: the record at the cursor, or END; the cursor after the returned record,
or the oldest record. A commit once made is not made again. A record stored takes up a cursor at the end; a record
discarded for it moves a cursor that named it to the next record; any other cursor stays (R184). -/
def Obligations.LogCursor : Prop :=
  (∀ s : State, s.evidence.txn = none →
    (∀ n r, s.evidence.logCursor = some n → s.log.records.find? (fun x => x.serial == n) = some r →
      exec .logNext s = .next (s.setEvidence { s.evidence with
        txn := some ⟨0x00 :: recordBytesOf r, 0, .logAfter r.serial⟩ })) ∧
    (s.evidence.logCursor = none →
      exec .logNext s = .next (s.setEvidence { s.evidence with
        txn := some ⟨0x01 :: List.replicate 37 0, 0, .nothing⟩ })) ∧
    exec .logRewind s = .next (s.setEvidence { s.evidence with txn := some ⟨[0x00], 0, .logOldest⟩ }) ∧
    (∀ response n, exec .readingRequestCommit (s.setEvidence { s.evidence with txn := some ⟨response, 0, .logAfter n⟩ })
      = .next (s.setEvidence { s.evidence with
          txn := some ⟨response, 0, .nothing⟩
          logCursor := (s.log.records.find? (fun x => n < x.serial)).map (fun x => x.serial) })) ∧
    (∀ response, exec .readingRequestCommit (s.setEvidence { s.evidence with txn := some ⟨response, 0, .logOldest⟩ })
      = .next (s.setEvidence { s.evidence with
          txn := some ⟨response, 0, .nothing⟩, logCursor := s.log.records.head?.map (fun x => x.serial) })) ∧
    (∀ response, exec .readingRequestCommit (s.setEvidence { s.evidence with txn := some ⟨response, 0, .nothing⟩ })
      = .next (s.setEvidence { s.evidence with txn := some ⟨response, 0, .nothing⟩ }))) ∧
  (∀ (s : State) (r : BreachRecord),
    let t := (s.storeRecord r).1
    (s.log.records.length < 128 →
      (s.evidence.logCursor = none → t.evidence = { s.evidence with logCursor := some s.log.nextSerial }) ∧
      (s.evidence.logCursor ≠ none → t.evidence = s.evidence)) ∧
    (∀ older x newer, s.log.records.length = 128 → s.log.records = older ++ x :: newer →
      s.log.records.Pairwise (fun a b => a.serial < b.serial) → s.log.discardable = some x →
      (s.evidence.logCursor = none → t.evidence = { s.evidence with logCursor := some s.log.nextSerial }) ∧
      (s.evidence.logCursor = some x.serial → t.evidence = { s.evidence with
        logCursor := some ((newer.head?.map (fun y => y.serial)).getD s.log.nextSerial) }) ∧
      (∀ n, s.evidence.logCursor = some n → n ≠ x.serial → t.evidence = s.evidence)) ∧
    (s.log.records.length = 128 → s.log.discardable = none → t.evidence = s.evidence))

/-- The 37 bytes of a breach record, field by field at the places R184 gives. -/
def Obligations.RecordLayout : Prop :=
  ∀ r : BreachRecord, r.number < 65536 → r.startStamp.time ≤ shelfMax →
    let b := recordBytesOf r
    b.length = 37 ∧ natAt b 0 2 = r.number ∧ natAt b 2 1 = r.category.code ∧
    (byteAt b 3).getLsbD 0 = r.isOpen ∧ (byteAt b 3).getLsbD 1 = r.acked ∧
    (byteAt b 3).getLsbD 2 = r.endStamp.isSome ∧ (byteAt b 3).getLsbD 3 = r.figure.isSome ∧
    (byteAt b 3).getLsbD 4 = r.hold.isSome ∧ (byteAt b 3).toNat < 32 ∧
    (byteAt b 4).getLsbD 0 = r.flags.impaired ∧ (byteAt b 4).getLsbD 1 = r.flags.proxy ∧
    (byteAt b 4).getLsbD 2 = r.flags.prerollShort ∧ (byteAt b 4).getLsbD 3 = r.flags.holdTruncated ∧
    (byteAt b 4).getLsbD 4 = r.flags.holdEvicted ∧ (byteAt b 4).getLsbD 5 = r.flags.peerLost ∧
    (byteAt b 4).getLsbD 6 = r.flags.restartCut ∧
    (r.origin = .own → natAt b 5 3 = 0) ∧
    (∀ station number, r.origin = .peer station number → number < 65536 → byteAt b 5 = station ∧ natAt b 6 2 = number) ∧
    natAt b 8 4 = r.segmentId.toNat ∧ natAt b 12 1 = r.cls.code ∧ natAt b 13 1 = r.scope.code ∧
    readStamp? b 14 = some r.startStamp ∧
    (r.endStamp = none → natAt b 23 9 = 0) ∧
    (∀ e, r.endStamp = some e → e.time ≤ shelfMax → readStamp? b 23 = some e) ∧
    (r.figure = none → natAt b 32 4 = 0) ∧
    (∀ x : Int, r.figure = some x → 0 ≤ x → x < 2 ^ 32 → natAt b 32 4 = x.toNat) ∧
    (∀ x : Int, r.figure = some x → -2 ^ 31 ≤ x → x < 2 ^ 31 → intAt b 32 4 = x) ∧
    (r.hold = none → byteAt b 36 = 0xFF) ∧
    (∀ h, r.hold = some h → h.slot < 32 → (byteAt b 36).toNat = h.slot)

/-- VERDICT_NEXT and VERDICT_REWIND with their commits, over the verdict history as the log's over the log. A verdict
issued enters the history, the seventeenth pushing the oldest out, and the cursor follows as the log's does. The 42
bytes of a verdict, field by field at the places R185 gives. That VERDICT_REWIND answers 0x00 is log 53's reading. -/
def Obligations.VerdictCursor : Prop :=
  (∀ s : State, s.evidence.txn = none →
    (∀ n v, s.evidence.verdictCursor = some n → s.verdicts.history.find? (fun x => x.serial == n) = some v →
      exec .verdictNext s = .next (s.setEvidence { s.evidence with
        txn := some ⟨0x00 :: verdictBytesOf v, 0, .verdictAfter v.serial⟩ }) ∧ (verdictBytesOf v).length = 42) ∧
    (s.evidence.verdictCursor = none →
      exec .verdictNext s = .next (s.setEvidence { s.evidence with
        txn := some ⟨0x01 :: List.replicate 42 0, 0, .nothing⟩ })) ∧
    exec .verdictRewind s = .next (s.setEvidence { s.evidence with txn := some ⟨[0x00], 0, .verdictOldest⟩ }) ∧
    (∀ response n,
      exec .readingRequestCommit (s.setEvidence { s.evidence with txn := some ⟨response, 0, .verdictAfter n⟩ })
      = .next (s.setEvidence { s.evidence with
          txn := some ⟨response, 0, .nothing⟩
          verdictCursor := (s.verdicts.history.find? (fun x => n < x.serial)).map (fun x => x.serial) })) ∧
    (∀ response,
      exec .readingRequestCommit (s.setEvidence { s.evidence with txn := some ⟨response, 0, .verdictOldest⟩ })
      = .next (s.setEvidence { s.evidence with
          txn := some ⟨response, 0, .nothing⟩, verdictCursor := s.verdicts.history.head?.map (fun x => x.serial) }))) ∧
  (∀ (s : State) (v : Verdict),
    let history := newest 16 (s.verdicts.history ++ [{ v with serial := s.verdicts.nextSerial }])
    let t := s.issue v
    t.verdicts = ⟨history, s.verdicts.nextSerial + 1⟩ ∧
    (s.evidence.verdictCursor = none → t.evidence = { s.evidence with verdictCursor := some s.verdicts.nextSerial }) ∧
    (∀ n, s.evidence.verdictCursor = some n → (∃ x ∈ history, x.serial = n) → t.evidence = s.evidence) ∧
    (∀ n, s.evidence.verdictCursor = some n → (∀ x ∈ history, x.serial ≠ n) →
      t.evidence = { s.evidence with verdictCursor := history.head?.map (fun x => x.serial) })) ∧
  (∀ v : Verdict, v.startStamp.time ≤ shelfMax → v.endStamp.time ≤ shelfMax →
    let b := verdictBytesOf v
    let loudness := fun (at_ : Nat) (x : Option Int) => (x = none → intAt b at_ 2 = -32768) ∧
      (∀ i, x = some i → -32768 ≤ i → i ≤ 32767 → intAt b at_ 2 = i)
    b.length = 42 ∧ natAt b 0 1 = (match v.kind with | .segment => 1 | .programme => 2) ∧ natAt b 1 4 = v.id.toNat ∧
    natAt b 5 1 = v.cls.code ∧ natAt b 6 1 = v.scope.code ∧ readStamp? b 7 = some v.startStamp ∧
    readStamp? b 16 = some v.endStamp ∧ loudness 25 v.figures.integrated ∧ loudness 27 v.figures.maxMomentary ∧
    loudness 29 v.figures.maxShortTerm ∧ loudness 31 (some v.figures.maxPeak) ∧
    (v.figures.offered < 2 ^ 32 → natAt b 33 4 = v.figures.offered) ∧
    (v.coverage = none → natAt b 37 2 = 65535) ∧ (∀ c, v.coverage = some c → c ≤ 1000 → natAt b 37 2 = c) ∧
    natAt b 39 1 = (match v.source with | .own => 1 | .proxy _ => 2 | .unmeasured => 3) ∧
    natAt b 40 1 = (if v.impaired then 1 else 0) ∧
    byteAt b 41 = (match v.source with | .own => 0 | .proxy station => station | .unmeasured => 0))

/-- HOLD_LIST answers the 32 slots' entries, slot 0 first, each of 24 bytes laid out as R186 says. HOLD_PLACE answers
the slot or REFUSED, as the Recorder answers a CONTROLLER placement, and REFUSED with no effect for microseconds above
999,999 or a `to` before `from`. HOLD_RELEASE answers OK, the slot freed and its tenure kept, or NOT_HELD; the hold's
pages lose its pin, the pages that reach 0 leave the pinned-page total, a sympathetic link is cleared, and no
HOLD_EVICTED is set. -/
def Obligations.HoldRequests : Prop :=
  (∀ s : State, s.evidence.txn = none →
    (exec .holdList s = .next (s.setEvidence { s.evidence with
        txn := some ⟨(s.recorder.slots.map holdEntryBytes).flatten, 0, .nothing⟩ }) ∧
      (s.recorder.slots.length = 32 → (s.recorder.slots.map holdEntryBytes).flatten.length = 768)) ∧
    (∀ a b c d : Word32, (999999 < b.toNat ∨ 999999 < d.toNat ∨
        (b.toNat ≤ 999999 ∧ d.toNat ≤ 999999 ∧ c.toNat * 1000000 + d.toNat < a.toNat * 1000000 + b.toNat)) →
      exec (.holdPlace a b c d) s = .next (s.setEvidence { s.evidence with txn := some ⟨[0xFF], 0, .nothing⟩ })) ∧
    (∀ a b c d : Word32, b.toNat ≤ 999999 → d.toNat ≤ 999999 →
      let placed := s.placeHold .controller (a.toNat * 1000000 + b.toNat) (some (c.toNat * 1000000 + d.toNat)) none
      exec (.holdPlace a b c d) s = .next (placed.1.setEvidence { placed.1.evidence with
        txn := some ⟨[match placed.2 with | some ref => BitVec.ofNat 8 ref.slot | none => 0xFF], 0, .nothing⟩ })) ∧
    (∀ slot : Byte, (s.recorder.hold? slot.toNat = none →
        exec (.holdRelease slot) s = .next (s.setEvidence { s.evidence with txn := some ⟨[0x01], 0, .nothing⟩ })) ∧
      (∀ h, s.recorder.hold? slot.toNat = some h → ∃ t, exec (.holdRelease slot) s = .next t ∧
        t.evidence = { s.evidence with txn := some ⟨[0x00], 0, .nothing⟩ } ∧
        t.recorder.hold? slot.toNat = none ∧ t.recorder.tenure slot.toNat = s.recorder.tenure slot.toNat ∧
        (∀ n, n ≠ slot.toNat → t.recorder.hold? n = s.recorder.hold? n ∧ t.recorder.tenure n = s.recorder.tenure n) ∧
        (∀ n r, h.breach = some n → r ∈ t.log.records → r.number = n → r.hold = none) ∧
        t.recorder = { s.recorder with
          slots := t.recorder.slots
          pages := s.recorder.pages.map (fun q => if s.recorder.covers h q then { q with pins := q.pins - 1 } else q)
          pinnedTotal := s.recorder.pinnedTotal -
            (s.recorder.pages.filter (fun q => s.recorder.covers h q && q.pins == 1)).length } ∧
        t.log = { s.log with records := s.log.records.map (fun r =>
          if h.breach = some r.number then { r with hold := none } else r) } ∧
        t.peers = { s.peers with noted := s.peers.noted.map (fun e =>
          if h.priority = .sympathetic ∧ e.hold = some ⟨slot.toNat, s.recorder.tenure slot.toNat⟩ then
            { e with hold := none }
          else e) } ∧
        KeepsMeasured s t)) ∧
    (∀ slot : Byte, s.recorder.slots.length = 32 → 32 ≤ slot.toNat →
      exec (.holdRelease slot) s = .next (s.setEvidence { s.evidence with txn := some ⟨[0x01], 0, .nothing⟩ }))) ∧
  (∀ x : HoldSlot,
    let b := holdEntryBytes x
    b.length = 24 ∧ (x.hold = none → ∀ i, i < 24 → byteAt b i = 0) ∧
    (∀ h, x.hold = some h →
      natAt b 0 1 = (if h.isOpen then 1 else 2) ∧
      natAt b 1 1 = (match h.priority with | .sympathetic => 1 | .own => 2 | .controller => 3) ∧
      (byteAt b 2).getLsbD 0 = h.flags.prerollShort ∧ (byteAt b 2).getLsbD 1 = h.flags.truncated ∧
      (byteAt b 2).getLsbD 2 = h.flags.restartCut ∧ (byteAt b 2).getLsbD 3 = h.flags.evictedOthers ∧
      (byteAt b 2).toNat < 16 ∧ byteAt b 3 = 0 ∧
      (h.start ≤ shelfMax → natAt b 4 4 = h.start / 1000000 ∧ natAt b 8 4 = h.start % 1000000) ∧
      (h.stop = none → ∀ i, 12 ≤ i → i < 20 → byteAt b i = 0xFF) ∧
      (∀ t, h.stop = some t → t ≤ shelfMax → natAt b 12 4 = t / 1000000 ∧ natAt b 16 4 = t % 1000000) ∧
      (h.pinned < 65536 → natAt b 20 2 = h.pinned) ∧
      (h.breach = none → natAt b 22 2 = 0) ∧ (∀ n, h.breach = some n → n < 65536 → natAt b 22 2 = n)))

/-- UNIT_SEEK and UNIT_READ with their commits: NOT_HELD, OK, NO_CURSOR, RELEASED, UNIT, WAIT and END. What the
Recorder answers (R118): over the units of the hold's pages in sequence order, the first whose stamp is at or after
the time, or the position after the last unit (in a hold of no page, the start of its first page); and the unit at a
position. The 24 bytes before a unit's bytes and the 16 bytes of a MARK unit (R187). -/
def Obligations.UnitRequests : Prop :=
  (∀ s : State, s.evidence.txn = none →
    let reply := fun (response : List Byte) (e : CommitEffect) =>
      s.setEvidence { s.evidence with txn := some ⟨response, 0, e⟩ }
    (∀ (slot : Byte) (a b : Word32), (s.recorder.hold? slot.toNat = none ∨ 999999 < b.toNat) →
      exec (.unitSeek slot a b) s = .next (reply [0x01] .nothing)) ∧
    (∀ (slot : Byte) (a b : Word32) h, s.recorder.hold? slot.toNat = some h → b.toNat ≤ 999999 →
      let time := a.toNat * 1000000 + b.toNat
      let cursor : UnitCursor := ⟨slot.toNat, s.recorder.tenure slot.toNat, s.recorder.seekPosition h time⟩
      exec (.unitSeek slot a b) s = .next (reply [0x00] (.seek cursor time)) ∧
      exec .readingRequestCommit (reply [0x00] (.seek cursor time))
        = .next (s.setEvidence { s.evidence with txn := some ⟨[0x00], 0, .nothing⟩, unitCursor := some cursor })) ∧
    (s.evidence.unitCursor = none → exec .unitRead s = .next (reply [0x04] .nothing)) ∧
    (∀ c, s.evidence.unitCursor = some c →
      (s.recorder.hold? c.slot = none ∨ s.recorder.tenure c.slot ≠ c.tenure →
        exec .unitRead s = .next (reply [0x03] .nothing)) ∧
      (∀ h, s.recorder.hold? c.slot = some h → s.recorder.tenure c.slot = c.tenure →
        (s.recorder.unitAt h c.position = none →
          exec .unitRead s = .next (reply [if h.isOpen then 0x02 else 0x01] .nothing)) ∧
        (∀ p u, s.recorder.unitAt h c.position = some (p, u) →
          exec .unitRead s = .next (reply (0x00 :: unitBytesOf u) (.position ⟨p.seq, p.number + 1⟩)) ∧
          (unitBytesOf u).length = 24 + u.bytes.length ∧
          exec .readingRequestCommit (reply (0x00 :: unitBytesOf u) (.position ⟨p.seq, p.number + 1⟩))
            = .next (s.setEvidence { s.evidence with
                txn := some ⟨0x00 :: unitBytesOf u, 0, .nothing⟩
                unitCursor := some { c with position := ⟨p.seq, p.number + 1⟩ } }))))) ∧
  (∀ (r : Recorder) (h : Hold), ∃ pages : List Page,
    pages.Perm (r.pages.filter (fun p => r.covers h p)) ∧ pages.Pairwise (fun p q => p.seq ≤ q.seq) ∧
    let units := (pages.map (fun p => p.units.mapIdx (fun k u => ((⟨p.seq, k⟩ : ReadPosition), u)))).flatten
    let last : ReadPosition := match pages.getLast? with | none => ⟨h.first, 0⟩ | some p => ⟨p.seq, p.units.length⟩
    let reaches := fun (a b : ReadPosition) => b.seq < a.seq ∨ (a.seq = b.seq ∧ b.number ≤ a.number)
    (∀ time before x after, units = before ++ x :: after → (∀ y ∈ before, y.2.arrival.time < time) →
      time ≤ x.2.arrival.time → r.seekPosition h time = x.1) ∧
    (∀ time, (∀ y ∈ units, y.2.arrival.time < time) → r.seekPosition h time = last) ∧
    (∀ at_ before x after, units = before ++ x :: after → (∀ y ∈ before, ¬ reaches y.1 at_) → reaches x.1 at_ →
      r.unitAt h at_ = some x) ∧
    (∀ at_, (∀ y ∈ units, ¬ reaches y.1 at_) → r.unitAt h at_ = none)) ∧
  (
    let stampIn := fun (b : List Byte) (i : Nat) (x : Stamp) => x.time ≤ shelfMax →
      natAt b i 4 = x.time / 1000000 ∧ natAt b (i + 4) 4 = x.time % 1000000 ∧ natAt b (i + 8) 1 =
        (match x.cls with | .locked => 1 | .holdover => 2 | .peer => 3 | .free => 4) + (if x.correcting then 128 else 0)
    (∀ u : RecordedUnit,
      let b := unitBytesOf u
      b.length = 24 + u.bytes.length ∧
      natAt b 0 1 = (match u.kind with | .payload => 1 | .caption => 2 | .cue => 3 | .mark => 4) ∧
      natAt b 1 1 = (if u.damaged then 1 else 0) ∧ stampIn b 2 u.arrival ∧ natAt b 11 5 = u.mediaTime.toNat ∧
      (u.bytes.length < 65536 → natAt b 16 2 = u.bytes.length) ∧ natAt b 18 6 = 0 ∧ b.drop 24 = u.bytes) ∧
    (∀ m : MarkRequest,
      let b := markBytes m
      b.length = 16 ∧ natAt b 0 1 = (match m.reason with | .discontinuity => 1 | .timeStep => 2 | .restart => 3) ∧
      (m.stepMs < 2 ^ 32 → natAt b 1 4 = m.stepMs) ∧ (m.before = none → natAt b 5 9 = 0) ∧
      (∀ x, m.before = some x → stampIn b 5 x) ∧ natAt b 14 2 = 0))

/-- A request code not in the table gets 0xFF and has no other effect; a rise of chip select ends the transaction and
changes nothing else. While a transaction is in progress no other request is served (log 30), and a commit with none in
progress changes nothing (log 1). The codes and argument bytes of the requests, most significant bit and byte first;
data out: the turnaround byte, the response, then the fill (R181, R182). -/
def Obligations.Transactions : Prop :=
  (∀ s : State,
    (∀ code : Byte, s.evidence.txn = none →
      exec (.unknownRequest code) s = .next (s.setEvidence { s.evidence with txn := some ⟨[], 0xFF, .nothing⟩ })) ∧
    exec .chipSelectRise s = .next (s.setEvidence { s.evidence with txn := none }) ∧
    (s.evidence.txn = none → exec .readingRequestCommit s = .next s) ∧
    (∀ x, s.evidence.txn = some x → ∀ (code slot : Byte) (number : BitVec 16) (a b c d : Word32),
      ∀ q ∈ [Instr.readSummary, .logNext, .logRewind, .logAck number, .verdictNext, .verdictRewind, .holdList,
        .holdPlace a b c d, .holdRelease slot, .unitSeek slot a b, .unitRead, .restart, .unknownRequest code],
      exec q s = .next s)) ∧
  (∀ (rest : List Byte) (code slot : Byte) (number : BitVec 16) (a b c d : Word32),
    readRequest? [] = none ∧
    readRequest? (0x10 :: rest) = some .readSummary ∧ readRequest? (0x20 :: rest) = some .logNext ∧
    readRequest? (0x21 :: rest) = some .logRewind ∧
    readRequest? (0x22 :: (beBytes 2 number.toNat ++ rest)) = some (.logAck number) ∧
    readRequest? (0x30 :: rest) = some .verdictNext ∧ readRequest? (0x31 :: rest) = some .verdictRewind ∧
    readRequest? (0x40 :: rest) = some .holdList ∧
    readRequest? (0x41 :: (beBytes 4 a.toNat ++ beBytes 4 b.toNat ++ beBytes 4 c.toNat ++ beBytes 4 d.toNat ++ rest))
      = some (.holdPlace a b c d) ∧
    readRequest? (0x42 :: slot :: rest) = some (.holdRelease slot) ∧
    readRequest? (0x50 :: slot :: (beBytes 4 a.toNat ++ beBytes 4 b.toNat ++ rest)) = some (.unitSeek slot a b) ∧
    readRequest? (0x51 :: rest) = some .unitRead ∧ readRequest? (0x7E :: rest) = some .restart ∧
    (code ∉ ([0x10, 0x20, 0x21, 0x22, 0x30, 0x31, 0x40, 0x41, 0x42, 0x50, 0x51, 0x7E] : List Byte) →
      readRequest? (code :: rest) = some (.unknownRequest code)) ∧
    (rest.length < 2 → readRequest? (0x22 :: rest) = none) ∧ (rest.length < 16 → readRequest? (0x41 :: rest) = none) ∧
    readRequest? [0x42] = none ∧ (rest.length < 9 → readRequest? (0x50 :: rest) = none)) ∧
  (∀ (b : Byte) (bits : List Bool),
    bytesOfBits ((List.range 8).map (fun k => b.getLsbD (7 - k)) ++ bits) = b :: bytesOfBits bits ∧
    (bits.length < 8 → bytesOfBits bits = [])) ∧
  (∀ (x : Transaction) (n : Nat), x.dataOut 0 = 0x00 ∧
    (∀ b, x.response[n]? = some b → x.dataOut (n + 1) = b) ∧
    (x.response.length ≤ n → x.dataOut (n + 1) = x.fill) ∧
    (∀ k, k < 8 → x.dataOutBit (8 * n + k) = (x.dataOut n).getLsbD (7 - k)))

/-! ### Breach Log and alarm lines -/

/-- LOG_ACK at its commit point (R174): the record with the number and every older one is acknowledged, the acknowledge
point becomes the number and LOG_FULL ceases; with no such record nothing changes; both are answered with the point before.
The point is 0 after full reset, a new record is unacknowledged, and an OPEN one keeps a LEVEL line asserted until it closes,
and then releases it. -/
def Obligations.Acknowledge : Prop :=
  (∀ (number : BitVec 16) (s : State), s.evidence.txn = none →
    (∀ older r newer, s.log.records = older ++ r :: newer → r.number = number.toNat →
      (∀ x ∈ older, x.number ≠ number.toNat) →
      exec (.logAck number) s = .next
        ((s.setLog { s.log with
          records := older.map (fun x => { x with acked := true }) ++ { r with acked := true } :: newer
          ackPoint := number.toNat
          full := false }).setEvidence { s.evidence with txn := some ⟨beBytes 2 s.log.ackPoint, 0, .nothing⟩ })) ∧
    ((∀ x ∈ s.log.records, x.number ≠ number.toNat) →
      exec (.logAck number) s = .next
        (s.setEvidence { s.evidence with txn := some ⟨beBytes 2 s.log.ackPoint, 0, .nothing⟩ }))) ∧
  (∀ s : State, ∃ t, exec .fullReset s = .next t ∧ t.log.ackPoint = 0) ∧
  (∀ (s : State) (q : BreachRequest) (number : Nat), (s.recordOf q number).acked = false) ∧
  (∀ (s : State) (i : Nat) (r : BreachRecord), i < 4 → s.startup.station ≠ .loading → (s.config.line i).pulse = false →
    (s.config.line i).mask.getLsbD (r.category.code - 1) = true → r ∈ s.log.records → r.isOpen = true →
    s.lineAsserted i = true) ∧
  (∀ (s : State) (i : Nat), i < 4 → s.startup.station ≠ .fault → (s.config.line i).pulse = false →
    (s.config.line i).logFull = false → (∀ r ∈ s.log.records,
      (s.config.line i).mask.getLsbD (r.category.code - 1) = true → r.isOpen = false ∧ r.acked = true) →
    s.lineAsserted i = false)

/-- The LEVEL lines (R177): asserted exactly while a watched record is OPEN or unacknowledged, or LOG_FULL stands and is
included, or the station is in FAULT. Until the end of LOADING every line is released (R176). -/
def Obligations.LevelLines : Prop :=
  ∀ (s : State) (i : Nat), i < 4 →
    (s.startup.station ≠ .loading → (s.config.line i).pulse = false →
      (s.lineAsserted i = true ↔
        (∃ r ∈ s.log.records, (s.config.line i).mask.getLsbD (r.category.code - 1) = true ∧
          (r.isOpen = true ∨ r.acked = false)) ∨
        ((s.config.line i).logFull = true ∧ s.log.full = true) ∨ s.startup.station = .fault)) ∧
    (s.startup.station = .loading → s.lineDrivenLow i = false) ∧
    (s.startup.station ≠ .loading → s.lineDrivenLow i = (s.lineAsserted i != (s.config.line i).activeHigh))

/-- The PULSE lines: a creation for a watched category, and LOG_FULL coming to stand where it is included, make the
pulse end now plus 100 ms; PULSE_END ends a pulse whose end is reached; the line is asserted while the pulse end is
present, from CHECKING on. That PULSE_END early or without a pulse changes nothing is log 1's choice. -/
def Obligations.PulseLines : Prop :=
  ∀ s : State, s.alarms.pulseEnds.length = 4 →
    (∀ (q : BreachRequest) (i : Nat), i < 4 → s.startup.station ≠ .fault → (s.config.line i).pulse = true →
      (s.config.line i).mask.getLsbD (q.category.code - 1) = true →
      (s.raise q).alarms.pulseEnds.getD i none = some (s.now + 100000)) ∧
    (∀ line : BitVec 2, (∀ e, s.alarms.pulseEnds.getD line.toNat none = some e → e ≤ s.now → ∃ t,
        exec (.pulseEnd line) s = .next t ∧ t.alarms.pulseEnds.getD line.toNat none = none ∧
        (∀ i, i ≠ line.toNat → t.alarms.pulseEnds.getD i none = s.alarms.pulseEnds.getD i none) ∧
        t = s.setAlarms t.alarms) ∧
      (s.alarms.pulseEnds.getD line.toNat none = none → exec (.pulseEnd line) s = .next s) ∧
      (∀ e, s.alarms.pulseEnds.getD line.toNat none = some e → s.now < e → exec (.pulseEnd line) s = .next s)) ∧
    (∀ i, i < 4 → (s.config.line i).pulse = true → (s.live = true ∨ s.startup.station = .checking) →
      (s.lineAsserted i = true ↔ ∃ e, s.alarms.pulseEnds.getD i none = some e)) ∧
    (∀ (r : BreachRecord) (i : Nat), s.log.records.length = 128 → (∀ y ∈ s.log.records, y.isOpen = true ∨ y.hold ≠ none) →
      i < 4 → s.startup.station ≠ .fault →
      (s.log.full = false → (s.config.line i).pulse = true → (s.config.line i).logFull = true →
        (s.storeRecord r).1.alarms.pulseEnds.getD i none = some (s.now + 100000)) ∧
      ((s.log.full = true ∨ (s.config.line i).pulse = false ∨ (s.config.line i).logFull = false) →
        (s.storeRecord r).1.alarms.pulseEnds.getD i none = s.alarms.pulseEnds.getD i none))

/-- A creation request in a log with room: the records before stand in their order, the new record is the next, under a
number that no record and no open cause carried, OPEN exactly when the request names no end, unacknowledged, with the
fields the request names. Another record changes only where its hold is evicted for the new one's: it loses the hold and
is flagged HOLD_EVICTED. Behind the new record stands nothing, or the one HOLD_REFUSED record of its refused OWN hold.
The next breach number is the one after the last drawn. After the hold the BREACH notice of a shared category is
offered, and then a creation of origin OWN is an upshift event, as the HOLD_REFUSED record's is before. The measuring
blocks, the time and the configuration are as before. -/
def Obligations.CreationStoresRecord : Prop :=
  ∀ (s : State) (q : BreachRequest), s.log.records.length < 127 → s.log.causes.length ≤ 10 →
    1 ≤ s.log.nextNumber → s.log.nextNumber < 65536 →
    ∃ t n r older newer, s.createBreach q = (t, some n) ∧ t.log.records = older ++ r :: newer ∧ r.number = n ∧
      r.serial = s.log.nextSerial ∧
      List.Forall₂ (fun a b : BreachRecord =>
        b = a ∨ b = { a with hold := none, flags := { a.flags with holdEvicted := true } }) s.log.records older ∧
      (q.category.retains = false ∨ q.origin ≠ .own → older = s.log.records ∧ newer = [] ∧ r.hold = none) ∧
      (q.category.retains = true → q.origin = .own →
        (newer = [] ∧ ∃ ref, r.hold = some ref) ∨
        (older = s.log.records ∧ r.hold = none ∧ ∃ x, newer = [x] ∧ x.category = .holdRefused ∧ x.origin = .own ∧
          x.startStamp = s.nowStamp ∧ x.endStamp = some s.nowStamp ∧ x.figure = some (n : Int))) ∧
      (∀ x ∈ s.log.records, x.number ≠ n) ∧ (∀ c ∈ s.log.causes, c.number ≠ n) ∧
      r.category = q.category ∧ r.origin = q.origin ∧ r.startStamp = q.startStamp ∧ r.endStamp = q.endStamp ∧
      r.figure = q.figure ∧ r.isOpen = q.endStamp.isNone ∧ r.acked = false ∧
      r.flags.impaired = q.impaired ∧ r.flags.proxy = q.proxy ∧
      (q.segment = none → r.segmentId = s.segments.current.segmentId ∧ r.cls = s.segments.current.cls ∧
        r.scope = s.segments.current.scope) ∧
      (∀ g, q.segment = some g → r.segmentId = g.id ∧ r.cls = g.cls ∧ r.scope = g.scope) ∧
      (q.category.hasCause = true → q.endStamp = none → ∃ c ∈ t.log.causes, c.category = q.category ∧ c.number = n) ∧
      KeepsMeasured s t ∧
      t.log.nextNumber = numberAfter (match newer.head? with | none => n | some x => x.number) ∧
      (let segment := match q.segment with
        | none => (s.segments.current.segmentId, s.segments.current.scope)
        | some g => (g.id, g.scope)
      ∃ u : State, u.log = t.log ∧ KeepsMeasured s u ∧ (newer = [] → u.link = s.link) ∧
        (newer ≠ [] → ∃ w : State, w.link = s.link ∧ w.log = t.log ∧ KeepsMeasured s w ∧ u = w.upshift) ∧
        let offered := if q.category.shared then u.offer (.breach ⟨n, q.category, ⟨q.impaired, q.proxy⟩, segment.1, segment.2,
          q.startStamp, q.endStamp, if q.endStamp.isSome then q.figure else none⟩) [] else u
        (q.origin = .own → t = offered.upshift) ∧ (∀ station number, q.origin = .peer station number → t = offered))

/-- The number a creation draws (R168): the first from the next breach number on, 65,535 being followed by 1, that neither a
record nor an open cause carries. -/
def Obligations.BreachNumbers : Prop :=
  ∀ l : BreachLog, 1 ≤ l.nextNumber → l.nextNumber ≤ 65535 → l.records.length ≤ 128 → l.causes.length ≤ 10 →
    l.carries l.drawn = false ∧ 1 ≤ l.drawn ∧ l.drawn ≤ 65535 ∧
    (l.carries l.nextNumber = false → l.drawn = l.nextNumber) ∧
    (∃ k, k ≤ 138 ∧ l.drawn = numberAfter^[k] l.nextNumber ∧ ∀ j, j < k → l.carries (numberAfter^[j] l.nextNumber) = true) ∧
    numberAfter 65535 = 1 ∧ (∀ n, n < 65535 → numberAfter n = n + 1)

/-- Storing in a full log (R172): the oldest CLOSED, acknowledged and unheld record makes room, else the oldest CLOSED and
unheld one, and LOG_FULL ceases; with neither, the record is not stored, the overflow count rises and LOG_FULL stands. -/
def Obligations.FullLog : Prop :=
  ∀ (s : State) (r : BreachRecord), s.log.records.length = 128 →
    (s.log.records.map (fun x => x.serial)).Nodup →
    (∀ older x newer, s.log.records = older ++ x :: newer →
      ((x.isOpen = false ∧ x.acked = true ∧ x.hold = none ∧
          (∀ y ∈ older, ¬ (y.isOpen = false ∧ y.acked = true ∧ y.hold = none))) ∨
        (x.isOpen = false ∧ x.hold = none ∧ (∀ y ∈ older, ¬ (y.isOpen = false ∧ y.hold = none)) ∧
          (∀ y ∈ s.log.records, ¬ (y.isOpen = false ∧ y.acked = true ∧ y.hold = none)))) →
      (s.storeRecord r).2 = true ∧
      (s.storeRecord r).1.log.records = older ++ newer ++ [{ r with serial := s.log.nextSerial }] ∧
      (s.storeRecord r).1.log.full = false ∧ (s.storeRecord r).1.log.overflow = s.log.overflow) ∧
    ((∀ y ∈ s.log.records, y.isOpen = true ∨ y.hold ≠ none) →
      (s.storeRecord r).2 = false ∧ (s.storeRecord r).1.log.records = s.log.records ∧
      (s.storeRecord r).1.log.full = true ∧ (s.storeRecord r).1.log.overflow = addCount s.log.overflow 1)

/-- A close request (R170): ignored where the category has no open cause. Else the cause's record, if it was stored, takes its
end, figure and flag and is CLOSED; the hold the row names is sent the set end; the closing BREACH notice of a shared category
is offered, with the flags of the record as it now stands, or of the row where there is no record; the row becomes empty.
Every other record is as before. -/
def Obligations.CloseRequest : Prop :=
  ∀ (s : State) (category : Category) (stop : Stamp) (figure : Option Int) (impaired : Bool),
    ((∀ c ∈ s.log.causes, c.category ≠ category) → s.closeBreach category stop figure impaired = s) ∧
    (∀ c, s.log.causes.find? (fun y => y.category == category) = some c →
      let t := s.closeBreach category stop figure impaired
      let record := s.log.records.find? (fun r => r.number == c.number)
      let flags : NoticeFlags := match (if c.stored then record else none) with
        | some r => ⟨r.flags.impaired || impaired, r.flags.proxy⟩
        | none => ⟨c.flags.impaired || impaired, c.flags.proxy⟩
      (∀ y ∈ t.log.causes, y.category ≠ category) ∧
      (∀ y ∈ s.log.causes, y.category ≠ category → y ∈ t.log.causes) ∧
      (c.stored = true → t.log.records = s.log.records.map (fun r =>
        if r.number = c.number then
          { r with endStamp := some stop, figure := figure, isOpen := false
                   flags := { r.flags with impaired := r.flags.impaired || impaired } }
        else r)) ∧
      (c.stored = false → t.log.records = s.log.records) ∧
      (c.hold = none → t.recorder = s.recorder) ∧
      (∀ ref, c.hold = some ref → t.recorder = (s.setEnd ref stop.time).recorder) ∧
      (category.shared = true → t.link = (s.offer (.breach ⟨c.number, category, flags, c.segmentId, c.scope, c.startStamp,
        some stop, figure⟩) []).link) ∧
      (category.shared = false → t.link = s.link) ∧ t.alarms = s.alarms ∧ t.evidence = s.evidence ∧ KeepsMeasured s t)

/-! ### Media Port -/

/-- The framing check (R2): for a header found where the port expects it, or behind bytes that hold no delimiter
while hunting, a kind code or length outside the table is one framing error, after which the port is framed if the
length is at most 16,384 and hunting otherwise, and nothing else changes; a header that passes is no framing error
and leaves it framed. Two bytes that are not the delimiter are one framing error and start a hunt with the second of
them. That the hunt behind a header stating more than 16,384 begins with the byte after its sixteen is log 42's
choice. -/
def Obligations.FramingCheck : Prop :=
  ∀ s : State, s.atHeader = true →
    (∀ bytes h : List Byte, h.length = 16 → byteAt h 0 = 0xB4 → byteAt h 1 = 0x4B →
      ((s.port.framing = .framed ∧ bytes = h) ∨
        (s.port.framing = .hunting ∧ ∃ junk : List Byte, s.port.huntByte.toList ++ bytes = junk ++ h ∧
          ∀ i, i < junk.length → ¬ (byteAt (junk ++ h) i = 0xB4 ∧ byteAt (junk ++ h) (i + 1) = 0x4B))) →
      let code := (byteAt h 2).toNat
      let n := natAt h 4 2
      let permitted := (code = 1 ∧ 7 ≤ n ∧ n ≤ 34564) ∨ (code = 2 ∧ 1 ≤ n ∧ n ≤ 16384) ∨ (code = 3 ∧ 12 ≤ n ∧ n ≤ 268) ∨
        (code = 4 ∧ n = 16) ∨ (code = 5 ∧ n = 6) ∨ (code = 6 ∧ n = 2)
      (¬ permitted → exec (.unitHeaderComplete bytes) s = .next (s.setPort { s.port with
        huntByte := none
        framing := if n ≤ 16384 then .framed else .hunting
        framingErrors := addCount s.port.framingErrors 1 })) ∧
      (permitted → ∃ t, exec (.unitHeaderComplete bytes) s = .next t ∧ t.port.framing = .framed ∧
        t.port.framingErrors = s.port.framingErrors)) ∧
    (∀ first second : Byte, s.port.framing = .framed → ¬ (first = 0xB4 ∧ second = 0x4B) →
      exec (.missingDelimiter first second) s = .next (s.setPort { s.port with
        framing := .hunting, huntByte := some second, framingErrors := addCount s.port.framingErrors 1 }))

/-- Arrival and admission (R4, R5) of a unit whose header is found where the port expects it, or behind bytes that
hold no delimiter while hunting, and passes the framing check: it leaves the port framed; it is a start discard in
LOADING and CHECKING; in LISTENING, RUNNING and LISTEN_ONLY it is stamped and admitted while the queue holds fewer
than 64 units and its bytes fit in 262,144, and is dropped whole otherwise; in FAULT the stream is not taken. -/
def Obligations.Admission : Prop :=
  ∀ (s : State) (bytes h : List Byte) (k : UnitKind), h.length = 16 → byteAt h 0 = 0xB4 → byteAt h 1 = 0x4B →
    UnitKind.ofCode? (byteAt h 2).toNat = some k → lengthPermitted k (natAt h 4 2) = true →
    ((s.port.framing = .framed ∧ bytes = h) ∨
      (s.port.framing = .hunting ∧ ∃ junk : List Byte, s.port.huntByte.toList ++ bytes = junk ++ h ∧
        ∀ i, i < junk.length → ¬ (byteAt (junk ++ h) i = 0xB4 ∧ byteAt (junk ++ h) (i + 1) = 0x4B))) →
    (s.startup.station = .fault → exec (.unitHeaderComplete bytes) s = .next s) ∧
    (s.atHeader = true →
      ((s.startup.station = .loading ∨ s.startup.station = .checking) →
        exec (.unitHeaderComplete bytes) s = .next (s.setPort { s.port with
          huntByte := none, framing := .framed, startDiscards := addCount s.port.startDiscards 1 })) ∧
      (s.live = true → s.port.queue.length < 64 → (s.port.queue.map (fun u => u.length)).sum + natAt h 4 2 ≤ 262144 →
        exec (.unitHeaderComplete bytes) s = .next (s.setPort { s.port with
          huntByte := none
          framing := .framed
          queue := s.port.queue ++ [{ kind := k
                                      damaged := (byteAt h 3).getLsbD 0
                                      length := natAt h 4 2
                                      mediaTime := BitVec.ofNat 40 (natAt h 6 5)
                                      arrival := s.nowStamp
                                      noted := s.time.localCount
                                      serial := s.port.nextSerial
                                      payload := none }]
          nextSerial := s.port.nextSerial + 1 })) ∧
      (s.live = true →
        (64 ≤ s.port.queue.length ∨ 262144 < (s.port.queue.map (fun u => u.length)).sum + natAt h 4 2) →
        ∃ t, exec (.unitHeaderComplete bytes) s = .next t ∧ t.port.queue = s.port.queue ∧
          t.port.framing = .framed ∧ t.port.framingErrors = s.port.framingErrors ∧
          t.port.inputDrops = addCount s.port.inputDrops 1 ∧ t.port.nextSerial = s.port.nextSerial ∧
          (∀ run, s.port.overrun = some run →
            t.port.overrun = some ⟨s.nowStamp, addCount run.count 1⟩ ∧ t.log = s.log) ∧
          (s.port.overrun = none → t.port.overrun = some ⟨s.nowStamp, 1⟩ ∧
            t = (s.setPort t.port).raise { category := .inputOverrun, startStamp := s.nowStamp })))

/-- The payload check (R3): the newest queued unit keeps its place with its payload, unless the payload is malformed for its
kind; then it leaves the queue as one framing error. -/
def Obligations.PayloadCheck : Prop :=
  ∀ (s : State) (older : List QueuedUnit) (u : QueuedUnit) (p : List Byte), s.startup.station ≠ .fault →
    s.port.queue = older ++ [u] → u.payload = none → p.length = u.length →
    let malformed : Prop := match u.kind with
      | .audio =>
        ¬ ((byteAt p 0).toNat = 1 ∨ (byteAt p 0).toNat = 2 ∨ (byteAt p 0).toNat = 6) ∨
          ¬ (1 ≤ natAt p 2 2 ∧ natAt p 2 2 ≤ 1920) ∨ p.length ≠ 4 + 3 * (byteAt p 0).toNat * natAt p 2 2
      | .payload => False
      | .caption => 256 < natAt p 10 2 ∨ p.length ≠ natAt p 10 2 + 12
      | .cue => ¬ (1 ≤ (byteAt p 8).toNat ∧ (byteAt p 8).toNat ≤ 4) ∨ ¬ (1 ≤ (byteAt p 9).toNat ∧ (byteAt p 9).toNat ≤ 2)
      | .time => 999 < natAt p 4 2
      | .quality => 100 < (byteAt p 0).toNat
    (¬ malformed → exec (.payloadComplete p) s
      = .next (s.setPort { s.port with queue := older ++ [{ u with payload := some p }] })) ∧
    (malformed → exec (.payloadComplete p) s = .next (s.setPort { s.port with
      queue := older, framingErrors := addCount s.port.framingErrors 1 }))

/-- The Media Port's deadlines (R6, R12): 1 s after the last drop INPUT_OVERRUN closes with the run's count; 500 ms
after the reference AUDIO_ABSENT opens, backdated. That the commands change nothing before those moments, without a run,
or with the record already open, is log 1's choice; that a late one acts at the shelf time then current is log 2's. -/
def Obligations.MediaDeadlines : Prop :=
  ∀ s : State,
    (∀ run, s.port.overrun = some run →
      (s.startup.station ≠ .fault → run.lastDrop.time + second ≤ s.now → exec .overrunExpiry s = .next
        ((s.setPort { s.port with overrun := none }).closeBreach .inputOverrun s.nowStamp (some run.count) false)) ∧
      (s.now < run.lastDrop.time + second → exec .overrunExpiry s = .next s)) ∧
    (s.port.overrun = none → exec .overrunExpiry s = .next s) ∧
    (∀ r, s.port.audioRef = some r →
      (s.live = true → s.port.audioAbsentOpen = false → r.time + 500000 ≤ s.now → exec .audioAbsentDeadline s = .next
        ((s.setPort { s.port with audioAbsentOpen := true }).raise { category := .audioAbsent, startStamp := r })) ∧
      ((s.port.audioAbsentOpen = true ∨ s.now < r.time + 500000) → exec .audioAbsentDeadline s = .next s))

/-- Delivery of the head unit (R7, R8): it waits for its payload and for a write in progress; damaged CAPTION, CUE
and TIME units are discarded and counted, a damaged QUALITY unit is discarded; PAYLOAD, CAPTION and CUE units go to
the Recorder and keep the head of the queue until written, CAPTION and CUE units to their block as well; a QUALITY
unit sets the reported quality and the silence deadline, ends the grace and is evaluated; a TIME unit goes to the
Time Base. And the pending cue that a CUE payload spells, field by field (R3). -/
def Obligations.Delivery : Prop :=
  (∀ (s : State) (u : QueuedUnit) (rest : List QueuedUnit), s.port.queue = u :: rest → s.live = true →
    ((u.payload = none ∨ s.recorder.writing ≠ none) → exec .unitDelivery s = .next s) ∧
    (∀ p, u.payload = some p → s.recorder.writing = none →
      let popped := s.setPort { s.port with queue := rest }
      ((u.kind = .caption ∨ u.kind = .cue ∨ u.kind = .time) → u.damaged = true → exec .unitDelivery s = .next
        (s.setPort { s.port with queue := rest, damaged := addCount s.port.damaged 1 })) ∧
      (u.kind = .quality → u.damaged = true → exec .unitDelivery s = .next popped) ∧
      (u.kind = .quality → u.damaged = false → ∃ t, exec .unitDelivery s = .next t ∧ t.port = popped.port ∧
        t.reception.reported = (if (byteAt p 1).getLsbD 0 then (byteAt p 0).toNat else 0) ∧
        t.reception.silenceDeadline = some (u.arrival.time + 2 * second) ∧ t.reception.grace = false ∧
        t = (popped.setReception { s.reception with
          reported := if (byteAt p 1).getLsbD 0 then (byteAt p 0).toNat else 0
          silenceDeadline := some (u.arrival.time + 2 * second)
          grace := false }).evaluate) ∧
      (u.kind = .time → u.damaged = false → exec .unitDelivery s = .next (popped.takeTime u p)) ∧
      (u.kind = .audio → exec .unitDelivery s = .next (popped.takeAudio u p)) ∧
      ((u.kind = .payload ∨ ((u.kind = .caption ∨ u.kind = .cue) ∧ u.damaged = false)) →
        (∀ m ∈ s.recorder.marks, u.serial < m.place) → s.recorder.counter < 2 ^ 48 →
        ∃ t kind, exec .unitDelivery s = .next t ∧ t.port = s.port ∧
          t.recorder.writing = some ⟨kind, u.damaged, u.arrival, u.mediaTime, p⟩ ∧
          (u.kind = .payload → kind = .payload ∧ t.captions = s.captions ∧ t.segments = s.segments) ∧
          (u.kind = .caption → kind = .caption ∧ t.captions = s.captions.takeCaption p ∧ t.segments = s.segments) ∧
          (u.kind = .cue → kind = .cue ∧ t.segments = s.segments.takeCue (readCue p u.arrival) ∧
            t.captions = s.captions) ∧
          t.startup = s.startup ∧ t.time = s.time ∧ t.loudness = s.loudness ∧ t.reception = s.reception ∧
          t.verdicts = s.verdicts ∧ t.link = s.link))) ∧
  (∀ (p : List Byte) (arrival : Stamp),
    let c := readCue p arrival
    c.segmentId.toNat = natAt p 0 4 ∧ c.programmeId.toNat = natAt p 4 4 ∧
    (1 ≤ natAt p 8 1 → natAt p 8 1 ≤ 4 →
      (match c.cls with | .programme => 1 | .advert => 2 | .promotion => 3 | .junction => 4) = natAt p 8 1) ∧
    (1 ≤ natAt p 9 1 → natAt p 9 1 ≤ 2 → (match c.scope with | .national => 1 | .regional => 2) = natAt p 9 1) ∧
    c.captions = (byteAt p 10).getLsbD 0 ∧ c.start.toNat = natAt p 11 5 ∧ c.arrival = arrival)

/-- Audio continuity (R10 to R12, R15): a unit that begins a run, continues it, fills a hole of 1 … 480 positions or
makes a discontinuity is accepted, which moves the expected media time, the channel count, the AUDIO_ABSENT reference
and the tally; a discontinuity tells the Loudness Unit, asks for a MARK unit and aligns a new run to its resume grid
point; a unit that reaches backwards is discarded and counted, with no other effect. The positions handed on are a
hole's zeros and then the unit's samples, in media-time order, dropped before the resume grid point, a grid-point event
going before the position at a grid point. That the samples are handed on before the tally takes the unit is log 11's
choice, the tally's bucket for a unit out of the current interval is log 26's, and the byte order of the samples is log
35's reading. -/
def Obligations.AudioContinuity : Prop :=
  (∀ (s : State) (u : QueuedUnit) (p : List Byte),
    let t := s.takeAudio u p
    let n := natAt p 2 2
    let channels := (byteAt p 0).toNat
    let accepted := t.port.expected = some (u.mediaTime + BitVec.ofNat 40 n) ∧ t.port.channels = some channels ∧
      t.port.audioRef = some u.arrival ∧ t.port.audioAbsentOpen = false ∧
      t.reception.tally = (s.reception.countAudio u.arrival.time u.damaged).tally ∧ t.port.queue = s.port.queue
    let marked := ∃ m ∈ t.recorder.marks, m.reason = .discontinuity ∧ m.stamp = u.arrival ∧ m.media = some u.mediaTime ∧
      m.place = u.serial
    let taken := fun (run : State) (filled : Nat) =>
      let held := run.setPort { run.port with
        expected := some (u.mediaTime + BitVec.ofNat 40 n), channels := some channels }
      ((held.refreshAudio u.arrival).handOnAll (u.mediaTime - BitVec.ofNat 40 filled) u.arrival
        (List.replicate filled (List.replicate channels 0) ++ readAudio p)).acceptAudio u.arrival.time u.damaged
    let aligned := fun (run : State) => run.setPort { run.port with aligning := some (gridPointFrom u.mediaTime) }
    let told := (s.setLoudness s.loudness.discontinue).requestMark
      ⟨.discontinuity, u.arrival, some u.mediaTime, 0, none, u.serial⟩
    let counted := s.setPort { s.port with damaged := addCount s.port.damaged 1 }
    (s.port.expected = none → t = taken (aligned s) 0 ∧ accepted ∧ t.port.damaged = s.port.damaged ∧
      t.recorder.marks = s.recorder.marks) ∧
    (∀ e, s.port.expected = some e →
      let d := (u.mediaTime - e).toInt
      (s.port.channels ≠ some channels → t = taken (aligned told) 0 ∧ accepted ∧ t.port.damaged = s.port.damaged ∧
        marked) ∧
      (s.port.channels = some channels →
        (d = 0 → t = taken s 0 ∧ accepted ∧ t.port.damaged = s.port.damaged ∧ t.recorder.marks = s.recorder.marks) ∧
        (1 ≤ d → d ≤ 480 → t = taken counted d.toNat ∧ accepted ∧ t.port.damaged = addCount s.port.damaged 1 ∧
          t.recorder.marks = s.recorder.marks) ∧
        (480 < d → t = taken (aligned told) 0 ∧ accepted ∧ t.port.damaged = s.port.damaged ∧ marked) ∧
        (d < 0 → t = counted)))) ∧
  (∀ (p : List Byte) (i j : Nat), (readAudio p).length = natAt p 2 2 ∧
    (i < natAt p 2 2 → ((readAudio p).getD i []).length = (byteAt p 0).toNat ∧
      (j < (byteAt p 0).toNat →
        ((readAudio p).getD i []).getD j 0 = intAt p (4 + 3 * (i * (byteAt p 0).toNat + j)) 3))) ∧
  (∀ (s : State) (time : MediaTime) (stamp : Stamp) (x : List Int) (rest : List (List Int)),
    s.handOnAll time stamp [] = s ∧
    s.handOnAll time stamp (x :: rest) = (s.handOn time x stamp).handOnAll (time + 1) stamp rest ∧
    (∀ g, s.port.aligning = some g → time ≠ g → s.handOn time x stamp = s) ∧
    ((s.port.aligning = none ∨ s.port.aligning = some time) →
      let run := s.setPort { s.port with aligning := none }
      let ready := if time.toNat % 4800 = 0 then run.gridPointEvent time stamp else run
      s.handOn time x stamp = ready.setLoudness (ready.loudness.takePosition x stamp)) ∧
    (∀ k, k % 4800 = 0 → time.toNat ≤ k → k < time.toNat + 4800 →
      gridPointFrom time = if k < 2 ^ 40 then BitVec.ofNat 40 k else 0) ∧
    (s.port.audioAbsentOpen = true → s.refreshAudio stamp =
      (s.setPort { s.port with audioRef := some stamp, audioAbsentOpen := false }).closeBreach .audioAbsent stamp none false) ∧
    (s.port.audioAbsentOpen = false → s.refreshAudio stamp =
      s.setPort { s.port with audioRef := some stamp, audioAbsentOpen := false })) ∧
  (∀ (r : ReceptionMonitor) (arrival : Nat) (damaged : Bool), r.tally.length = 10 →
    let k := arrival / 100000
    (k ≤ r.tallyInterval → r.countAudio arrival damaged = { r with tally := r.tally.mapIdx (fun i b =>
      if i = r.tallyInterval - k then (⟨b.accepted + 1, if damaged then b.damaged + 1 else b.damaged⟩ : TallyBucket) else b) }) ∧
    (r.tallyInterval < k → r.countAudio arrival damaged = { r with
      tallyInterval := k
      tally := (⟨1, if damaged then 1 else 0⟩ : TallyBucket) ::
        (List.replicate (min 9 (k - r.tallyInterval - 1)) (⟨0, 0⟩ : TallyBucket) ++ r.tally).take 9 }))

/-! ### Reception Monitor -/

/-- An evaluation (R15, R16): the effective quality is 0 while ten times the damaged total exceeds the accepted total, else
the reported quality. In the grace nothing is judged. In NORMAL a quality below Tq enters IMPAIRED with its record, lowest
quality and latch; in IMPAIRED the lowest quality and the recovery start follow the quality. -/
def Obligations.Evaluation : Prop :=
  ∀ s : State,
    let t := s.evaluate
    let accepted : Nat := (s.reception.tally.map (fun b => b.accepted)).sum
    let damaged : Nat := (s.reception.tally.map (fun b => b.damaged)).sum
    let q : Nat := if accepted < 10 * damaged then 0 else s.reception.reported
    let tq := s.config.tq
    t.reception.effective = q ∧ t.reception.reported = s.reception.reported ∧ t.reception.tally = s.reception.tally ∧
    ((s.reception.grace = true ∨ (s.reception.state = .normal ∧ tq ≤ q)) →
      t = s.setReception { s.reception with effective := q }) ∧
    (s.reception.grace = false → s.reception.state = .normal → q < tq →
      t.reception = { s.reception with
        effective := q, state := .impaired, lowest := some q, recoveryStart := none, latch := true } ∧
      (s.log.records.length < 128 → s.peers.divergentOpen = false → ∃ r ∈ t.log.records,
        r.category = .receptionImpaired ∧ r.isOpen = true ∧ r.startStamp = s.nowStamp)) ∧
    (s.reception.grace = false → s.reception.state = .impaired →
      t = s.setReception { s.reception with
        effective := q
        lowest := some (min (s.reception.lowest.getD q) q)
        recoveryStart := if (if tq ≤ 90 then tq + 10 else 100) ≤ q then some (s.reception.recoveryStart.getD s.now)
          else none })

/-- The Reception Monitor's deadlines (R14, R15, R16): the quality silence makes the reported quality 0, ends the grace
and is evaluated; a bucket boundary empties the oldest bucket and is evaluated; 5 s after the recovery start the state
is NORMAL and RECEPTION_IMPAIRED closes with the lowest quality. That a command before its deadline, or a boundary
command within the interval, changes nothing is log 1's choice. -/
def Obligations.ReceptionDeadlines : Prop :=
  ∀ s : State, s.live = true →
    (∀ d, s.reception.silenceDeadline = some d → d ≤ s.now → exec .qualitySilenceExpiry s = .next
      (s.setReception { s.reception with reported := 0, silenceDeadline := none, grace := false }).evaluate) ∧
    (∀ d, s.reception.silenceDeadline = some d → s.now < d → exec .qualitySilenceExpiry s = .next s) ∧
    (s.reception.tally.length = 10 → s.reception.tallyInterval + 1 = s.now / 100000 →
      exec .tallyBucketBoundary s = .next (s.setReception { s.reception with
        tally := ⟨0, 0⟩ :: s.reception.tally.take 9, tallyInterval := s.now / 100000 }).evaluate) ∧
    (s.reception.tallyInterval = s.now / 100000 → exec .tallyBucketBoundary s = .next s) ∧
    (∀ start, s.reception.recoveryStart = some start → s.reception.state = .impaired →
      (start + 5 * second ≤ s.now → exec .recoveryExpiry s = .next
        ((s.setReception { s.reception with state := .normal, recoveryStart := none, lowest := none }).closeBreach
          .receptionImpaired s.nowStamp (s.reception.lowest.map Int.ofNat) false).judge) ∧
      (s.now < start + 5 * second → exec .recoveryExpiry s = .next s))

/-! ### Segment Tracker -/

/-- The pending cue list (R19): the five cases of a delivered cue, by the first that applies. A placed cue stands after every
pending cue whose start is not later, the rest of the list keeping its order; the cue removed from a full list is the one with
the latest start, of those sharing it the last to arrive. Where the pairwise comparisons of starts run in a circle, the order
by one media time is the model's choice (log 39). -/
def Obligations.CuePlacement : Prop :=
  ∀ (t : SegmentTracker) (c : PendingCue),
    let inOrder := fun (ref : MediaTime) (l m : List PendingCue) =>
      m.Pairwise (fun x y => (x.start - ref).toInt ≤ (y.start - ref).toInt) ∧ m.Perm l ∧
      ∀ v, m.filter (fun x => x.start == v) = l.filter (fun x => x.start == v)
    let placed := fun (l : List PendingCue) => inOrder c.start (l ++ [c]) (t.takeCue c).pending ∧
      (l.Pairwise (fun x y => (x.start - c.start).toInt ≤ (y.start - c.start).toInt) → ∃ ahead behind, l = ahead ++ behind ∧
        (t.takeCue c).pending = ahead ++ c :: behind ∧ (∀ y ∈ ahead, (y.start - c.start).toInt ≤ 0) ∧
        (∀ y ∈ behind, 0 < (y.start - c.start).toInt))
    let same := (t.takeCue c).current = t.current ∧ (t.takeCue c).programme = t.programme ∧
      (t.takeCue c).begun = t.begun ∧ (t.takeCue c).nextOpening = t.nextOpening
    same ∧
    ((∃ y ∈ t.pending, y.segmentId = c.segmentId) →
      placed (t.pending.filter (fun y => y.segmentId != c.segmentId)) ∧ (t.takeCue c).cueDrops = t.cueDrops) ∧
    ((∀ y ∈ t.pending, y.segmentId ≠ c.segmentId) →
      (c.segmentId = t.current.segmentId → t.takeCue c = t) ∧
      (c.segmentId ≠ t.current.segmentId →
        (t.pending.length < 4 → placed t.pending ∧ (t.takeCue c).cueDrops = t.cueDrops) ∧
        (4 ≤ t.pending.length →
          ((∀ y ∈ t.pending, 0 < (c.start - y.start).toInt) →
            t.takeCue c = { t with cueDrops := addCount t.cueDrops 1 }) ∧
          ((∃ y ∈ t.pending, (c.start - y.start).toInt ≤ 0) →
            (t.takeCue c).cueDrops = addCount t.cueDrops 1 ∧
            ∃ first rest kept latest, t.pending = first :: rest ∧ inOrder first.start t.pending (kept ++ [latest]) ∧
              placed kept))))

/-- A grid-point event (R17, R20 to R23): the impaired latch is handed out and set to the state; with no cue due the current
segment goes on, or at the first event the unannounced segment opens; with cues due the one with the latest start, of those
sharing it the last to arrive, becomes the current segment, opened at the grid point with the event's stamp, and the others
are counted as dropped; a new sub-block begins, of the current segment. And a segment change: its steps in order, the
programme that opens, closes or is joined, what each close hands on to its verdict, and what each opening sets; that within a
step the Loudness Unit comes before the Caption Checker and the link is log 10's choice, and that the first event is no upshift
event is log 36's. -/
def Obligations.GridPointEvent : Prop :=
  (∀ (s : State) (g : MediaTime) (stamp : Stamp),
    let t := s.gridPointEvent g stamp
    let due := s.segments.pending.filter (fun c => (c.start - g).toInt ≤ 0)
    let mark := s.reception.latch && s.loudness.inProgress.isSome
    t.reception = { s.reception with latch := decide (s.reception.state = .impaired) } ∧
    (∃ b, t.loudness.inProgress = some b ∧ b.start = g ∧ b.opening = t.segments.current.opening ∧ b.sums = [] ∧
      b.peaks = []) ∧
    (due = [] → s.segments.begun = true →
      t.segments.pending = s.segments.pending ∧ t.segments.cueDrops = s.segments.cueDrops ∧
      t.segments.current = { s.segments.current with impaired := s.segments.current.impaired || mark } ∧
      t.segments.programme = s.segments.programme.map (fun p =>
        if s.segments.current.cls = .programme then { p with impaired := p.impaired || mark } else p)) ∧
    (due = [] → s.segments.begun = false → ∃ opening, t.segments.begun = true ∧
      t.segments.current = ⟨0, .programme, .regional, false, 0, some g, some stamp, false, none, opening⟩) ∧
    (∀ before c after, due = before ++ c :: after → (∀ x ∈ before, (x.start - g).toInt ≤ (c.start - g).toInt) →
      (∀ x ∈ after, (x.start - g).toInt < (c.start - g).toInt) →
      t.segments.pending = s.segments.pending.filter (fun x => 0 < (x.start - g).toInt) ∧
      t.segments.cueDrops = addCount s.segments.cueDrops (before.length + after.length) ∧
      t.segments.current.segmentId = c.segmentId ∧ t.segments.current.cls = c.cls ∧
      t.segments.current.scope = c.scope ∧ t.segments.current.captions = c.captions ∧
      t.segments.current.programmeId = (if c.cls = .programme then c.programmeId else 0) ∧
      t.segments.current.startMedia = some g ∧ t.segments.current.startStamp = some stamp ∧
      t.segments.current.impaired = false ∧ t.segments.current.endStamp = none ∧ t.segments.begun = true)) ∧
  (∀ (s : State) (r : SegmentRecord) (stamp : Stamp),
    let t := s.changeSegment r stamp
    let old := s.segments.current
    let n := s.segments.nextOpening
    let ended := fun (p : Programme) => if old.cls = .programme then { p with endStamp := some stamp } else p
    let opened : Programme := ⟨r.programmeId, stamp, none, r.scope, false, n⟩
    (s.segments.begun = false → t = (s.openProgramme r stamp).openSegment r stamp none) ∧
    (s.segments.begun = true →
      t = (((s.closeSegment stamp).closeProgramme r).openProgramme r stamp).openSegment r stamp (some old.scope)) ∧
    t.segments.current = { r with opening := t.segments.current.opening } ∧
    (r.cls ≠ .programme → t.segments.current.opening = ⟨n, none⟩ ∧
      (s.segments.begun = true → t.segments.programme = s.segments.programme.map ended)) ∧
    (r.cls = .programme →
      (s.segments.programme = none → t.segments.programme = some opened ∧
        t.segments.current.opening = ⟨n + 1, some n⟩) ∧
      (∀ p, s.segments.programme = some p → s.segments.begun = true →
        (r.programmeId ≠ p.programmeId ∨ p.programmeId = 0 → t.segments.programme = some opened ∧
          t.segments.current.opening = ⟨n + 1, some n⟩) ∧
        (r.programmeId = p.programmeId → p.programmeId ≠ 0 → t.segments.current.opening = ⟨n, some p.opening⟩ ∧
          t.segments.programme = some { ended p with
            scope := if p.scope = .national ∧ r.scope = .national then .national else .regional })))) ∧
  (∀ (s : State) (stamp : Stamp),
    let r := { s.segments.current with endStamp := some stamp }
    let noted := s.setSegments (s.segments.endProgrammeSegment stamp)
    let measured := noted.closeSegmentContext r stamp
    let checked := measured.1.closeCaptions stamp (s.segments.programme.map (fun p => p.opening))
    (r.cls = .programme → s.closeSegment stamp = checked.1) ∧
    (r.cls ≠ .programme →
      (measured.2 = none → s.closeSegment stamp = checked.1) ∧
      (∀ c, measured.2 = some c →
        s.closeSegment stamp = checked.1.deal (c.verdict .segment r.segmentId r.cls r.scope checked.2)))) ∧
  (∀ (s : State) (r : SegmentRecord),
    let closes := fun (p : Programme) => r.cls = .programme ∧ (r.programmeId ≠ p.programmeId ∨ p.programmeId = 0)
    ((∀ p, s.segments.programme = some p → ¬ closes p) → s.closeProgramme r = s) ∧
    (∀ p, s.segments.programme = some p → closes p → ∃ u : State, s.closeProgramme r =
        u.setSegments { s.segments with programme := none } ∧
      (s.loudness.programmeCtx = none → u = s.setLoudness { s.loudness with programmeCtx := none }) ∧
      (∀ c, s.loudness.programmeCtx = some c → u =
        (s.setLoudness { s.loudness with programmeCtx := none }).deal
          ({ c with endStamp := p.endStamp, impaired := p.impaired }.verdict .programme p.programmeId .programme p.scope
            s.captions.programmeCoverage)))) ∧
  (∀ (s : State) (r : SegmentRecord) (stamp : Stamp) (replaced : Option Scope),
    let n := s.segments.nextOpening
    let opening : Opening := ⟨n, if r.cls = .programme then s.segments.programme.map (fun p => p.opening) else none⟩
    let told := s.setSegments { s.segments with current := { r with opening := opening }, begun := true, nextOpening := n + 1 }
    let measured := told.setLoudness (s.loudness.openSegment n stamp)
    let checked := measured.setCaptions (s.captions.openSegment s.config { r with opening := opening })
    ((replaced = none ∨ replaced = some r.scope) → s.openSegment r stamp replaced = checked.judge) ∧
    (∀ x, replaced = some x → x ≠ r.scope → s.openSegment r stamp replaced = checked.upshift.judge) ∧
    (r.cls = .programme → s.segments.programme = none → s.openProgramme r stamp =
      ((s.setSegments { s.segments with
          programme := some ⟨r.programmeId, stamp, none, r.scope, false, n⟩, nextOpening := n + 1 }).setLoudness
        (s.loudness.openProgramme n stamp)).setCaptions s.captions.openProgramme))

/-! ### Time Base -/

/-- OSCILLATOR_TICK (R25, R35, R127, R133): the local count goes up by one; shelf time by one microsecond, or on an adjustment
tick by two or by none as the remaining offset is positive or negative, which moves toward zero by one; shelf time holds at its
last value. The tick after one that brought shelf time to a multiple of 10,000 is an adjustment tick. The quiet count, and in
LISTENING, RUNNING and LISTEN_ONLY the occupancy, are kept by ticks. The remaining offset at the last shelf time is log 33's. -/
def Obligations.OscillatorTick : Prop :=
  ∀ s : State, ∃ t, exec .oscillatorTick s = .next t ∧
    t.time.localCount = s.time.localCount + 1 ∧
    (s.time.adjustNext = false ∨ s.time.remaining = 0 →
      t.time.shelf = min (s.time.shelf + 1) shelfMax ∧ t.time.remaining = s.time.remaining) ∧
    (s.time.adjustNext = true → 0 < s.time.remaining →
      t.time.shelf = min (s.time.shelf + 2) shelfMax ∧ t.time.remaining = s.time.remaining - 1) ∧
    (s.time.adjustNext = true → s.time.remaining < 0 →
      t.time.shelf = min s.time.shelf shelfMax ∧ t.time.remaining = s.time.remaining + 1) ∧
    (t.time.adjustNext = true ↔ s.time.shelf < t.time.shelf ∧ t.time.shelf % 10000 = 0) ∧
    t.time = { s.time with
      localCount := t.time.localCount, shelf := t.time.shelf, remaining := t.time.remaining
      adjustNext := t.time.adjustNext } ∧
    t.link.quietCount = (if s.link.busy then s.link.quietCount else s.link.quietCount + 1) ∧
    (s.live = true → t.link.bucketTicks = s.link.bucketTicks + 1 ∧
      ∀ n rest, s.link.occupancy = n :: rest → t.link.occupancy = (if s.link.busy then n + 1 else n) :: rest) ∧
    (s.live = false → t.link.bucketTicks = s.link.bucketTicks ∧ t.link.occupancy = s.link.occupancy) ∧
    t.link = { s.link with
      quietCount := t.link.quietCount, occupancy := t.link.occupancy, bucketTicks := t.link.bucketTicks } ∧
    t = (s.setTime t.time).setLink t.link

/-- The Time Base's deadlines (R28 to R31): history entries 30 s old leave; at the reference silence LOCKED gives way to
HOLDOVER with its deadline and a TIME_DEGRADED record; at the holdover deadline the candidate of the lowest class, and
of the lowest station number in it, is followed in state PEER, or else the state is FREE; in CHECKING the states change
and no record is asked for (R40). And the peer choices while FREE and PEER and at the loss of the followed peer (R31,
R33). That a command before its deadline changes nothing is log 1's choice; that history entries age out in FAULT too is
log 23's. -/
def Obligations.TimeDeadlines : Prop :=
  (∀ s : State,
    exec .historyEntryExpiry s = .next (s.setTime { s.time with
      history := s.time.history.filter (fun e => s.time.shelf < e.arrival.time + 30 * second) }) ∧
    (∀ d, s.live = true → s.time.source = .locked → s.time.silenceDeadline = some d → d ≤ s.now →
      ∃ t, exec .referenceSilenceExpiry s = .next t ∧
        t.time = { s.time with
          source := .holdover, followed := none, silenceDeadline := none, window := none
          holdoverDeadline := some (s.now + s.config.holdoverLimit * second) } ∧
        t = (s.setTime t.time).raise { category := .timeDegraded, startStamp := t.nowStamp }) ∧
    (∀ d, s.time.silenceDeadline = some d → s.now < d → exec .referenceSilenceExpiry s = .next s) ∧
    (∀ d, s.live = true → s.time.source = .holdover → s.time.holdoverDeadline = some d → d ≤ s.now →
      let candidate := fun (e : PeerEntry) => e ∈ s.peers.table ∧ e.heard = true ∧ e.station.toNat ≠ s.config.stationNumber ∧
        ∃ p, e.status = some p ∧ (p.timeClass = .locked ∨ p.timeClass = .holdover)
      ((∀ e, ¬ candidate e) → exec .holdoverExpiry s = .next (s.setTime { s.time with
        source := .free, followed := none, silenceDeadline := none, holdoverDeadline := none, window := none })) ∧
      (∀ e p, candidate e → e.status = some p →
        (∀ x q, candidate x → x.status = some q → p.timeClass.number < q.timeClass.number ∨
          (p.timeClass = q.timeClass ∧ e.station.toNat ≤ x.station.toNat)) →
        ∃ t, exec .holdoverExpiry s = .next t ∧
          t.time = { s.time with
            source := .peer, followed := some e.station, silenceDeadline := none, holdoverDeadline := none
            window := none } ∧
          t = (s.setTime t.time).closeBreach .timeDegraded t.nowStamp none false))) ∧
  (∀ s : State, s.startup.station = .checking →
    (∀ d, s.time.source = .locked → s.time.silenceDeadline = some d → d ≤ s.now →
      exec .referenceSilenceExpiry s = .next (s.setTime { s.time with
        source := .holdover, followed := none, silenceDeadline := none, window := none
        holdoverDeadline := some (s.now + s.config.holdoverLimit * second) })) ∧
    (∀ d, s.time.source = .holdover → s.time.holdoverDeadline = some d → d ≤ s.now → s.peers.table = [] →
      exec .holdoverExpiry s = .next (s.setTime { s.time with
        source := .free, followed := none, silenceDeadline := none, holdoverDeadline := none, window := none }))) ∧
  (∀ (s : State) (station : Byte),
    let candidate := fun (e : PeerEntry) => e ∈ s.peers.table ∧ e.heard = true ∧ e.station.toNat ≠ s.config.stationNumber ∧
      ∃ p, e.status = some p ∧ (p.timeClass = .locked ∨ p.timeClass = .holdover)
    let chosen := fun (e : PeerEntry) => candidate e ∧ ∀ x p q, candidate x → e.status = some p → x.status = some q →
      p.timeClass.number < q.timeClass.number ∨ (p.timeClass = q.timeClass ∧ e.station.toNat ≤ x.station.toNat)
    let entered := fun (c : TimeClass) (peer : Option Byte) => s.setTime { s.time with
      source := c, followed := peer, silenceDeadline := none, holdoverDeadline := none, window := none }
    let follows := fun (t : State) (e : PeerEntry) =>
      ((s.time.source = .peer ∨ s.live = false) → t = entered .peer (some e.station)) ∧
      (s.time.source = .free → s.live = true →
        t = (entered .peer (some e.station)).closeBreach .timeDegraded (entered .peer (some e.station)).nowStamp none
          false)
    let better := fun (e : PeerEntry) => ∀ f x, s.time.followed = some f → s.peer? f = some x → ∀ p q,
      e.status = some p → x.status = some q → p.timeClass.number < q.timeClass.number
    ((s.time.source = .locked ∨ s.time.source = .holdover) → s.considerPeers = s) ∧
    ((∀ e, ¬ candidate e) → s.considerPeers = s) ∧
    (∀ e, s.time.source = .free → chosen e → follows s.considerPeers e) ∧
    (∀ e, s.time.source = .peer → chosen e → (better e → follows s.considerPeers e) ∧
      (¬ better e → s.considerPeers = s)) ∧
    (¬ (s.time.source = .peer ∧ s.time.followed = some station) → s.loseFollowed station = s) ∧
    (s.time.source = .peer → s.time.followed = some station →
      (∀ e, chosen e → follows (s.loseFollowed station) e) ∧
      ((∀ e, ¬ candidate e) →
        (s.live = false → s.loseFollowed station = entered .free none) ∧
        (s.live = true → s.loseFollowed station =
          (entered .free none).raise { category := .timeDegraded, startStamp := (entered .free none).nowStamp }))))

/-- The correction rule (R34) and the forward step (R36): an offset of 5,000 µs or more steps shelf time forward at
once and ends the slew, empties the old tally buckets (R15) and ages the reference history (R28), creates TIME_STEP and
asks for a MARK unit, and then every deadline that the step passes expires at once, as the commands of those deadlines
make them (R6, R12, R14, R16, R29, R30, R110, R111, R139, R140, R147, R154, R163, R178, R190); any other offset becomes
the remaining offset and changes nothing else. The rule is applied to every TIME unit while LOCKED, to the one that
brings agreement, and to the followed peer's STATUS notices of class 1 or 2 (R27 to R29, R32); a STATUS of class 3 or 4
loses the followed peer (R33). The oscillator check: its window, its deviation (R38) and CLOCK_SUSPECT (R39). That a TIME
unit finds the history without the entries 30 s old is log 27's reading; that the correction goes before the check is log
12's choice. That the silence deadline of the unit which brings LOCKED is set behind its own forward step, and so does
not expire at it, is log 40's choice; the order of the expiries is log 48's, the time quality of the stamp before the
step in the MARK unit log 49's. -/
def Obligations.Correction : Prop :=
  (∀ (s : State) (o : Int),
    let shelf := min (s.time.shelf + o.toNat) shelfMax
    let before : Stamp := ⟨s.time.shelf, s.time.source, false⟩
    let run := fun (t : State) (c : Instr) => match exec c t with
      | .next u => u
      | .fault _ | .refused _ => t
    let passed := fun (t : State) => ([[Instr.overrunExpiry, .audioAbsentDeadline, .qualitySilenceExpiry,
        .tallyBucketBoundary, .recoveryExpiry, .historyEntryExpiry, .referenceSilenceExpiry, .holdoverExpiry],
      ((List.range 32).map (fun n =>
        [Instr.holdMaxLengthExpiry (BitVec.ofNat 5 n), .holdIntervalClose (BitVec.ofNat 5 n)])).flatten,
      [.statusTimerExpiry, .downshiftDeadline],
      (t.peers.table.map (fun e => [Instr.peerStaleDeadline e.station, .peerRemovalDeadline e.station])).flatten,
      [.divergenceExpiry], List.replicate t.peers.pendingVerdicts.length .proxyDeadline,
      (List.range 4).map (fun n => .pulseEnd (BitVec.ofNat 2 n)), [.listeningEnd]] : List (List Instr)).flatten
    (5000 ≤ o → ∃ t : State, s.correct o = (passed t).foldl run t ∧
      t.time = { s.time with
        shelf := shelf, remaining := 0
        history := s.time.history.filter (fun e => shelf < e.arrival.time + 30000000) } ∧
      t.reception = { s.reception with tally := t.reception.tally } ∧
      (∀ i b, s.reception.tally[i]? = some b → t.reception.tally[i]? = some
        (if (s.reception.tallyInterval - i + 1) * 100000 + 1000000 ≤ shelf then ⟨0, 0⟩ else b)) ∧
      t.port = s.port ∧ t.startup = s.startup ∧ t.segments = s.segments ∧ t.loudness = s.loudness ∧
      t.captions = s.captions ∧ t.verdicts = s.verdicts ∧ t.peers.table = s.peers.table ∧
      t.peers.pendingVerdicts = s.peers.pendingVerdicts ∧ t.peers.cache = s.peers.cache ∧
      (∃ m ∈ t.recorder.marks, m.reason = .timeStep ∧ m.stamp = t.nowStamp ∧ m.before = some before ∧
        m.stepMs = min (o.toNat / 1000) 2147483647) ∧
      (s.log.records.length < 128 → ∃ r ∈ t.log.records, r.category = .timeStep ∧ r.isOpen = false ∧
        r.startStamp = before ∧ r.endStamp = some t.nowStamp ∧
        r.figure = some (min (o.toNat / 1000) 2147483647 : Nat))) ∧
    (5000 ≤ o → (s.correct o).time.shelf = shelf ∧ (s.correct o).time.remaining = 0 ∧
      (s.correct o).time.localCount = s.time.localCount) ∧
    (o < 5000 → s.correct o = s.setTime { s.time with remaining := o })) ∧
  (∀ (s : State) (u : QueuedUnit) (payload : List Byte),
    let prediction : Nat := (natAt payload 0 4 * 1000000 + natAt payload 4 2 * 1000) + s.config.referenceDelay * 1000
    let o : Int := (prediction : Int) + (s.time.localCount - u.noted).toNat - s.time.shelf
    let t := s.takeTime u payload
    let history := newest 3 ((s.time.history.filter (fun e => s.time.shelf < e.arrival.time + 30000000)) ++
      [⟨(prediction : Int) - u.noted.toNat, u.arrival⟩])
    let agrees := history.length = 3 ∧ ∀ a ∈ history, ∀ b ∈ history, a.raw - b.raw ≤ 20000
    let deadline := u.arrival.time + 30000000
    let window : CheckWindow := ⟨(prediction : Int) - u.noted.toNat, prediction, u.arrival, u.noted⟩
    ((s.time.source = .locked ∨ agrees) →
      (o < 5000 → t.time.remaining = o ∧ t.time.shelf = s.time.shelf) ∧
      (5000 ≤ o → t.time.remaining = 0 ∧ t.time.shelf = min (s.time.shelf + o.toNat) shelfMax)) ∧
    (s.time.source = .locked →
      t = ((s.setTime { s.time with history := history, silenceDeadline := some deadline }).correct o).checkOscillator u
        prediction ∧
      ((o < 5000 ∨ min (s.time.shelf + o.toNat) shelfMax < deadline) →
        t.time.source = .locked ∧ t.time.silenceDeadline = some deadline) ∧
      (5000 ≤ o → deadline ≤ min (s.time.shelf + o.toNat) shelfMax → s.startup.station ≠ .fault →
        t.time.source ≠ .locked ∧ t.time.silenceDeadline = none ∧ t.time.window = none)) ∧
    (s.time.source ≠ .locked → agrees →
      let corrected := ((s.setTime { s.time with history := history }).enterSource .locked).correct o
      t = corrected.setTime { corrected.time with silenceDeadline := some deadline, window := some window } ∧
        t.time.source = .locked) ∧
    (s.time.source ≠ .locked → ¬ agrees → t = s.setTime { s.time with history := history })) ∧
  (∀ (s : State) (station : Byte) (c : TimeClass) (senderTime : Nat) (noted : BitVec 64),
    s.time.source = .peer → s.time.followed = some station → (c = .locked ∨ c = .holdover) →
    let o : Int := (senderTime : Int) + (s.time.localCount - noted).toNat - s.time.shelf
    let t := s.takePeerTime station c senderTime noted
    t = (s.correct o).considerPeers ∧
    (o < 5000 → t.time.remaining = o ∧ t.time.shelf = s.time.shelf) ∧
    (5000 ≤ o → t.time.remaining = 0 ∧ t.time.shelf = min (s.time.shelf + o.toNat) shelfMax)) ∧
  (∀ (s : State) (station : Byte) (c : TimeClass) (senderTime : Nat) (noted : BitVec 64),
    let t := s.takePeerTime station c senderTime noted
    let followed := s.time.source = .peer ∧ s.time.followed = some station
    (¬ followed → t = s.considerPeers) ∧
    (followed → (c = .peer ∨ c = .free) → t = (s.loseFollowed station).considerPeers)) ∧
  (∀ (s : State) (u : QueuedUnit) (prediction : Nat),
    (s.time.window = none → s.checkOscillator u prediction = s) ∧
    (∀ w, s.time.window = some w →
      let ticks := (u.noted - w.noted).toNat
      let reference := prediction - w.prediction
      let next := s.setTime { s.time with
        window := some ⟨(prediction : Int) - u.noted.toNat, prediction, u.arrival, u.noted⟩ }
      (ticks < 60000000 → s.checkOscillator u prediction = s) ∧
      (60000000 ≤ ticks → prediction ≤ w.prediction → s.checkOscillator u prediction = next) ∧
      (60000000 ≤ ticks → w.prediction < prediction → s.checkOscillator u prediction =
        next.judgeDeviation (((ticks : Int) - reference).natAbs * 1000000 / reference) u.arrival))) ∧
  (∀ (s : State) (deviation : Nat) (stop : Stamp),
    let t := s.judgeDeviation deviation stop
    let with_ := fun (suspect : Bool) (largest : Nat) => s.setTime { s.time with
      suspect := suspect, largestDeviation := largest }
    (s.time.suspect = false → 200 < deviation →
      t = (with_ true deviation).raise { category := .clockSuspect, startStamp := stop }) ∧
    (s.time.suspect = false → deviation ≤ 200 → t = s) ∧
    (s.time.suspect = true → 150 < deviation → t = with_ true (max s.time.largestDeviation deviation)) ∧
    (s.time.suspect = true → deviation ≤ 150 →
      t = (with_ false s.time.largestDeviation).closeBreach .clockSuspect stop (some s.time.largestDeviation) false))

/-! ### Loudness and verdicts -/

/-- The loudness of an energy (R51): −200.00 for zero; else −0.691 plus ten times the base-ten logarithm, to the nearest
0.01 with ties to the greater, limited to −200.00 … +9.99. -/
def Obligations.LoudnessOfEnergy : Prop :=
  ∀ num den : Nat, 0 < den →
    (num = 0 → loudnessOfQuotient num den = -20000) ∧
    (0 < num → loudnessOfQuotient num den =
      max (-20000) (min 999 ⌊100 * (-0.691 + 10 * Real.logb 10 ((num : ℝ) / (den : ℝ))) + 1 / 2⌋)) ∧
    (∀ e : Nat, loudnessOf e = loudnessOfQuotient e (2 ^ 48))

/-- The measurement contexts, the peak estimator and the two breaches judged within a segment. The peak figure of a
magnitude, held in multiples of 2^-27: −99.9 for zero; else 20 times the base-ten logarithm, to the nearest 0.1 with
ties to the greater, limited to −99.9 … +1.9; and it never decreases (R66). A sample credits its own magnitude and,
behind three others, the midpoint estimate's (R65). A context opens empty (R60), takes the blocks and figures of its own
instances (R61), the peaks of its own sub-blocks (R66), a block in its bin (R62), closes with its figures (R63, R69,
R71) and is integrated by the gate (R64). PEAK_EXCESS is judged by R68, the short-term excess run by R70 and R71. That
PEAK_EXCESS is judged before the short-term figures are formed, and the excess run before the captions, is log 9's
choice; that channel maxima are merged by index is log 38's. -/
def Obligations.PeakFigure : Prop :=
  (∀ m : Nat, (m = 0 → peakFigure m = -999) ∧
    (0 < m → peakFigure m = max (-999) (min 19 ⌊10 * (20 * Real.logb 10 ((m : ℝ) / 2 ^ 27)) + 1 / 2⌋))) ∧
  (∀ m n : Nat, m ≤ n → peakFigure m ≤ peakFigure n) ∧
  (∀ (history : List Int) (x : Int), rememberSample history x = newest 3 (history ++ [x]) ∧
    (history.length < 3 → creditedMagnitude history x = (16 * x).natAbs) ∧
    (∀ a b c, history = [a, b, c] →
      creditedMagnitude history x = max (16 * x).natAbs (9 * b + 9 * c - a - x).natAbs)) ∧
  (∀ l : List Nat, (∀ m ∈ l, m ≤ greatestOf l) ∧ (l = [] → greatestOf l = 0) ∧ (l ≠ [] → greatestOf l ∈ l)) ∧
  (∀ (c : Context) (peaks : List Nat),
    c.creditPeaks peaks = { c with peaks := (c.creditPeaks peaks).peaks } ∧
    (∀ i, (c.creditPeaks peaks).peaks.getD i 0 = max (c.peaks.getD i 0) (peaks.getD i 0)) ∧
    c.figures = ⟨integratedLoudness c.histogram, c.maxMomentary, c.maxShortTerm, peakFigure (greatestOf c.peaks),
      c.offered⟩) ∧
  (∀ x y : Int, maxFigure none (some y) = some y ∧ maxFigure (some x) none = some x ∧
    maxFigure (some x) (some y) = some (max x y) ∧ maxFigure none none = none) ∧
  (∀ (l : LoudnessUnit) (n : Nat) (stamp : Stamp),
    l.openSegment n stamp = { l with
      segmentCtx := some ⟨n, [], 0, none, none, [], stamp, none, false⟩, peakRaised := false
      excess := ⟨0, none, none, false⟩ } ∧
    l.openProgramme n stamp = { l with programmeCtx := some ⟨n, [], 0, none, none, [], stamp, none, false⟩ }) ∧
  (∀ (s : State) (b : SubBlockInProgress) (impaired : Bool) (g : MediaTime),
    let t := s.completeSubBlock b impaired g
    let r := b.record impaired
    let ring := newest 30 (s.loudness.ring ++ [r])
    let chain := newest 4 (s.loudness.chain ++ [r])
    let energy := (chain.map (fun x => x.energy)).sum / 4
    let offered := fun (belongs : SubBlock → Context → Bool) (c : Context) =>
      if chain.length = 4 ∧ ∀ x ∈ chain, belongs x c = true then
        { c with offered := min (c.offered + 1) 4294967295
                 maxMomentary := maxFigure c.maxMomentary (some (loudnessOf energy))
                 histogram := enterBlock energy (loudnessOf energy) c.histogram }
      else c
    let credited := fun (belongs : SubBlock → Context → Bool) (c : Context) =>
      if belongs r c = true then (offered belongs c).creditPeaks b.peaks else offered belongs c
    let inSegment := fun (x : SubBlock) (c : Context) => x.opening.segment == c.opening
    let inProgramme := fun (x : SubBlock) (c : Context) => x.opening.programme == some c.opening
    let same := ring.filter (fun x => x.opening.segment == r.opening.segment)
    let figureOf := fun (l : List SubBlock) =>
      if l.length < 10 then none else some (loudnessOf ((l.map (fun x => x.energy)).sum / l.length))
    let figured := fun (c : Context) =>
      if inSegment r c = true then { c with maxShortTerm := maxFigure c.maxShortTerm (figureOf same) } else c
    t.loudness.segmentCtx = s.loudness.segmentCtx.map (fun c => figured (credited inSegment c)) ∧
    t.loudness.programmeCtx = s.loudness.programmeCtx.map (credited inProgramme) ∧
    ∃ u v : State, u = s.setLoudness { s.loudness with
        ring := ring, chain := chain, momentary := t.loudness.momentary
        segmentCtx := s.loudness.segmentCtx.map (credited inSegment)
        programmeCtx := s.loudness.programmeCtx.map (credited inProgramme) } ∧
      v = (u.judgePeak r b.peaks).setLoudness { (u.judgePeak r b.peaks).loudness with
        shortTerm := figureOf ring, segmentCtx := t.loudness.segmentCtx } ∧
      t.loudness.peakRaised = (u.judgePeak r b.peaks).loudness.peakRaised ∧
      t.loudness.excess = (v.stepExcess r).loudness.excess ∧
      t.log = ((v.stepExcess r).judgeCaptions ⟨r.start, (figureOf ring).any (fun x => s.config.soundThreshold ≤ x),
        impaired, r.lastStamp⟩).log) ∧
  (∀ (energy : Nat) (momentary : Int) (h : List Bin), h.Pairwise (fun x y => x.bin < y.bin) →
    let t := enterBlock energy momentary h
    let k := ((momentary + 7000) / 10).toNat
    (momentary < -7000 → t = h) ∧
    (-7000 ≤ momentary → t.Pairwise (fun x y => x.bin < y.bin) ∧
      t.filter (fun x => x.bin != k) = h.filter (fun x => x.bin != k) ∧
      ((∀ x ∈ h, x.bin ≠ k) → ⟨k, 1, energy⟩ ∈ t) ∧
      (∀ x ∈ h, x.bin = k → x.count < 4294967295 → ⟨k, x.count + 1, x.energySum + energy⟩ ∈ t) ∧
      (∀ x ∈ h, x.bin = k → 4294967295 ≤ x.count → t = h))) ∧
  (∀ h : List Bin,
    let count := fun (l : List Bin) => (l.map (fun x => x.count)).sum
    let energy := fun (l : List Bin) => (l.map (fun x => x.energySum)).sum
    let gate := loudnessOfQuotient (energy h) (count h * 2 ^ 48) - 1000
    let gated := h.filter (fun x => decide (gate + 7000 ≤ 10 * (x.bin : Int)))
    (count h = 0 → integratedLoudness h = none) ∧
    (0 < count h → integratedLoudness h = some (loudnessOfQuotient (energy gated) (count gated * 2 ^ 48)))) ∧
  (∀ (s : State) (r : SubBlock) (peaks : List Nat),
    let current := s.segments.current
    let judged := (∃ c, s.loudness.segmentCtx = some c ∧ r.opening.segment = c.opening) ∧ s.loudness.peakRaised = false ∧
      r.impaired = false ∧ (s.config.profile current.cls).peakLimit < peakFigure (greatestOf peaks)
    (judged → s.judgePeak r peaks = (s.setLoudness { s.loudness with peakRaised := true }).raise
      { category := .peakExcess, startStamp := r.lastStamp, impaired := current.impaired
        segment := some ⟨current.segmentId, current.cls, current.scope⟩ }) ∧
    (¬ judged → s.judgePeak r peaks = s)) ∧
  (∀ (s : State) (r : SubBlock),
    let current := s.segments.current
    let profile := s.config.profile current.cls
    let e := s.loudness.excess
    let withRun := fun (x : ExcessRun) => s.setLoudness { s.loudness with excess := x }
    let same := s.loudness.ring.filter (fun x => x.opening.segment == r.opening.segment)
    let active := (current.cls = .advert ∨ current.cls = .promotion) ∧ profile.margin ≠ 0 ∧ r.impaired = false ∧
      10 ≤ same.length ∧ ∃ c, s.loudness.segmentCtx = some c ∧ r.opening.segment = c.opening
    let figure := loudnessOf ((same.map (fun x => x.energy)).sum / same.length)
    let level := profile.target + profile.margin
    let highest := maxFigure e.maximum (some figure)
    (¬ active → s.stepExcess r = s) ∧
    (active → figure ≤ level →
      (e.recordOpen = false → s.stepExcess r = withRun ⟨0, none, none, false⟩) ∧
      (e.recordOpen = true →
        let closed := (withRun { e with recordOpen := false }).closeBreach .shortTermExcess r.lastStamp e.maximum
          current.impaired
        s.stepExcess r = closed.setLoudness { closed.loudness with excess := ⟨0, none, none, false⟩ })) ∧
    (active → level < figure →
      (e.count = 0 → s.stepExcess r = withRun ⟨1, some r.lastStamp, some figure, e.recordOpen⟩) ∧
      (1 ≤ e.count → e.count < 29 → s.stepExcess r = withRun ⟨e.count + 1, e.start, highest, e.recordOpen⟩) ∧
      (∀ start, 29 ≤ e.count → e.start = some start →
        (e.recordOpen = true → s.stepExcess r = withRun ⟨30, some start, highest, true⟩) ∧
        (e.recordOpen = false → s.stepExcess r = (withRun ⟨30, some start, highest, true⟩).raise
          { category := .shortTermExcess, startStamp := start, impaired := current.impaired
            segment := some ⟨current.segmentId, current.cls, current.scope⟩ })))) ∧
  (∀ (s : State) (r : SegmentRecord) (stop : Stamp),
    let e := s.loudness.excess
    let fallen := if e.recordOpen then (s.setLoudness { s.loudness with
        excess := { e with recordOpen := false } }).closeBreach .shortTermExcess stop e.maximum s.segments.current.impaired
      else s
    (∀ c, s.loudness.segmentCtx = some c →
      let closed := if s.loudness.peakRaised then
          fallen.closeBreach .peakExcess stop (some (peakFigure (greatestOf c.peaks))) r.impaired
        else fallen
      s.closeSegmentContext r stop = (closed.setLoudness { s.loudness with
          segmentCtx := none, peakRaised := false, excess := ⟨0, none, none, false⟩
          programmeCtx := s.loudness.programmeCtx.map (fun p => if r.opening.programme = some p.opening then
            { p with maxShortTerm := maxFigure p.maxShortTerm c.maxShortTerm } else p) },
        some { c with endStamp := some stop, impaired := r.impaired })) ∧
    (s.loudness.segmentCtx = none → (s.closeSegmentContext r stop).2 = none)) ∧
  (∀ (s : State) (p : Programme), s.closeProgrammeContext p = (s.setLoudness { s.loudness with programmeCtx := none },
    s.loudness.programmeCtx.map (fun c => { c with endStamp := p.endStamp, impaired := p.impaired })))

/-- The Loudness Unit's account of a run. A sample position moves the filters, square sums, peak maxima and last stamp
of the sub-block in progress, LFE left out (R43 to R47, R65); each filter section answers the exact sum of its products
rounded to the nearest, a tie to the even (R45, R46). A completed sub-block's record, ring, block chain, momentary and
short-term figures, signature and own history follow (R47 to R54, R56 to R58), and sound present is handed to the
Caption Checker (R55). A discontinuity gives up what depends on the run (R44). That an empty list of filters, peak
histories, sums or peaks stands for all zero is log 38's choice; that the segment record gathers the impaired mark
before the sub-block is completed and judged is log 50's. -/
def Obligations.SubBlockMeasures : Prop :=
  (∀ (l : LoudnessUnit) (position : List Int) (stamp : Stamp),
    let t := l.takePosition position stamp
    let x := if position.length = 6 then position.take 3 ++ position.drop 4 else position
    let filters := if l.filters = [] then List.replicate x.length ⟨⟨0, 0, 0, 0⟩, ⟨0, 0, 0, 0⟩⟩ else l.filters
    let histories := if l.peakHistory = [] then List.replicate x.length [] else l.peakHistory
    (l.inProgress = none → t = l) ∧
    (∀ b, l.inProgress = some b →
      t.filters = List.zipWith ChannelFilter.next filters x ∧
      t.peakHistory = List.zipWith rememberSample histories x ∧
      t.inProgress = some { b with
        sums := List.zipWith (fun sum (f : ChannelFilter) => sum + f.highPass.out1.natAbs ^ 2)
          (if b.sums = [] then List.replicate x.length 0 else b.sums) t.filters
        peaks := List.zipWith max (if b.peaks = [] then List.replicate x.length 0 else b.peaks)
          (List.zipWith creditedMagnitude histories x)
        lastStamp := stamp } ∧
      t = { l with filters := t.filters, peakHistory := t.peakHistory, inProgress := t.inProgress })) ∧
  (∀ (f : ChannelFilter) (sample : Int),
    let rounded := fun (y x : Int) => 2 * (y * 2 ^ 30 - x).natAbs ≤ 2 ^ 30 ∧
      (2 * (y * 2 ^ 30 - x).natAbs = 2 ^ 30 → y % 2 = 0)
    let passes := fun (c : Coefficients) (before after : Section) (x : Int) =>
      after.in1 = x ∧ after.in2 = before.in1 ∧ after.out2 = before.out1 ∧
        rounded after.out1 (c.b0 * x + c.b1 * before.in1 + c.b2 * before.in2 - c.a1 * before.out1 - c.a2 * before.out2)
    passes shelfCoefficients f.shelf (f.next sample).shelf (sample * 2 ^ 9) ∧
    passes highPassCoefficients f.highPass (f.next sample).highPass (f.next sample).shelf.out1) ∧
  (let nearest := fun (c value : Int) => 2 * (c * 10 ^ 14 - value * 2 ^ 30).natAbs ≤ 10 ^ 14
    let shelf := shelfCoefficients
    let highPass := highPassCoefficients
    nearest shelf.b0 153512485958697 ∧ nearest shelf.b1 (-269169618940638) ∧ nearest shelf.b2 119839281085285 ∧
    nearest shelf.a1 (-169065929318241) ∧ nearest shelf.a2 73248077421585 ∧
    highPass.b0 = 2 ^ 30 ∧ highPass.b1 = -2 ^ 31 ∧ highPass.b2 = 2 ^ 30 ∧
    nearest highPass.a1 (-199004745483398) ∧ nearest highPass.a2 99007225036621 ∧
    nearest surroundWeight 141253754000000) ∧
  (∀ (b : SubBlockInProgress) (impaired : Bool),
    let r := b.record impaired
    let square := fun (sum : Nat) => sum / (min 4800 (2 ^ 40 - b.start.toNat) * 2 ^ 16)
    r = ⟨b.start, r.energy, loudnessOf r.energy, b.opening, impaired, b.lastStamp⟩ ∧
    (∀ x, b.sums = [x] → r.energy = square x) ∧ (∀ x y, b.sums = [x, y] → r.energy = square x + square y) ∧
    (∀ v w x y z, b.sums = [v, w, x, y, z] → r.energy =
      ((square v + square w + square x) * 2 ^ 30 + (square y + square z) * surroundWeight) / 2 ^ 30)) ∧
  (∀ l : LoudnessUnit, l.discontinue = { l with
    inProgress := none, filters := [], peakHistory := [], chain := [], ring := [], momentary := none, shortTerm := none
    lastSub := none }) ∧
  (∀ (s : State) (mark : Bool) (g : MediaTime),
    (s.loudness.inProgress = none → s.endSubBlock mark g = s) ∧
    (∀ b, s.loudness.inProgress = some b →
      s.endSubBlock mark g = (s.setSegments (s.segments.gather mark)).completeSubBlock b mark g)) ∧
  (∀ (l : LoudnessUnit) (start : MediaTime) (opening : Opening) (stamp : Stamp),
    l.startSubBlock start opening stamp = { l with inProgress := some ⟨start, opening, [], [], stamp⟩ }) ∧
  (∀ (s : State) (b : SubBlockInProgress) (impaired : Bool) (g : MediaTime),
    let t := s.completeSubBlock b impaired g
    let r := b.record impaired
    let ring := newest 30 (s.loudness.ring ++ [r])
    let chain := newest 4 (s.loudness.chain ++ [r])
    let mean := fun (l : List SubBlock) => loudnessOf ((l.map (fun x => x.energy)).sum / l.length)
    let figure := if ring.length < 10 then none else some (mean ring)
    let second : MediaTime := BitVec.ofNat 40 (r.start.toNat / 48000 * 48000)
    let fresh : SignatureAccumulator := ⟨second, List.replicate 10 none, false⟩
    let held := match s.loudness.signature with
      | none => fresh
      | some a => if a.second = second then a else fresh
    let rises := fun (last : MediaTime × Int) =>
      decide (last.1 + BitVec.ofNat 40 (min 4800 (2 ^ 40 - last.1.toNat)) = r.start ∧ last.2 + 50 ≤ r.loudness)
    let positions := held.positions.set (r.start.toNat % 48000 / 4800) (some (r.loudness, s.loudness.lastSub.any rises))
    t.loudness.ring = ring ∧ t.loudness.chain = chain ∧ t.loudness.shortTerm = figure ∧
    (chain.length < 4 → t.loudness.momentary = s.loudness.momentary) ∧
    (chain.length = 4 → t.loudness.momentary = some (mean chain)) ∧
    t.loudness.lastSub = some (r.start, r.loudness) ∧
    t.loudness.inProgress = s.loudness.inProgress ∧ t.loudness.filters = s.loudness.filters ∧
    t.loudness.peakHistory = s.loudness.peakHistory ∧
    (∃ u : State, u.captions = s.captions ∧ u.startup = s.startup ∧ u.segments = s.segments ∧
      t.captions = (u.judgeCaptions ⟨r.start, figure.any (fun x => s.config.soundThreshold ≤ x), impaired,
        r.lastStamp⟩).captions) ∧
    (g.toNat % 48000 ≠ 0 → t.loudness.signature = some ⟨second, positions, held.impaired || impaired⟩ ∧
      t.loudness.ownHistory = s.loudness.ownHistory ∧ t.link.unsent = s.link.unsent) ∧
    (g.toNat % 48000 = 0 → t.loudness.signature = none ∧ ∃ signature : Signature,
      signature.second = BitVec.ofNat 32 (r.lastStamp.time / 1000000) ∧
      (∀ k, k < 10 → (signature.trend.getLsbD k = true ↔ ∃ x, positions[k]? = some (some (x, true)))) ∧
      (figure = none → signature.level = -70) ∧
      (∀ x, figure = some x → ∃ n : Int, 100 * n - 50 ≤ x ∧ x < 100 * n + 50 ∧ signature.level = max (-70) (min 10 n)) ∧
      signature.impaired = (held.impaired || impaired) ∧
      (∀ older last, s.loudness.ownHistory = older ++ [last] → last.second = signature.second →
        t.loudness.ownHistory = older ++ [signature]) ∧
      ((∀ last, s.loudness.ownHistory.getLast? = some last → last.second ≠ signature.second) →
        t.loudness.ownHistory = newest 16 (s.loudness.ownHistory ++ [signature])) ∧
      t.link.unsent.map (fun e => e.signature) = newest 8
        (((s.link.unsent.map (fun e => e.signature)).filter (fun x => x.second != signature.second)) ++ [signature])))

/-- What a formed verdict meets (R72, R74, R75, R76): with the mark clear it is issued OWN, offered as a VERDICT notice (R77)
and its loudness checked against its profile's band; impaired and REGIONAL it is issued UNMEASURED with MEASUREMENT_LOST;
impaired and NATIONAL it is issued PROXY with the figures of the candidate of the lowest station number, or, with no candidate
in the verdict cache, it is not issued and waits in the pending list, whose first entry a fifth one resolves UNMEASURED, unless
its deadline already lies behind shelf time, which resolves it at once (R161).
A VERDICT notice of a peer of the own service enters the cache and resolves the pending verdicts it is a candidate for, in list
order (R160, R162). The model's choices: the notice is offered before the loudness check (log 37), the arrival stamp of a cached
verdict is that of its frame's start (log 51), and a peer's cached verdicts are checked in cache order, oldest first (log 52). -/
def Obligations.VerdictRouting : Prop :=
  (∀ (s : State) (v : Verdict) (proxy : Bool),
    let profile := s.config.profile v.cls
    let requested := fun (category : Category) (i : Int) => s.raise
      { category := category, startStamp := v.startStamp, endStamp := some v.endStamp, figure := some i
        segment := some ⟨v.id, v.cls, v.scope⟩, proxy := proxy }
    (v.figures.integrated = none → s.checkLoudness v proxy = s) ∧
    (∀ i, v.figures.integrated = some i →
      (profile.target + profile.tolerance < i → s.checkLoudness v proxy = requested .loudnessHigh i) ∧
      (i < profile.target - profile.tolerance → s.checkLoudness v proxy = requested .loudnessLow i) ∧
      (profile.target - profile.tolerance ≤ i → i ≤ profile.target + profile.tolerance → s.checkLoudness v proxy = s))) ∧
  (∀ (s : State) (v : Verdict),
    let t := s.deal v
    let profile := s.config.profile v.cls
    let lost := fun (u : State) (w : Verdict) => (u.issue { w with source := .unmeasured }).raise
      { category := .measurementLost, startStamp := w.startStamp, endStamp := some w.endStamp
        segment := some ⟨w.id, w.cls, w.scope⟩ }
    let candidate := fun (c : CacheEntry) => c ∈ s.peers.cache ∧ c.verdict.kind = v.kind ∧ c.verdict.id = v.id ∧
      c.verdict.impaired = false ∧ ∃ e d, s.peer? c.sender = some e ∧ e.relation = .common d
    let entry : PendingVerdict := ⟨v, v.endStamp.time + s.config.proxyWait * second⟩
    let placed := fun (list : List PendingVerdict) => ∃ ahead behind, list = ahead ++ behind ∧
      t.peers.pendingVerdicts = ahead ++ entry :: behind ∧
      (∀ y ∈ ahead, y.verdict.endStamp.time ≤ v.endStamp.time) ∧
      (∀ y, behind.head? = some y → v.endStamp.time < y.verdict.endStamp.time)
    (v.impaired = false →
      t.verdicts.history = newest 16 (s.verdicts.history ++ [{ v with source := .own, serial := s.verdicts.nextSerial }]) ∧
      t = (((s.issue { v with source := .own }).offer (.verdict ⟨v.kind, v.id, v.cls, v.scope, v.startStamp, v.endStamp,
        v.figures, v.coverage, false⟩) []).checkLoudness { v with source := .own } false) ∧
      (s.log.records.length < 127 → ∀ i, v.figures.integrated = some i →
        (profile.target + profile.tolerance < i → ∃ r ∈ t.log.records, r.category = .loudnessHigh ∧
          r.startStamp = v.startStamp ∧ r.endStamp = some v.endStamp ∧ r.figure = some i ∧ r.segmentId = v.id) ∧
        (i < profile.target - profile.tolerance → ∃ r ∈ t.log.records, r.category = .loudnessLow ∧
          r.startStamp = v.startStamp ∧ r.endStamp = some v.endStamp ∧ r.figure = some i ∧ r.segmentId = v.id) ∧
        (profile.target - profile.tolerance ≤ i → i ≤ profile.target + profile.tolerance → t.log = s.log)) ∧
      (v.figures.integrated = none → t.log = s.log)) ∧
    (v.impaired = true → v.scope = .regional → t = lost s v ∧
      t.verdicts.history =
        newest 16 (s.verdicts.history ++ [{ v with source := .unmeasured, serial := s.verdicts.nextSerial }]) ∧
      (s.log.records.length < 128 → ∃ r ∈ t.log.records, r.category = .measurementLost ∧
        r.startStamp = v.startStamp ∧ r.endStamp = some v.endStamp ∧ r.figure = none ∧ r.segmentId = v.id)) ∧
    (v.impaired = true → v.scope = .national → (∀ c, ¬ candidate c) → entry.deadline < s.now →
      (s.peers.pendingVerdicts.length < 4 → t = lost s v) ∧
      (∀ first rest, s.peers.pendingVerdicts = first :: rest → 3 ≤ rest.length →
        t = lost (lost (s.setPeers { s.peers with pendingVerdicts := rest }) first.verdict) v)) ∧
    (v.impaired = true → v.scope = .national → (∀ c, ¬ candidate c) → s.now ≤ entry.deadline →
      (s.peers.pendingVerdicts.length < 4 → placed s.peers.pendingVerdicts ∧
        t = s.setPeers { s.peers with pendingVerdicts := t.peers.pendingVerdicts }) ∧
      (∀ first rest, s.peers.pendingVerdicts = first :: rest → 3 ≤ rest.length → placed rest ∧
        ∃ u, u = lost (s.setPeers { s.peers with pendingVerdicts := rest }) first.verdict ∧
          t = u.setPeers { u.peers with pendingVerdicts := t.peers.pendingVerdicts })) ∧
    (∀ c, v.impaired = true → v.scope = .national → candidate c →
      (∀ x, candidate x → x ≠ c → c.sender.toNat < x.sender.toNat) →
      t = s.resolveProxy v c ∧ t.verdicts.history = newest 16 (s.verdicts.history ++
        [{ v with figures := c.verdict.figures, source := .proxy c.sender, serial := s.verdicts.nextSerial }]) ∧
      t.peers.pendingVerdicts = s.peers.pendingVerdicts ∧ t.peers.cache = s.peers.cache)) ∧
  (∀ (s : State) (v : Verdict) (c : CacheEntry),
    let adopted := { v with figures := c.verdict.figures, source := .proxy c.sender }
    s.resolveProxy v c = (s.issue adopted).checkLoudness adopted true) ∧
  (∀ (s : State) (station : Byte) (rx : FrameRx) (v : VerdictNotice),
    let c : CacheEntry := ⟨station, v, rx.stamp⟩
    let accepted := ∃ e p, s.peer? station = some e ∧ e.status = some p ∧ p.serviceId = s.config.serviceId
    (¬ accepted → s.takeVerdict station rx v = s) ∧
    (accepted → s.takeVerdict station rx v = (s.setPeers { s.peers with
      cache := newest 8 (s.peers.cache.filter (fun x => !decide (x.sender = station ∧ x.verdict.kind = v.kind ∧
        x.verdict.id = v.id)) ++ [c]) }).checkEntry c)) ∧
  (∀ (s : State) (c : CacheEntry),
    let fits := fun (e : PendingVerdict) => c.verdict.kind = e.verdict.kind ∧ c.verdict.id = e.verdict.id ∧
      c.verdict.impaired = false ∧ ∃ x d, s.peer? c.sender = some x ∧ x.relation = .common d
    ((∀ e ∈ s.peers.pendingVerdicts, ¬ fits e) → s.checkEntry c = s) ∧
    (∀ older e newer, s.peers.pendingVerdicts = older ++ e :: newer → (∀ x ∈ older, ¬ fits x) → fits e →
      s.checkEntry c = ((s.setPeers { s.peers with pendingVerdicts := older ++ newer }).resolveProxy e.verdict c).checkEntry
        c)) ∧
  (∀ (s : State) (station : Byte), s.checkPeerCache station =
    (s.peers.cache.filter (fun c => c.sender == station)).foldl (fun t c => t.checkEntry c) s)

/-! ### Captions -/

/-- The caption timeline: the entry of a CAPTION payload, field by field (R81); an entry at or after the newest is appended,
the oldest of sixteen leaving; an earlier one is late and only counted (R82). A shown caption is the last entry at or before the
time, with text, whose end has not come (R83). -/
def Obligations.CaptionTimeline : Prop :=
  (∀ p : List Byte,
    let e := readCaption p
    e.presentation.toNat = natAt p 0 5 ∧
    (natAt p 5 2 = 0 → e.stop = none) ∧
    (natAt p 5 2 ≠ 0 → ∃ x, e.stop = some x ∧ x.toNat = (natAt p 0 5 + 48 * natAt p 5 2) % 2 ^ 40) ∧
    e.textLength = natAt p 10 2 ∧ e.language.toNat = natAt p 7 3 ∧
    (natAt p 10 2 = 0 → e.digest = none) ∧
    (natAt p 10 2 ≠ 0 → e.digest = some (crc16 ((p.drop 12).take (natAt p 10 2))))) ∧
  (∀ (c : CaptionChecker) (payload : List Byte),
    let e := readCaption payload
    (c.timeline = [] → c.takeCaption payload = { c with timeline := [e] }) ∧
    (∀ older last, c.timeline = older ++ [last] →
      (0 ≤ (e.presentation - last.presentation).toInt → older.length < 15 →
        c.takeCaption payload = { c with timeline := c.timeline ++ [e] }) ∧
      (0 ≤ (e.presentation - last.presentation).toInt → older.length = 15 →
        c.takeCaption payload = { c with timeline := c.timeline.drop 1 ++ [e] }) ∧
      ((e.presentation - last.presentation).toInt < 0 →
        c.takeCaption payload = { c with lateCount := min (c.lateCount + 1) 4294967295 }))) ∧
  (∀ (older newer : List CaptionEntry) (e : CaptionEntry) (t : MediaTime),
    (e.presentation - t).toInt ≤ 0 → (∀ x ∈ newer, 0 < (x.presentation - t).toInt) →
    ((e.textLength ≠ 0 ∧ (e.stop = none ∨ ∃ x, e.stop = some x ∧ (t - x).toInt < 0)) →
      shownIdentity (older ++ e :: newer) t = some ⟨e.digest.getD 0, e.language⟩) ∧
    ((e.textLength = 0 ∨ ∃ x, e.stop = some x ∧ 0 ≤ (t - x).toInt) → shownIdentity (older ++ e :: newer) t = none)) ∧
  (∀ (timeline : List CaptionEntry) (t : MediaTime), (∀ x ∈ timeline, 0 < (x.presentation - t).toInt) →
    shownIdentity timeline t = none)

/-- The evaluation of a sub-block at its probe time (R84, R85) and what a checked segment's sub-block does: the gap timer and
the stuck timer row by row of their tables, with the opening and the closing of their records (R87 to R91), and the coverage
counts (R92). The segment opening (R86), the programme's sums (R93), the coverage handed on (R94) and the segment close (R95). -/
def Obligations.CaptionTimers : Prop :=
  (∀ (s : State) (r : CheckingRecord) (j : Judgement) (i : CaptionIdentity),
    let gapLimit := s.config.gapLimit * 10
    let stuckLimit := s.config.stuckLimit * 10
    let gap := s.captions.gap
    let stuck := s.captions.stuck
    let note := s.segments.current.impaired
    let withGap := fun g : GapTimer => s.setCaptions { s.captions with gap := g }
    let withStuck := fun k : StuckTimer => s.setCaptions { s.captions with stuck := k }
    let opens := fun (u : State) (category : Category) (start : Stamp) => u.raise
      { category := category, startStamp := start, segment := some ⟨r.segmentId, r.cls, r.scope⟩, impaired := note }
    let afterGap := fun u : State => u.setCaptions { u.captions with gap := ⟨0, none, false⟩ }
    let closedGap := (s.setCaptions { s.captions with
      gap := { gap with recordOpen := false }, absentNote := false }).closeBreach .captionAbsent j.lastStamp none
        s.captions.absentNote
    let closedStuck := (s.setCaptions { s.captions with
      stuck := { stuck with recordOpen := false }, stuckNote := false }).closeBreach .captionStuck j.lastStamp none
        s.captions.stuckNote
    let changed := if stuck.recordOpen then closedStuck else s
    let afterStuck := fun k : StuckTimer => changed.setCaptions { changed.captions with stuck := k }
    (gap.recordOpen = false → s.gapStep r j (some i) = afterGap s) ∧
    (gap.recordOpen = true → s.gapStep r j (some i) = afterGap closedGap) ∧
    ((j.sound = false ∨ j.impaired = true) → s.gapStep r j none = s) ∧
    (j.sound = true → j.impaired = false → 2 ≤ gapLimit →
      (gap.count = 0 → s.gapStep r j none = withGap { gap with count := 1, runStart := some j.lastStamp }) ∧
      (1 ≤ gap.count → gap.count + 1 < gapLimit → s.gapStep r j none = withGap { gap with count := gap.count + 1 }) ∧
      (∀ start, gap.count + 1 = gapLimit → gap.runStart = some start → gap.recordOpen = false → 1 ≤ gap.count →
        s.gapStep r j none = opens (s.setCaptions { s.captions with
          gap := ⟨gapLimit, some start, true⟩, absentNote := note }) .captionAbsent start ∧
        (s.gapStep r j none).captions.gap = ⟨gapLimit, some start, true⟩ ∧
        (s.log.records.length < 127 → ∃ x ∈ (s.gapStep r j none).log.records, x.category = .captionAbsent ∧
          x.isOpen = true ∧ x.startStamp = start ∧ x.segmentId = r.segmentId)) ∧
      (gapLimit ≤ gap.count → gap.recordOpen = true → s.gapStep r j none = s)) ∧
    (s.stuckStep r j none = afterStuck ⟨none, 0, none, false⟩) ∧
    (stuck.held ≠ some i → s.stuckStep r j (some i) =
      afterStuck (if j.sound then ⟨some i, 1, some j.lastStamp, false⟩ else ⟨some i, 0, none, false⟩)) ∧
    (stuck.held = some i → j.sound = false → s.stuckStep r j (some i) = s) ∧
    (stuck.held = some i → j.sound = true → 2 ≤ stuckLimit →
      (stuck.count = 0 →
        s.stuckStep r j (some i) = withStuck { stuck with count := 1, runStart := some j.lastStamp }) ∧
      (1 ≤ stuck.count → stuck.count + 1 < stuckLimit →
        s.stuckStep r j (some i) = withStuck { stuck with count := stuck.count + 1 }) ∧
      (∀ start, stuck.count + 1 = stuckLimit → stuck.runStart = some start → stuck.recordOpen = false →
        1 ≤ stuck.count →
        s.stuckStep r j (some i) = opens (s.setCaptions { s.captions with
          stuck := ⟨some i, stuckLimit, some start, true⟩, stuckNote := note }) .captionStuck start ∧
        (s.stuckStep r j (some i)).captions.stuck = ⟨some i, stuckLimit, some start, true⟩ ∧
        (s.log.records.length < 127 → ∃ x ∈ (s.stuckStep r j (some i)).log.records, x.category = .captionStuck ∧
          x.isOpen = true ∧ x.startStamp = start ∧ x.segmentId = r.segmentId)) ∧
      (stuckLimit ≤ stuck.count → stuck.recordOpen = true → s.stuckStep r j (some i) = s))) ∧
  (∀ (s : State) (j : Judgement),
    let shown := shownIdentity s.captions.timeline (j.start + BitVec.ofNat 40 (min 4800 (2 ^ 40 - j.start.toNat) - 1))
    let paired := s.setCaptions { s.captions with
      pairShown := shown.isSome, pairDigest := (shown.map (fun i => i.digest)).getD 0 }
    ((∀ r, s.captions.checking = some r → r.checked = false) → s.judgeCaptions j = paired) ∧
    (∀ r, s.captions.checking = some r → r.checked = true →
      let noted := paired.setCaptions { paired.captions with
        absentNote := s.captions.absentNote || (j.impaired && s.captions.gap.recordOpen)
        stuckNote := s.captions.stuckNote || (j.impaired && s.captions.stuck.recordOpen) }
      let timed := (noted.gapStep r j shown).stuckStep r j shown
      s.judgeCaptions j = timed.setCaptions { timed.captions with
        soundCount := if j.sound = true ∧ s.captions.soundCount < 4294967295 then s.captions.soundCount + 1
          else s.captions.soundCount
        coveredCount := if j.sound = true ∧ s.captions.soundCount < 4294967295 ∧ shown ≠ none then
            s.captions.coveredCount + 1
          else s.captions.coveredCount })) ∧
  (∀ (s : State) (stop : Stamp) (programme : Option Nat),
    let t := s.closeCaptions stop programme
    let c := s.captions
    let tied := ∃ r, c.checking = some r ∧ r.checked = true ∧ r.opening.programme = programme ∧ programme ≠ none
    let share := fun (covered sound : Nat) => if sound = 0 then none else some (covered * 1000 / sound)
    let first := if c.gap.recordOpen then (s.setCaptions { c with
        gap := { c.gap with recordOpen := false }, absentNote := false }).closeBreach .captionAbsent stop none c.absentNote
      else s
    let second := if c.stuck.recordOpen then (first.setCaptions { first.captions with
        stuck := { c.stuck with recordOpen := false }, stuckNote := false }).closeBreach .captionStuck stop none c.stuckNote
      else first
    let given := fun (sound covered : Nat) (checked : Bool) => second.setCaptions { c with
      checking := none, gap := ⟨0, none, false⟩, stuck := ⟨none, 0, none, false⟩, absentNote := false, stuckNote := false
      soundCount := 0, coveredCount := 0, progSound := sound, progCovered := covered, progChecked := checked }
    (¬ tied → t.1 = given c.progSound c.progCovered c.progChecked) ∧
    (tied → t.1 = given (min (c.progSound + c.soundCount) 4294967295)
      (min (c.progCovered + c.coveredCount) (min (c.progSound + c.soundCount) 4294967295)) true) ∧
    ((∃ r, c.checking = some r ∧ r.checked = true) → t.2 = share c.coveredCount c.soundCount) ∧
    ((∀ r, c.checking = some r → r.checked = false) → t.2 = none) ∧
    (c.progChecked = true → c.programmeCoverage = share c.progCovered c.progSound) ∧
    (c.progChecked = false → c.programmeCoverage = none)) ∧
  (∀ (c : CaptionChecker) (config : WorkingCopy) (r : SegmentRecord),
    c.openProgramme = { c with progSound := 0, progCovered := 0, progChecked := false } ∧
    c.openSegment config r = { c with
      checking := some ⟨r.opening, r.segmentId, r.cls, r.scope, (config.profile r.cls).captionCheck && r.captions⟩
      gap := ⟨0, none, false⟩, stuck := ⟨none, 0, none, false⟩, absentNote := false, stuckNote := false
      soundCount := 0, coveredCount := 0 })

/-! ### Recorder -/

/-- Writing (R100, R102): the unit in hand, its write complete, stands last in the current page, whose fill, count and
stamps follow, and leaves the input queue; a MARK unit whose turn has come is written likewise, 40 bytes of the page; it
waits while a unit that goes before it waits. A unit that does not fit, or finds no page, is preceded by a new page; a
unit that does not fit is left unwritten when no further page can be begun (R101). The model's choices: a MARK unit's
media time is read at the writing and the MARK unit counts as a unit written (log 8), the unit left unwritten leaves the
queue at once (log 21), MARK units are not written in FAULT (log 23), the commands change nothing with no unit in hand
or no MARK unit due (log 1). -/
def Obligations.RecorderWriting : Prop :=
  ∀ s : State,
    let after := fun (p : Page) (u : RecordedUnit) => { p with
      units := p.units ++ [u]
      first := if p.units = [] then some u.arrival else p.first
      last := some u.arrival }
    let appended := fun (t : State) (i : Nat) (p : Page) (u : RecordedUnit) =>
      t.recorder.page? i = some (after p u) ∧ (after p u).fill = p.fill + (24 + u.bytes.length) ∧
      (after p u).unitCount = p.unitCount + 1 ∧ (∀ j, j ≠ i → t.recorder.page? j = s.recorder.page? j) ∧
      t.recorder.lastMedia = u.mediaTime ∧ t.recorder.slots = s.recorder.slots ∧ t.recorder.counter = s.recorder.counter ∧
      t.recorder.current = s.recorder.current ∧ t.recorder.pinnedTotal = s.recorder.pinnedTotal
    (∀ u i p, s.recorder.writing = some u → s.recorder.current = some i → s.recorder.page? i = some p →
      ∃ t, exec .recorderWriteComplete s = .next t ∧ appended t i p u ∧ t.recorder.writing = none ∧
        t.recorder.marks = s.recorder.marks ∧ t.port = { s.port with queue := s.port.queue.drop 1 } ∧
        t = (s.setRecorder t.recorder).setPort t.port) ∧
    (s.recorder.writing = none → exec .recorderWriteComplete s = .next s) ∧
    (∀ m rest i p, s.recorder.marks = m :: rest → s.startup.station ≠ .fault → s.recorder.writing = none →
      (∀ u ∈ s.port.queue, m.place ≤ u.serial) → s.recorder.current = some i → s.recorder.page? i = some p →
      p.fill + 40 ≤ 65536 →
      ∃ t u, exec .markUnitWrite s = .next t ∧ appended t i p u ∧ t.recorder.marks = rest ∧
        u = ⟨.mark, false, m.stamp, m.media.getD s.recorder.lastMedia, markBytes m⟩ ∧ u.bytes.length = 16 ∧
        t.recorder.writing = none ∧ t = s.setRecorder t.recorder) ∧
    (∀ m rest, s.recorder.marks = m :: rest →
      (s.startup.station = .fault ∨ s.recorder.writing ≠ none ∨ ∃ u ∈ s.port.queue, u.serial < m.place) →
      exec .markUnitWrite s = .next s) ∧
    (s.recorder.marks = [] → exec .markUnitWrite s = .next s) ∧
    (∀ (u : RecordedUnit) i p, s.recorder.current = some i → s.recorder.page? i = some p →
      (p.fill + (24 + u.bytes.length) ≤ 65536 →
        s.recordUnit u = s.setRecorder { s.recorder with writing := some u }) ∧
      (65536 < p.fill + (24 + u.bytes.length) → s.recorder.counter < 2 ^ 48 →
        s.recordUnit u = (s.beginPage u.arrival).setRecorder { (s.beginPage u.arrival).recorder with writing := some u }) ∧
      (65536 < p.fill + (24 + u.bytes.length) → 2 ^ 48 ≤ s.recorder.counter →
        s.recordUnit u = s.setPort { s.port with queue := s.port.queue.drop 1 })) ∧
    (∀ u : RecordedUnit, s.recorder.currentPage = none → s.recorder.counter < 2 ^ 48 →
      s.recordUnit u = (s.beginPage u.arrival).setRecorder { (s.beginPage u.arrival).recorder with writing := some u })

/-- Beginning a page (R101, R108): there is always a page to choose, it is the lowest never-written one or else the unpinned
one with the lowest sequence number; it takes the counter's value, is empty and becomes the current page, pinned by every
OPEN hold while the budget has room. At the full budget (R115) the CLOSED holds of lower priority are evicted in their order up
to the first that returns a page, the OPEN holds gaining EVICTED_OTHERS; where none would, every OPEN hold is truncated and the
page begun unpinned. That the page is chosen and begun before the eviction is log 13's choice; that the holds are tried as a
growing part of the order is log 14's reading. -/
def Obligations.PageBegun : Prop :=
  (∀ r : Recorder, r.Within → ∃ i, r.chosenPage = some i ∧ i < 65536 ∧
    ((r.page? i = none ∧ ∀ j, j < i → r.page? j ≠ none) ∨
      ((∀ j, j < 65536 → r.page? j ≠ none) ∧
        ∃ p ∈ r.pages, p.index = i ∧ p.pins = 0 ∧ ∀ q ∈ r.pages, q.pins = 0 → p.seq ≤ q.seq))) ∧
  (∀ (s : State) (stamp : Stamp) (i priority : Nat), s.recorder.chosenPage = some i →
    (∀ h ∈ s.recorder.openHolds, h.priority.number ≤ priority) →
    (s.recorder.openHolds ≠ [] → ∃ h ∈ s.recorder.openHolds, h.priority.number = priority) →
    let t := s.beginPage stamp
    let order := s.recorder.evictable priority
    let freed := fun (l : List Nat) => l.foldl Recorder.freeHold (s.recorder.beginUnpinned i)
    t.recorder.current = some i ∧ t.recorder.counter = s.recorder.counter + 1 ∧ KeepsMeasured s t ∧
    (∃ p, t.recorder.page? i = some p ∧ p.seq = s.recorder.counter ∧ p.units = [] ∧ p.first = none ∧ p.last = none ∧
      (s.recorder.openHolds = [] → p.pins = 0 ∧ t.recorder.pinnedTotal = s.recorder.pinnedTotal) ∧
      (s.recorder.openHolds ≠ [] → s.recorder.pinnedTotal < 61440 →
        p.pins = s.recorder.openHolds.length ∧ t.recorder.pinnedTotal = s.recorder.pinnedTotal + 1 ∧
        t.recorder.slots = s.recorder.slots.map (fun x => { x with hold := x.hold.map (fun h =>
          if h.isOpen then { h with pinned := h.pinned + 1 } else h) })) ∧
      (∀ before n after, s.recorder.openHolds ≠ [] → 61440 ≤ s.recorder.pinnedTotal → order = before ++ n :: after →
        (freed (before ++ [n])).pinnedTotal < s.recorder.pinnedTotal →
        (∀ k, k < before.length → s.recorder.pinnedTotal ≤ (freed (before.take (k + 1))).pinnedTotal) →
        let evicted := before ++ [n]
        p.pins = s.recorder.openHolds.length ∧ t.recorder.pinnedTotal = (freed evicted).pinnedTotal + 1 ∧
        (∀ j, j ≠ i → t.recorder.page? j = (freed evicted).page? j) ∧
        t.recorder.slots = s.recorder.slots.mapIdx (fun k x => if k ∈ evicted then { x with hold := none } else
          { x with hold := x.hold.map (fun h => if h.isOpen then
            { h with pinned := h.pinned + 1, flags := { h.flags with evictedOthers := true } } else h) }) ∧
        t.log.records = s.log.records.map (fun r =>
          if evicted.any (fun k => (s.recorder.hold? k).any (fun h => h.breach == some r.number)) then
            { r with hold := none, flags := { r.flags with holdEvicted := true } }
          else r)) ∧
      (∀ c, s.recorder.openHolds ≠ [] → 61440 ≤ s.recorder.pinnedTotal → s.recorder.currentPage = some c →
        (∀ k, k < order.length → s.recorder.pinnedTotal ≤ (freed (order.take (k + 1))).pinnedTotal) →
        p.pins = 0 ∧ t.recorder.pinnedTotal = s.recorder.pinnedTotal ∧
        t.recorder.slots = s.recorder.slots.map (fun x => { x with hold := x.hold.map (fun h =>
          if h.isOpen then
            { h with isOpen := false, stop := some stamp.time, last := some c.seq, closeStamp := some s.now
                     flags := { h.flags with truncated := true } }
          else h) }) ∧
        t.log.records = s.log.records.map (fun r =>
          if s.recorder.openHolds.any (fun h => h.breach == some r.number) then
            { r with flags := { r.flags with holdTruncated := true } }
          else r)))) ∧
  (∀ stamp : Stamp, (State.reset.beginPage stamp).recorder.current = some 0 ∧
    ((State.reset.beginPage stamp).recorder.page? 0).map (fun p => p.seq) = some 1)

/-- The ends of an OPEN hold (R109, R110, R111): a set end of its slot and tenure gives it its end, once; its interval
closes it when shelf time is past its end and nothing stamped up to then waits; its maximum length truncates it, unless
its end is present and no later, and its record is told. That the commands change nothing for a FREE slot or before the
moment is log 1's choice, that holds close in FAULT too is log 23's, and the last page of a truncation with no current
page is log 43's. -/
def Obligations.HoldEnds : Prop :=
  ∀ (s : State) (slot : BitVec 5),
    let n := slot.toNat
    let kept := fun (t : State) => t.recorder.tenure n = s.recorder.tenure n ∧
      (∀ m, m ≠ n → t.recorder.hold? m = s.recorder.hold? m ∧ t.recorder.tenure m = s.recorder.tenure m) ∧
      t.recorder = { s.recorder with slots := t.recorder.slots }
    (s.recorder.hold? n = none → exec (.holdIntervalClose slot) s = .next s ∧ exec (.holdMaxLengthExpiry slot) s = .next s) ∧
    (∀ h, s.recorder.hold? n = some h →
      let lastPage := ((s.recorder.current.bind s.recorder.page?).map (fun p => p.seq)).getD (h.first - 1)
      let limit := h.start + h.maxLength
      (∀ stop, h.isOpen = true → h.stop = some stop → stop < s.now → (∀ u ∈ s.port.queue, stop < u.arrival.time) →
        (∀ m ∈ s.recorder.marks, stop < m.stamp.time) →
        ∃ t, exec (.holdIntervalClose slot) s = .next t ∧
          t.recorder.hold? n = some { h with isOpen := false, last := some lastPage, closeStamp := some s.now } ∧
          kept t ∧ t = s.setRecorder t.recorder) ∧
      ((h.isOpen = false ∨ h.stop = none ∨ ∃ stop, h.stop = some stop ∧ (s.now ≤ stop ∨
          (∃ u ∈ s.port.queue, u.arrival.time ≤ stop) ∨ ∃ m ∈ s.recorder.marks, m.stamp.time ≤ stop)) →
        exec (.holdIntervalClose slot) s = .next s) ∧
      (h.isOpen = true → limit ≤ s.now → (∀ stop, h.stop = some stop → limit < stop) →
        ∃ t, exec (.holdMaxLengthExpiry slot) s = .next t ∧
          t.recorder.hold? n = some { h with
            isOpen := false, stop := some limit, last := some lastPage, closeStamp := some s.now
            flags := { h.flags with truncated := true } } ∧
          kept t ∧ (h.breach = none → t.log = s.log) ∧
          (∀ b, h.breach = some b → t.log = { s.log with records := s.log.records.map (fun r =>
            if r.number = b then { r with flags := { r.flags with holdTruncated := true } } else r) }) ∧
          t = (s.setRecorder t.recorder).setLog t.log) ∧
      ((h.isOpen = false ∨ s.now < limit ∨ ∃ stop, h.stop = some stop ∧ stop ≤ limit) →
        exec (.holdMaxLengthExpiry slot) s = .next s) ∧
      (∀ (tenure : BitVec 16) (stop : Nat),
        (tenure = s.recorder.tenure n → h.isOpen = true → h.stop = none →
          (s.setEnd ⟨n, tenure⟩ stop).recorder.hold? n =
            some { h with stop := some (min (stop + s.config.postRoll * 1000000) shelfMax) } ∧
          kept (s.setEnd ⟨n, tenure⟩ stop)) ∧
        ((tenure ≠ s.recorder.tenure n ∨ h.isOpen = false ∨ h.stop ≠ none) → s.setEnd ⟨n, tenure⟩ stop = s)))

/-- Placing a hold (R105 to R107, R112 to R114): the interval, range, state and flags of the hold to be placed; the room it
needs, the eligible holds in eviction order and the shortest leading part of them that makes room; a placement is refused
exactly when a CONTROLLER request's end is before its start or no part suffices, and then changes nothing; a placed hold takes
the lowest FREE slot under a new tenure, pins its range, flags EVICTED_OTHERS when it evicted, and the records and links of the
evicted holds are told. A refused OWN or SYMPATHETIC placement creates HOLD_REFUSED. That a page without stamps counts as not
later than the start, and not at or after it, is log 15's reading. -/
def Obligations.HoldPlacement : Prop :=
  (∀ (s : State) (p : Priority) (start : Nat) (stop : Option Nat) (breach : Option Nat),
    let placed := s.placeHold p start stop breach
    let t := placed.1
    let m := s.config.maxHold * 1000000
    let start₁ := if p = .controller then start else start - s.config.preRoll * 1000000
    let stop₁ := if p = .controller then stop else stop.map (fun x => min (x + s.config.postRoll * 1000000) shelfMax)
    let refusedAtOnce := p = .controller ∧ ∃ x, stop = some x ∧ x < start
    let tooLong := stop₁.any (fun x => decide (m < x - start₁))
    let h := s.recorder.formHold s.now p ⟨if tooLong then stop₁.getD 0 - m else start₁, stop₁, tooLong⟩ breach m
    let order := s.recorder.evictable p.number
    let freed := fun (l : List Nat) => l.foldl Recorder.freeHold s.recorder
    let enough := fun (l : List Nat) => (freed l).roomFor h = true
    (placed.2 = none → t = s) ∧
    (placed.2 = none ↔ refusedAtOnce ∨ ∀ l, l <+: order → ¬ enough l) ∧
    (¬ refusedAtOnce → enough [] → ∃ ref, placed.2 = some ref ∧
      ∀ n, n ≠ ref.slot → t.recorder.hold? n = s.recorder.hold? n) ∧
    (∀ ref, placed.2 = some ref → ∃ evicted, evicted <+: order ∧ enough evicted ∧
      (∀ l, l <+: order → l.length < evicted.length → ¬ enough l) ∧
      KeepsMeasured s t ∧ t.recorder.pinnedTotal ≤ 61440 ∧
      (freed evicted).hold? ref.slot = none ∧ (∀ n, n < ref.slot → (freed evicted).hold? n ≠ none) ∧
      ref.tenure = s.recorder.tenure ref.slot + 1 ∧ t.recorder.tenure ref.slot = ref.tenure ∧
      t.recorder.hold? ref.slot = some { h with
        pinned := (freed evicted).countPages ((freed evicted).covers h)
        flags := { h.flags with evictedOthers := !evicted.isEmpty } } ∧
      (∀ n, n ≠ ref.slot → t.recorder.hold? n = (if n ∈ evicted then none else s.recorder.hold? n) ∧
        t.recorder.tenure n = s.recorder.tenure n) ∧
      (∀ n x, s.recorder.hold? n = some x → x.isOpen = true ∨ p.number ≤ x.priority.number →
        n ≠ ref.slot ∧ t.recorder.hold? n = some x) ∧
      t.recorder = { s.recorder with
        slots := t.recorder.slots
        pinnedTotal := (freed evicted).pinnedTotal +
          (freed evicted).countPages (fun q => (freed evicted).covers h q && q.pins == 0)
        pages := (freed evicted).pages.map (fun q =>
          if (freed evicted).covers h q then { q with pins := q.pins + 1 } else q) } ∧
      t.log = { s.log with records := s.log.records.map (fun r =>
        let told := if evicted.any (fun k => (s.recorder.hold? k).any (fun x => x.breach == some r.number)) then
            { r with hold := none, flags := { r.flags with holdEvicted := true } }
          else r
        if breach = some r.number then
          { told with hold := some ref, flags := { told.flags with
              prerollShort := told.flags.prerollShort || h.flags.prerollShort
              holdTruncated := told.flags.holdTruncated || h.flags.truncated } }
        else told) } ∧
      t.peers = { s.peers with noted := s.peers.noted.map (fun e =>
        if e.hold.any (fun x => decide (x.slot ∈ evicted ∧ x.tenure = s.recorder.tenure x.slot) &&
            (s.recorder.hold? x.slot).any (fun y => y.priority == .sympathetic)) then { e with hold := none } else e) } ∧
      t = ((s.setRecorder t.recorder).setLog t.log).setPeers t.peers)) ∧
  (∀ (r : Recorder) (now : Nat) (p : Priority) (start : Nat) (stop breach : Option Nat) (truncated : Bool) (m : Nat),
    let h := r.formHold now p ⟨start, stop, truncated⟩ breach m
    h.priority = p ∧ h.start = start ∧ h.stop = stop ∧ h.breach = breach ∧ h.maxLength = m ∧
    h.flags.truncated = truncated ∧ h.flags.restartCut = false ∧
    (h.isOpen = true ↔ ∀ x, stop = some x → now ≤ x) ∧
    (h.isOpen = true → h.last = none ∧ h.closeStamp = none) ∧
    (h.isOpen = false → h.closeStamp = some now) ∧
    (∀ x, h.isOpen = false → stop = some x →
      let qualifies := fun (q : Page) => q ∈ r.pages ∧ h.first ≤ q.seq ∧ ∃ f, q.first = some f ∧ f.time ≤ x
      ((∀ q, ¬ qualifies q) → h.last = some (h.first - 1)) ∧
      (∀ q, qualifies q → (∀ y, qualifies y → y.seq ≤ q.seq) → h.last = some q.seq)) ∧
    (r.currentPage = none → h.first = r.counter ∧ h.flags.prerollShort = true) ∧
    (∀ c, r.currentPage = some c →
      let reaches := fun (q : Page) => q ∈ r.pages ∧ ∃ x, q.last = some x ∧ start ≤ x.time
      ((∀ q, ¬ reaches q) → h.first = c.seq) ∧
      (∀ q, reaches q → (∀ y, reaches y → y ≠ q → q.seq < y.seq) → h.first = q.seq ∧
        (h.flags.prerollShort = true ↔ ∃ f, q.first = some f ∧ start < f.time)))) ∧
  (∀ (r : Recorder) (h : Hold),
    (r.roomFor h = true ↔ r.pinnedTotal + (r.pages.filter (fun q => r.covers h q && q.pins == 0)).length ≤ 61440 ∧
      ∃ n, n < r.slots.length ∧ r.hold? n = none) ∧
    (∀ q : Page, r.covers h q = true ↔ h.first ≤ q.seq ∧ ((∃ last, h.last = some last ∧ q.seq ≤ last) ∨
      (h.last = none ∧ ∃ c, r.currentPage = some c ∧ q.seq ≤ c.seq))) ∧
    (∀ n, r.hold? n = some h → r.freeHold n = { r with
      pages := r.pages.map (fun q => if r.covers h q then { q with pins := q.pins - 1 } else q)
      pinnedTotal := r.pinnedTotal - (r.pages.filter (fun q => r.covers h q && q.pins == 1)).length
      slots := r.slots.mapIdx (fun k x => if k = n then { x with hold := none } else x) })) ∧
  (∀ (r : Recorder) (requester : Nat),
    (∀ n, n ∈ r.evictable requester ↔ ∃ h, r.hold? n = some h ∧ h.isOpen = false ∧ h.priority.number < requester) ∧
    (r.evictable requester).Pairwise (fun a b => ∀ x y, r.hold? a = some x → r.hold? b = some y →
      x.priority.number < y.priority.number ∨ (x.priority = y.priority ∧
        (x.closeStamp.getD 0 < y.closeStamp.getD 0 ∨ (x.closeStamp.getD 0 = y.closeStamp.getD 0 ∧ a < b))))) ∧
  (∀ (s : State) (number : Option Nat), s.log.records.length < 128 →
    ∃ r, (s.createHoldRefused number).log.records = s.log.records ++ [r] ∧ r.category = .holdRefused ∧ r.origin = .own ∧
      r.isOpen = false ∧ r.startStamp = s.nowStamp ∧ r.endStamp = some s.nowStamp ∧
      r.figure = number.map (fun n => (n : Int)) ∧ KeepsMeasured s (s.createHoldRefused number)) ∧
  (∀ (s : State) (q : BreachRequest) (number : Option Nat),
    let placed := s.placeHold .own q.startStamp.time (q.endStamp.map (fun x => x.time)) number
    ((q.category.retains = false ∨ q.origin ≠ .own) → s.holdForRecord q number = s) ∧
    (q.category.retains = true → q.origin = .own →
      (placed.2 = none → s.holdForRecord q number = s.createHoldRefused number) ∧
      (∀ ref, placed.2 = some ref → s.holdForRecord q number = placed.1.setLog { placed.1.log with
        causes := placed.1.log.causes.map (fun c =>
          if c.category = q.category ∧ q.endStamp = none then { c with hold := some ref } else c) }))) ∧
  (∀ (s : State) (start : Nat) (stop number : Option Nat),
    let placed := s.placeHold .sympathetic start stop number
    (placed.2 = none → s.placeSympathetic start stop number = (s.createHoldRefused number, none)) ∧
    (∀ ref, placed.2 = some ref → s.placeSympathetic start stop number = (placed.1, some ref)))

/-! ### Shelf link -/

/-- The line and the transmitter (R122, R124, R127, R128, R134, R138). Busy and quiet return the quiet count to 0 (log
28); a frame broken off is a fragment and not counted, one whose header stated more than 256 bytes is counted once. A
notice starts after 2 µs of quiet, or 2 µs plus the station number once it has collided; a fourth collision drops it; a
STATUS sent takes its signatures from the unsent list; a WITHDRAW sent or dropped is reported. That an event which
cannot occur in the state it meets changes nothing is log 1's choice. -/
def Obligations.LineAndTransmitter : Prop :=
  ∀ s : State,
    let link := fun (l : ShelfLink) => s.setLink l
    let sending := s.link.transmitter = .contending ∨ s.link.transmitter = .committed
    let rest := fun (q : List QueuedNotice) => if q.isEmpty then Transmitter.idle else Transmitter.waiting
    exec .lineBusy s = .next (link { s.link with busy := true, quietCount := 0 }) ∧
    (∀ received : List Byte,
      let overlong := ∃ rx, s.link.rx = some rx ∧
        (rx.overlong = true ∨ (12 ≤ received.length ∧ 256 < natAt received 2 2))
      ((sending ∨ s.link.busy = false) → exec (.lineQuiet received) s = .next s) ∧
      (¬ sending → s.link.busy = true →
        (¬ overlong → exec (.lineQuiet received) s
          = .next (link { s.link with busy := false, quietCount := 0, rx := none })) ∧
        (overlong → exec (.lineQuiet received) s = .next (link { s.link with
          busy := false, quietCount := 0, rx := none, crcErrors := addCount s.link.crcErrors 1 })))) ∧
    (s.live = true → s.link.busy = true → ¬ sending → s.link.rx = none → exec .frameStart s
      = .next (link { s.link with rx := some ⟨s.nowStamp, s.time.localCount, false⟩ })) ∧
    (s.live = false ∨ sending → exec .frameStart s = .next s) ∧
    (s.link.queue = [] → exec .attemptStart s = .next s) ∧
    (∀ q behind, s.link.queue = q :: behind →
      let quietEnough := if q.attempts = 0 then 2 ≤ s.link.quietCount
        else 2 + s.startup.config.stationNumber ≤ s.link.quietCount
      let allowed := s.startup.station = .running ∨ (s.startup.restarting = true ∧ q.notice = .withdraw)
      (s.link.transmitter = .waiting → s.link.busy = false → quietEnough → allowed →
        exec .attemptStart s = .next (link { s.link with
          transmitter := .contending, sendTime := s.now, busy := true, quietCount := 0 })) ∧
      ((¬ quietEnough ∨ ¬ allowed ∨ s.link.busy = true) → exec .attemptStart s = .next s) ∧
      (s.link.transmitter = .contending →
        (q.attempts < 3 → exec .collision s = .next (link { s.link with
          queue := { q with attempts := q.attempts + 1 } :: behind, transmitter := .waiting, quietCount := 0 })) ∧
        (3 ≤ q.attempts → ∃ t, exec .collision s = .next t ∧
          t.link = { s.link with
            queue := behind, transmitter := rest behind, quietCount := 0
            noticeDrops := addCount s.link.noticeDrops 1 } ∧
          t.startup = { s.startup with
            withdrawReported := s.startup.withdrawReported || decide (q.notice = .withdraw) } ∧
          t = (s.setLink t.link).setStartup t.startup) ∧
        exec .noticeCommitted s = .next (link { s.link with
          queue := behind, committed := some q, transmitter := .committed }))) ∧
    (s.link.transmitter ≠ .contending → exec .collision s = .next s ∧ exec .noticeCommitted s = .next s) ∧
    (∀ q, s.link.transmitter = .committed → s.link.committed = some q → ∃ t, exec .frameSent s = .next t ∧
      t.link = { s.link with
        unsent := s.link.unsent.filter (fun e => !q.carried.contains e.uid)
        committed := none, transmitter := rest s.link.queue } ∧
      t.startup = { s.startup with
        withdrawReported := s.startup.withdrawReported || decide (q.notice = .withdraw) } ∧
      t = (s.setLink t.link).setStartup t.startup) ∧
    (s.link.transmitter ≠ .committed → exec .frameSent s = .next s)

/-- An offer to the transmit queue (R131), by the first case that applies, and what a change of the queue does to the
transmitter (R127, R128). The order of the kinds is WITHDRAW, BREACH, VERDICT, STATUS (R130). -/
def Obligations.QueueOffers : Prop :=
  (∀ m : Notice, m.rank = (match m with | .withdraw => 0 | .breach _ => 1 | .verdict _ => 2 | .status _ _ => 3) ∧
    m.isStatus = (match m with | .status _ _ => true | _ => false)) ∧
  (∀ (s : State) (n : Notice) (carried : List Nat),
    let t := s.offer n carried
    let queued := fun (attempts : Nat) => (⟨s.link.nextUid, n, attempts, carried⟩ : QueuedNotice)
    let placedIn := fun (l : List QueuedNotice) => ∃ ahead behind, l = ahead ++ behind ∧
      t.link.queue = ahead ++ queued 0 :: behind ∧ (∀ y ∈ ahead, y.notice.rank ≤ n.rank) ∧
      (∀ y, behind.head? = some y → n.rank < y.notice.rank)
    let statusQueued := ∃ y ∈ s.link.queue, y.notice.isStatus = true
    (s.startup.station ≠ .running ∨ s.startup.restarting = true → t = s) ∧
    (s.startup.station = .running → s.startup.restarting = false →
      (∀ ahead y behind, n.isStatus = true → s.link.queue = ahead ++ y :: behind → y.notice.isStatus = true →
        (∀ x ∈ ahead ++ behind, x.notice.isStatus = false) →
        t.link.queue = ahead ++ queued y.attempts :: behind ∧ t.link.noticeDrops = s.link.noticeDrops) ∧
      ((n.isStatus = false ∨ ¬ statusQueued) → s.link.queue.length < 8 →
        placedIn s.link.queue ∧ t.link.noticeDrops = s.link.noticeDrops) ∧
      (n.isStatus = false → statusQueued → 8 ≤ s.link.queue.length →
        placedIn (s.link.queue.filter (fun y => !y.notice.isStatus)) ∧ t.link.noticeDrops = s.link.noticeDrops) ∧
      (¬ statusQueued → 8 ≤ s.link.queue.length →
        t.link.queue = s.link.queue ∧ t.link.noticeDrops = addCount s.link.noticeDrops 1) ∧
      (s.link.transmitter = .committed → t.link.transmitter = .committed ∧ t.link.quietCount = s.link.quietCount) ∧
      (s.link.transmitter = .idle ∨ s.link.transmitter = .waiting →
        t.link.transmitter = (if t.link.queue.isEmpty then .idle else .waiting) ∧
          t.link.quietCount = s.link.quietCount) ∧
      (s.link.transmitter = .contending →
        (t.link.queue.head?.map (fun q => q.uid) = s.link.queue.head?.map (fun q => q.uid) →
          t.link.transmitter = .contending) ∧
        (t.link.queue.head?.map (fun q => q.uid) ≠ s.link.queue.head?.map (fun q => q.uid) →
          t.link.transmitter = (if t.link.queue.isEmpty then .idle else .waiting) ∧ t.link.quietCount = 0)) ∧
      t = s.setLink t.link))

/-- The Shelf Link Controller's timers (R133, R134, R139 to R141): the status timer composes and offers a STATUS and
is rearmed by the class in force; its head is field by field that of R132, its tail the unsent list, cut to the
newest two under heavy load; the downshift deadline moves the class down one step; an upshift event moves the
deadline and takes a slower class to ALERT with a STATUS; a bucket's span ends after 10,000 ticks. Doing nothing when
not due is log 1's choice. -/
def Obligations.LinkTimers : Prop :=
  ∀ s : State,
    let offered := fun (t : State) => s.startup.restarting = false →
      (s.link.queue.length < 8 ∨ ∃ y ∈ s.link.queue, y.notice.isStatus = true) →
      ∃ q ∈ t.link.queue, q.notice = .status { s.statusHead with period := t.link.period } s.statusTail ∧
        q.carried = s.link.carriedNow.map (fun e => e.uid)
    s.statusHead = ⟨s.config.serviceId, s.config.regionGroup, s.time.source,
      decide (20000 ≤ s.time.remaining.natAbs), s.reception.state, BitVec.ofNat 8 s.reception.effective, s.link.period,
      s.segments.current.segmentId, s.segments.current.cls, s.segments.current.scope,
      BitVec.ofNat 8 (s.peers.table.filter (fun e => s.isCompanion e && e.relation.isCommon)).length,
      BitVec.ofNat 8 (s.log.records.filter (fun r => r.isOpen)).length⟩ ∧
    (∀ d, s.startup.station = .running → s.link.statusNext = some d → d ≤ s.now →
      ∃ t, exec .statusTimerExpiry s = .next t ∧ t.link.period = s.link.period ∧ t.link.downshift = s.link.downshift ∧
        t.link.statusNext = some (s.now + match s.link.period with
          | .alert => 1000000 | .steady => 4000000 | .quiet => 16000000) ∧
        offered t ∧ t = s.setLink t.link) ∧
    ((s.startup.station ≠ .running ∨ s.link.statusNext = none ∨ ∃ d, s.link.statusNext = some d ∧ s.now < d) →
      exec .statusTimerExpiry s = .next s) ∧
    (s.link.unsent = [] → s.statusTail = none) ∧
    (s.link.unsent ≠ [] → ∃ tail, s.statusTail = some tail ∧ tail.shortTerm = s.loudness.shortTerm ∧
      tail.shown = s.captions.pairShown ∧ tail.digest = s.captions.pairDigest ∧
      (s.link.occupancy.sum < 60000 → tail.signatures = s.link.unsent.map (fun e => e.signature)) ∧
      (60000 ≤ s.link.occupancy.sum →
        tail.signatures = (s.link.unsent.map (fun e => e.signature)).drop (s.link.unsent.length - 2))) ∧
    (∀ d, s.startup.station = .running → s.link.downshift = some d → d ≤ s.now →
      (s.link.period = .alert → exec .downshiftDeadline s = .next (s.setLink { s.link with
        period := .steady, downshift := some (s.now + s.startup.config.quietDelay * 1000000) })) ∧
      (s.link.period = .steady → exec .downshiftDeadline s
        = .next (s.setLink { s.link with period := .quiet, downshift := none }))) ∧
    ((s.startup.station ≠ .running ∨ s.link.downshift = none ∨ ∃ d, s.link.downshift = some d ∧ s.now < d) →
      exec .downshiftDeadline s = .next s) ∧
    (s.startup.station ≠ .running → s.upshift = s) ∧
    (s.startup.station = .running → s.link.period = .alert → s.upshift
      = s.setLink { s.link with downshift := some (s.now + s.startup.config.steadyDelay * 1000000) }) ∧
    (s.startup.station = .running → s.link.period ≠ .alert →
      s.upshift.link.period = .alert ∧
      s.upshift.link.downshift = some (s.now + s.startup.config.steadyDelay * 1000000) ∧
      s.upshift.link.statusNext = some (s.now + 1000000) ∧ offered s.upshift ∧ s.upshift = s.setLink s.upshift.link) ∧
    (10000 ≤ s.link.bucketTicks → exec .occupancyBucketEnd s = .next (s.setLink { s.link with
      occupancy := 0 :: s.link.occupancy.take 9, bucketTicks := s.link.bucketTicks - 10000 })) ∧
    (s.link.bucketTicks < 10000 → exec .occupancyBucketEnd s = .next s)

/-- A frame as a station sends it is read by a receiver as sent: sender, sender time and every field of the notice
(R123, R124, R132, R135 to R137). The bytes of the frame and of each kind of notice, at the places the tables give.
The bits on the line, each byte most significant bit first: those the station drives while it sends, and what a
receiver reads from them (R122). -/
def Obligations.FrameRoundTrip : Prop :=
  (∀ (sender : Nat) (time : Nat) (n : Notice), 1 ≤ sender → sender ≤ 255 → time ≤ shelfMax → n.Sendable →
    readFrame? (frameBody sender time n) = some ⟨BitVec.ofNat 8 sender, time, n⟩ ∧
    (frameBody sender time n).length = 14 + n.payload.length ∧ n.payload.length ≤ 256) ∧
  (∀ (bytes : List Byte) (b : Byte), bitsOfBytes [] = [] ∧
    bitsOfBytes (b :: bytes) = (List.range 8).map (fun k => b.getLsbD (7 - k)) ++ bitsOfBytes bytes ∧
    bytesOfBits (bitsOfBytes bytes) = bytes ∧
    frameOfBits? (bitsOfBytes (0x96 :: 0x69 :: bytes)) = some bytes) ∧
  (∀ (sender time : Nat) (n : Notice),
    frameOfBits? (bitsOfBytes (frameBytes sender time n)) = some (frameBody sender time n)) ∧
  (∀ s : State,
    let sent := fun (n : Notice) => some (bitsOfBytes (frameBytes s.config.stationNumber s.link.sendTime n))
    (∀ q behind, s.link.transmitter = .contending → s.link.queue = q :: behind → s.transmittedBits = sent q.notice) ∧
    (∀ q, s.link.transmitter = .committed → s.link.committed = some q → s.transmittedBits = sent q.notice) ∧
    (s.link.transmitter = .idle ∨ s.link.transmitter = .waiting → s.transmittedBits = none)) ∧
  (∀ (sender time : Nat) (n : Notice), sender ≤ 255 → time ≤ shelfMax → n.payload.length ≤ 256 →
    let b := frameBytes sender time n
    let length := n.payload.length
    b.length = 16 + length ∧ natAt b 0 1 = 0x96 ∧ natAt b 1 1 = 0x69 ∧ natAt b 2 1 = sender ∧
    natAt b 3 1 = (match n with | .status _ _ => 1 | .breach _ => 2 | .verdict _ => 3 | .withdraw => 4) ∧
    natAt b 4 2 = length ∧ natAt b 6 4 = time / 1000000 ∧ natAt b 10 4 = time % 1000000 ∧
    (b.drop 14).take length = n.payload ∧
    natAt b (14 + length) 2 = (crc16 ((b.drop 2).take (12 + length))).toNat) ∧
  (∀ n : Notice, n.Sendable →
    let p := n.payload
    let stampIn := fun (b : List Byte) (i : Nat) (x : Stamp) => x.time ≤ shelfMax →
      natAt b i 4 = x.time / 1000000 ∧ natAt b (i + 4) 4 = x.time % 1000000 ∧ natAt b (i + 8) 1 =
        (match x.cls with | .locked => 1 | .holdover => 2 | .peer => 3 | .free => 4) + (if x.correcting then 128 else 0)
    let loudnessIn := fun (i : Nat) (x : Option Int) => intAt p i 2 = x.getD (-32768)
    let classCode := fun (x : SegClass) => match x with
      | .programme => 1 | .advert => 2 | .promotion => 3 | .junction => 4
    let scopeCode := fun (x : Scope) => match x with | .national => 1 | .regional => 2
    match n with
    | .withdraw => p = []
    | .status h tail =>
      natAt p 0 2 = h.serviceId.toNat ∧ byteAt p 2 = h.regionGroup ∧ natAt p 3 1 =
        (match h.timeClass with | .locked => 1 | .holdover => 2 | .peer => 3 | .free => 4) +
          (if h.correcting then 128 else 0) ∧
      natAt p 4 1 = (match h.reception with | .normal => 1 | .impaired => 2) ∧ byteAt p 5 = h.quality ∧
      natAt p 6 1 = (match h.period with | .alert => 1 | .steady => 2 | .quiet => 3) ∧
      natAt p 7 4 = h.segmentId.toNat ∧ natAt p 11 1 = classCode h.cls ∧ natAt p 12 1 = scopeCode h.scope ∧
      byteAt p 13 = h.commonCount ∧ byteAt p 14 = h.openBreaches ∧ (tail = none → p.length = 15) ∧
      (∀ x, tail = some x → p.length = 21 + 8 * x.signatures.length ∧ loudnessIn 15 x.shortTerm ∧
        natAt p 17 1 = (if x.shown then 1 else 0) ∧ natAt p 18 2 = x.digest.toNat ∧
        natAt p 20 1 = x.signatures.length ∧
        (∀ i g, x.signatures[i]? = some g → natAt p (21 + 8 * i) 4 = g.second.toNat ∧
          natAt p (25 + 8 * i) 2 = g.trend.toNat ∧ intAt p (27 + 8 * i) 1 = g.level ∧
          natAt p (28 + 8 * i) 1 = (if g.impaired then 1 else 0)))
    | .breach b =>
      p.length = 29 ∧ natAt p 0 2 = b.number ∧ (b.category, natAt p 2 1) ∈ [(Category.loudnessHigh, 1),
        (Category.loudnessLow, 2), (Category.peakExcess, 3), (Category.shortTermExcess, 4), (Category.captionAbsent, 5),
        (Category.contentDivergent, 7)] ∧
      natAt p 3 1 = (if b.endStamp.isSome then 1 else 0) + (if b.figure.isSome then 2 else 0) +
        (if b.flags.impaired then 4 else 0) + (if b.flags.proxy then 8 else 0) ∧
      natAt p 4 4 = b.segmentId.toNat ∧ natAt p 8 1 = scopeCode b.scope ∧ stampIn p 9 b.startStamp ∧
      (b.endStamp = none → natAt p 18 9 = 0) ∧ (∀ x, b.endStamp = some x → stampIn p 18 x) ∧
      intAt p 27 2 = b.figure.getD 0
    | .verdict v =>
      p.length = 41 ∧ natAt p 0 1 = (match v.kind with | .segment => 1 | .programme => 2) ∧
      natAt p 1 4 = v.id.toNat ∧ natAt p 5 1 = classCode v.cls ∧ natAt p 6 1 = scopeCode v.scope ∧
      stampIn p 7 v.startStamp ∧ stampIn p 16 v.endStamp ∧ loudnessIn 25 v.figures.integrated ∧
      loudnessIn 27 v.figures.maxMomentary ∧ loudnessIn 29 v.figures.maxShortTerm ∧
      intAt p 31 2 = v.figures.maxPeak ∧ natAt p 33 4 = v.figures.offered ∧
      natAt p 37 2 = v.coverage.getD 65535 ∧ natAt p 39 1 = 1 ∧ natAt p 40 1 = (if v.impaired then 1 else 0))

/-! ### Peer Monitor -/

/-- FRAME_COMPLETE (R124 to R126, R144, R149): an invalid frame is counted; a length above 256 is judged at the
header; the own number makes LISTENING and RUNNING LISTEN_ONLY with a DUPLICATE_STATION record, and is nothing in
LISTEN_ONLY; any other sender gets or refreshes its entry, a WITHDRAW removes it, and a full table counts the frame.
Behind its entry a STATUS, BREACH or VERDICT notice is taken and a WITHDRAW removes the peer; a new entry is
reported, and it or one that becomes HEARD is judged, first (that place of the judgement is log 29's reading). Unless
the notice steps shelf time, which may pass the deadlines of any entry (R36, R147), the sender is then HEARD and the other
entries are kept. A frame is invalid exactly when a check of R124 fails, with the lengths and coded fields of R132, R135 and R136, and
the CRC of R123; that the time classes of a BREACH's and a VERDICT's stamps are among them is log 16's reading, and
the carry of large microseconds is log 17's choice. -/
def Obligations.FrameTaken : Prop :=
  let steps := fun (s : State) (rx : FrameRx) (f : ReceivedFrame) => s.time.source = .peer ∧
    s.time.followed = some f.sender ∧ 5000 ≤ (f.senderTime : Int) + (s.time.localCount - rx.noted).toNat - s.time.shelf ∧
    ∃ h tail, f.notice = .status h tail ∧ (h.timeClass = .locked ∨ h.timeClass = .holdover)
  (∀ bytes : List Byte,
    let n := natAt bytes 2 2
    let kind := (byteAt bytes 1).toNat
    let p := (bytes.drop 12).take n
    let coded := fun (i last : Nat) => 1 ≤ (byteAt p i).toNat ∧ (byteAt p i).toNat ≤ last
    let stamped := fun (i : Nat) => 1 ≤ (byteAt p i).toNat % 8 ∧ (byteAt p i).toNat % 8 ≤ 4
    let status := (p.length = 15 ∨ (21 ≤ p.length ∧ coded 20 8 ∧ 21 + 8 * (byteAt p 20).toNat ≤ p.length)) ∧
      stamped 3 ∧ coded 4 2 ∧ coded 6 3 ∧ coded 11 4 ∧ coded 12 2
    let breach := 29 ≤ p.length ∧ natAt p 0 2 ≠ 0 ∧ (byteAt p 2).toNat ∈ [1, 2, 3, 4, 5, 7] ∧ coded 8 2 ∧ stamped 17 ∧
      ((byteAt p 3).getLsbD 0 = true → stamped 26)
    let verdict := 41 ≤ p.length ∧ coded 0 2 ∧ coded 5 4 ∧ coded 6 2 ∧ stamped 15 ∧ stamped 24 ∧
      (natAt p 37 2 ≤ 1000 ∨ natAt p 37 2 = 65535) ∧ (byteAt p 39).toNat = 1
    let valid := natAt bytes (12 + n) 2 = (crc16 (bytes.take (12 + n))).toNat ∧ byteAt bytes 0 ≠ 0 ∧ n ≤ 256 ∧
      ((kind = 1 ∧ status) ∨ (kind = 2 ∧ breach) ∨ (kind = 3 ∧ verdict) ∨ kind = 4)
    (¬ valid → readFrame? bytes = none) ∧
    (valid → ∃ f, readFrame? bytes = some f ∧ f.sender = byteAt bytes 0 ∧
      f.senderTime = natAt bytes 4 4 * 1000000 + natAt bytes 8 4 ∧ f.notice.kindCode = kind)) ∧
  crc16 [] = 0xFFFF#16 ∧
  (∀ (bytes : List Byte) (b : Byte),
    let step := fun (c : BitVec 16) => if c.getLsbD 15 then (c <<< 1) ^^^ 0x1021#16 else c <<< 1
    crc16 (bytes ++ [b]) = step^[8] (crc16 bytes ^^^ (b.setWidth 16 <<< 8))) ∧
  (∀ (s : State) (bytes : List Byte) (rx : FrameRx), s.live = true → s.link.rx = some rx → rx.overlong = false →
    12 ≤ bytes.length →
    (256 < natAt bytes 2 2 → exec (.frameComplete bytes) s
      = .next (s.setLink { s.link with rx := some { rx with overlong := true } })) ∧
    (natAt bytes 2 2 ≤ 256 → bytes.length = 14 + natAt bytes 2 2 →
      let received := s.setLink { s.link with rx := none }
      (readFrame? bytes = none → exec (.frameComplete bytes) s
        = .next (s.setLink { s.link with rx := none, crcErrors := addCount s.link.crcErrors 1 })) ∧
      (∀ f, readFrame? bytes = some f →
        (f.sender.toNat = s.startup.config.stationNumber →
          (s.startup.station = .listenOnly → exec (.frameComplete bytes) s = .next received) ∧
          (s.startup.station ≠ .listenOnly → ∃ t, exec (.frameComplete bytes) s = .next t ∧
            t.startup = { s.startup with station := .listenOnly, listenOnlyMark := true } ∧
            t.peers = s.peers ∧ t.time = s.time ∧ t.link.rx = none ∧
            (s.startup.restarting = false → t.link.queue = [] ∧ t.link.transmitter = .idle ∧
              t.link.statusNext = none ∧ t.link.downshift = none) ∧
            (s.log.records.length < 128 → ∃ r ∈ t.log.records, r.category = .duplicateStation ∧ r.isOpen = false ∧
              r.startStamp = rx.stamp ∧ r.endStamp = some rx.stamp ∧ r.figure = none))) ∧
        (f.sender.toNat ≠ s.startup.config.stationNumber →
          (s.peer? f.sender = none → f.notice = .withdraw → exec (.frameComplete bytes) s = .next received) ∧
          (s.peer? f.sender = none → f.notice ≠ .withdraw → 15 ≤ s.peers.table.length →
            exec (.frameComplete bytes) s
              = .next (received.setPeers { s.peers with overflow := addCount s.peers.overflow 1 })) ∧
          (f.notice ≠ .withdraw → (s.peer? f.sender ≠ none ∨ s.peers.table.length < 15) → ¬ steps s rx f →
            ∃ t e, exec (.frameComplete bytes) s = .next t ∧ t.peer? f.sender = some e ∧ e.heard = true ∧
              e.lastHeard = rx.stamp ∧ (∀ x ∈ s.peers.table, x.station ≠ f.sender → x ∈ t.peers.table) ∧
              (s.peer? f.sender = none → (∀ h tail, f.notice ≠ .status h tail) →
                e.relation = .unknown ∧ e.streak = 0 ∧ e.store = [] ∧ e.status = none) ∧
              (∀ h tail, f.notice = .status h tail → e.status = some
                ⟨h.serviceId, h.regionGroup, h.timeClass, h.reception, h.period, h.cls, h.scope, h.commonCount⟩)) ∧
          (s.peer? f.sender ≠ none → f.notice = .withdraw → ∃ t, exec (.frameComplete bytes) s = .next t ∧
            t.peer? f.sender = none ∧ (∀ x ∈ t.peers.noted, x.peer ≠ f.sender) ∧
            (∀ x ∈ t.peers.cache, x.sender ≠ f.sender) ∧
            (∀ x ∈ s.peers.table, x.station ≠ f.sender → x ∈ t.peers.table) ∧
            t.peers.pendingVerdicts = s.peers.pendingVerdicts))))) ∧
  (∀ (s : State) (bytes : List Byte) (rx : FrameRx) (f : ReceivedFrame),
    s.live = true → s.link.rx = some rx → rx.overlong = false → bytes.length = 14 + natAt bytes 2 2 →
    natAt bytes 2 2 ≤ 256 → readFrame? bytes = some f → f.sender.toNat ≠ s.startup.config.stationNumber →
    let received := s.setLink { s.link with rx := none }
    let acts := fun (ready : State) =>
      (∀ h tail, f.notice = .status h tail →
        exec (.frameComplete bytes) s = .next (ready.takeStatus f.sender rx f.senderTime h tail)) ∧
      (∀ b, f.notice = .breach b → exec (.frameComplete bytes) s = .next (ready.takeBreach f.sender b)) ∧
      (∀ v, f.notice = .verdict v → exec (.frameComplete bytes) s = .next (ready.takeVerdict f.sender rx v)) ∧
      (f.notice = .withdraw → s.peer? f.sender ≠ none → exec (.frameComplete bytes) s = .next (ready.removePeer f.sender))
    (∀ e, s.peer? f.sender = some e →
      let refreshed := received.setPeers { s.peers with table := s.peers.table.map (fun x =>
        if x.station = f.sender then { x with lastHeard := rx.stamp, heard := true } else x) }
      acts (if e.heard then refreshed else refreshed.judge)) ∧
    (∀ ahead behind, s.peer? f.sender = none → s.peers.table.length < 15 → s.peers.table = ahead ++ behind →
      (∀ y ∈ ahead, y.station.toNat ≤ f.sender.toNat) →
      (∀ y, behind.head? = some y → f.sender.toNat < y.station.toNat) →
      acts (((received.setPeers { s.peers with
        table := ahead ++ ⟨f.sender, true, rx.stamp, none, [], .unknown, 0⟩ :: behind }).upshift.considerPeers).judge)))

/-- Noted breaches (R156 to R158): the NATIONAL breach of a COMMON peer is noted with its times shifted by the offset,
as a PEER_NOTED record and a SYMPATHETIC hold over the shifted interval, with a list entry while its end is absent; its
closing notice sends the hold its set end, closes the record and ends the entry; any other is ignored. A BREACH frame of
a HEARD peer reaches this after its entry is refreshed. -/
def Obligations.NotedBreaches : Prop :=
  (∀ (s : State) (station : Byte) (b : BreachNotice),
    let t := s.takeBreach station b
    let listed := ∃ x ∈ s.peers.noted, x.peer = station ∧ x.peerBreach = b.number
    let shifted := fun (d : Int) (a : Stamp) => { a with time := min ((a.time : Int) + d * 1000000).toNat shelfMax }
    (listed → b.endStamp = none → t = s) ∧
    (¬ listed → (b.scope ≠ .national ∨ ∀ e d, s.peer? station = some e → e.relation ≠ .common d) → t = s) ∧
    (∀ e d, ¬ listed → s.peer? station = some e → e.relation = .common d → b.scope = .national →
      (b.endStamp = none → 32 ≤ s.peers.noted.length →
        t = s.setPeers { s.peers with overflow := addCount s.peers.overflow 1 }) ∧
      ((b.endStamp = none → s.peers.noted.length < 32) →
        let cls := match e.status with | none => .programme | some p => p.cls
        let created := s.createBreach
          { category := .peerNoted, startStamp := shifted d b.startStamp, endStamp := b.endStamp.map (shifted d)
            segment := some ⟨b.segmentId, cls, b.scope⟩, origin := .peer station b.number
            impaired := b.flags.impaired, proxy := b.flags.proxy }
        let held := created.1.placeSympathetic (shifted d b.startStamp).time
          (b.endStamp.map (fun x => (shifted d x).time)) created.2
        (b.endStamp ≠ none → t = held.1) ∧
        (b.endStamp = none → t = held.1.setPeers { held.1.peers with
          noted := held.1.peers.noted ++ [⟨station, b.number, d, created.2, held.2⟩] })) ∧
      (s.log.records.length < 127 → (b.endStamp = none → s.peers.noted.length < 32) →
        ∃ n r, r ∈ t.log.records ∧ r.number = n ∧ r.category = .peerNoted ∧ r.origin = .peer station b.number ∧
          r.segmentId = b.segmentId ∧ r.scope = b.scope ∧
          r.cls = (match e.status with | none => .programme | some p => p.cls) ∧
          r.startStamp = shifted d b.startStamp ∧ r.endStamp = b.endStamp.map (shifted d) ∧
          r.isOpen = b.endStamp.isNone ∧ r.flags.impaired = b.flags.impaired ∧ r.flags.proxy = b.flags.proxy ∧
          (b.endStamp = none → ∃ hold, t.peers.noted = s.peers.noted ++ [⟨station, b.number, d, some n, hold⟩]) ∧
          (b.endStamp ≠ none → t.peers.noted = s.peers.noted))) ∧
    (∀ x stop, s.peers.noted.find? (fun y => y.peer == station && y.peerBreach == b.number) = some x →
      b.endStamp = some stop →
      t.peers = { s.peers with
        noted := s.peers.noted.filter (fun y => !(y.peer == station && y.peerBreach == b.number)) } ∧
      (x.hold = none → t.recorder = s.recorder) ∧
      (∀ ref, x.hold = some ref → t.recorder = (s.setEnd ref (shifted x.offset stop).time).recorder) ∧
      (x.ownBreach = none → t.log = s.log) ∧
      (∀ n, x.ownBreach = some n → t.log = { s.log with records := s.log.records.map (fun r =>
        if r.number = n ∧ r.isOpen = true ∧ r.category = .peerNoted then
          { r with endStamp := some (shifted x.offset stop), isOpen := false
                   flags := { r.flags with
                     impaired := r.flags.impaired || b.flags.impaired, proxy := r.flags.proxy || b.flags.proxy } }
        else r) }))) ∧
  (∀ (s : State) (bytes : List Byte) (rx : FrameRx) (f : ReceivedFrame) (b : BreachNotice) (e : PeerEntry),
    s.live = true → s.link.rx = some rx → rx.overlong = false → bytes.length = 14 + natAt bytes 2 2 →
    natAt bytes 2 2 ≤ 256 → readFrame? bytes = some f → f.notice = .breach b →
    f.sender.toNat ≠ s.startup.config.stationNumber → s.peer? f.sender = some e → e.heard = true →
    exec (.frameComplete bytes) s = .next (((s.setLink { s.link with rx := none }).setPeers
      (s.peers.change f.sender (fun x => { x with lastHeard := rx.stamp, heard := true }))).takeBreach f.sender b))

/-- The Peer Monitor's deadlines (R147, R148, R154, R155, R163): three periods unheard make an entry STALE, six remove
it, an entry still HEARD becoming STALE first; a removal ends its noted breaches with a set end and PEER_LOST, takes its
cache entries, and is reported; the divergence timer opens CONTENT_DIVERGENT, backdated; a pending verdict at its
deadline is issued UNMEASURED with MEASUREMENT_LOST. And the judgement behind them: the expected companions (R153), the
divergence timer (R154), the closing of CONTENT_DIVERGENT, also when reception enters IMPAIRED (R155). That the commands
change nothing before those moments or for an absent peer is log 1's choice, that they do nothing in FAULT is stated by
R164, and that RECEPTION_IMPAIRED is opened before CONTENT_DIVERGENT is closed is log 44's choice. -/
def Obligations.PeerDeadlines : Prop :=
  (∀ s : State,
    (∀ station : Byte,
      (s.peer? station = none → exec (.peerStaleDeadline station) s = .next s ∧
        exec (.peerRemovalDeadline station) s = .next s) ∧
      (∀ e, s.peer? station = some e →
        let period := match e.status with
          | none => 16000000
          | some p => match p.period with | .alert => 1000000 | .steady => 4000000 | .quiet => 16000000
        (s.startup.station ≠ .fault → e.heard = true → e.lastHeard.time + 3 * period ≤ s.now →
          ∃ t, exec (.peerStaleDeadline station) s = .next t ∧ t = s.becomeStale station ∧
            t.peer? station = some { e with heard := false } ∧
            (∀ x, x ≠ station → t.peer? x = s.peer? x) ∧ t.peers.cache = s.peers.cache) ∧
        ((e.heard = false ∨ s.now < e.lastHeard.time + 3 * period) → exec (.peerStaleDeadline station) s = .next s) ∧
        (s.startup.station ≠ .fault → e.lastHeard.time + 6 * period ≤ s.now →
          ∃ t, exec (.peerRemovalDeadline station) s = .next t ∧
            (e.heard = false → t = s.removePeer station) ∧
            (e.heard = true → t = (s.becomeStale station).removePeer station) ∧ t.peer? station = none ∧
            (∀ x, x ≠ station → t.peer? x = s.peer? x) ∧
            t.peers.noted = s.peers.noted.filter (fun x => x.peer != station) ∧
            t.peers.cache = s.peers.cache.filter (fun x => x.sender != station) ∧
            t.peers.pendingVerdicts = s.peers.pendingVerdicts ∧
            (∀ x ∈ s.peers.noted, x.peer = station → ∀ n, x.ownBreach = some n → ∀ r ∈ t.log.records,
              r.number = n → r.category = .peerNoted → r.isOpen = false)) ∧
        (s.now < e.lastHeard.time + 6 * period → exec (.peerRemovalDeadline station) s = .next s))) ∧
    (∀ start, s.peers.divergence = some start →
      (s.startup.station ≠ .fault → start.time + s.startup.config.divergenceTime * 1000000 ≤ s.now →
        ∃ t, exec .divergenceExpiry s = .next t ∧ t.peers.divergence = none ∧ t.peers.divergentOpen = true ∧
          KeepsMeasured s t ∧
          (s.log.records.length < 127 → ∃ r ∈ t.log.records, r.category = .contentDivergent ∧ r.isOpen = true ∧
            r.startStamp = start ∧ r.figure = none ∧ r.segmentId = s.segments.current.segmentId)) ∧
      (s.now < start.time + s.startup.config.divergenceTime * 1000000 → exec .divergenceExpiry s = .next s)) ∧
    (s.peers.divergence = none → exec .divergenceExpiry s = .next s) ∧
    (s.startup.station = .fault → exec .divergenceExpiry s = .next s ∧ exec .proxyDeadline s = .next s ∧
      ∀ station : Byte, exec (.peerStaleDeadline station) s = .next s ∧ exec (.peerRemovalDeadline station) s = .next s) ∧
    (∀ older e newer, s.peers.pendingVerdicts = older ++ e :: newer → (∀ x ∈ older, s.now < x.deadline) →
      e.deadline ≤ s.now → s.startup.station ≠ .fault →
      ∃ t, exec .proxyDeadline s = .next t ∧ t.peers = { s.peers with pendingVerdicts := older ++ newer } ∧
        t.verdicts.history = newest 16 (s.verdicts.history ++
          [{ e.verdict with source := .unmeasured, serial := s.verdicts.nextSerial }]) ∧
        (s.log.records.length < 128 → ∃ r ∈ t.log.records, r.category = .measurementLost ∧
          r.startStamp = e.verdict.startStamp ∧ r.endStamp = some e.verdict.endStamp ∧ r.figure = none ∧
          r.segmentId = e.verdict.id ∧ r.cls = e.verdict.cls ∧ r.scope = e.verdict.scope)) ∧
    ((∀ x ∈ s.peers.pendingVerdicts, s.now < x.deadline) → exec .proxyDeadline s = .next s)) ∧
  (∀ s : State,
    let own := s.segments.current.scope
    let companion := fun (e : PeerEntry) => e ∈ s.peers.table ∧ s.isCompanion e = true
    let common : Nat := (s.peers.table.filter (fun e => s.isCompanion e && e.relation.isCommon)).length
    let diverges := s.reception.state = .normal ∧ 2 ≤ (s.peers.table.filter s.isCompanion).length ∧
      (∀ e, companion e → e.relation = .apart) ∧ ∃ e p, companion e ∧ e.status = some p ∧ 1 ≤ p.commonCount.toNat
    let timed := fun (x : Option Stamp) => s.setPeers { s.peers with divergence := x }
    let judged := fun (x : Option Stamp) =>
      ((common = 0 ∨ s.peers.divergentOpen = false) → s.judge = timed x) ∧
      (1 ≤ common → s.peers.divergentOpen = true → s.judge = (s.setPeers { s.peers with
        divergence := x, divergentOpen := false }).closeBreach .contentDivergent s.nowStamp none false)
    (∀ e : PeerEntry, s.isCompanion e = true ↔ e.heard = true ∧ ∃ p, e.status = some p ∧
      p.serviceId = s.config.serviceId ∧ p.reception = .normal ∧ (own = .national → p.scope = .national) ∧
      (own = .regional → p.regionGroup = s.config.regionGroup)) ∧
    (¬ diverges → judged none) ∧ (∀ x, diverges → s.peers.divergence = some x → judged (some x)) ∧
    (diverges → s.peers.divergence = none → s.peers.divergentOpen = true → judged none) ∧
    (diverges → s.peers.divergence = none → s.peers.divergentOpen = false → judged (some s.nowStamp))) ∧
  (∀ (s : State) (station : Byte),
    let ended := (s.peers.noted.filter (fun x => decide (x.peer = station))).foldl (fun u x => u.loseNoted x) s
    s.becomeStale station = (s.setPeers { s.peers with table := s.peers.table.map (fun e =>
      if e.station = station then { e with heard := false } else e) }).judge ∧
    s.removePeer station = ((((s.dropPeer station).upshift).loseFollowed station).considerPeers).judge ∧
    (s.dropPeer station = ended.setPeers { ended.peers with
        noted := ended.peers.noted.filter (fun x => !decide (x.peer = station))
        cache := ended.peers.cache.filter (fun x => !decide (x.sender = station))
        table := ended.peers.table.filter (fun x => !decide (x.station = station)) })) ∧
  (∀ (s : State) (x : NotedBreach),
    let ended := match x.hold with | none => s | some ref => s.setEnd ref s.now
    (x.ownBreach = none → s.loseNoted x = ended) ∧
    (∀ n, x.ownBreach = some n → s.loseNoted x = ended.setLog { s.log with records := s.log.records.map (fun r =>
      if r.number = n ∧ r.isOpen = true ∧ r.category = .peerNoted then
        { r with endStamp := some s.nowStamp, isOpen := false, flags := { r.flags with peerLost := true } }
      else r) })) ∧
  (∀ (s : State) (quality : Nat),
    let opened := (s.setReception { s.reception with
      state := .impaired, lowest := some quality, recoveryStart := none, latch := true }).raise
        { category := .receptionImpaired, startStamp := s.nowStamp }
    let noted := opened.setCaptions { opened.captions with
      absentNote := opened.captions.absentNote || opened.captions.gap.recordOpen
      stuckNote := opened.captions.stuckNote || opened.captions.stuck.recordOpen }
    (s.peers.divergentOpen = false → s.enterImpaired quality = noted.judge) ∧
    (s.peers.divergentOpen = true → s.enterImpaired quality = ((noted.setPeers { noted.peers with
      divergentOpen := false }).closeBreach .contentDivergent s.nowStamp none false).judge))

/-- The cross-feed comparison (R146, R150 to R152): how a signature enters a store, when a STATUS notice makes an
evaluation run, and how the evaluation moves relation and streak: the fitting offset with the most matches, then the
smallest, then the negative one, makes the relation COMMON; the third evaluation with enough pairs and no fit makes it
APART; one with too few pairs changes nothing. A changed relation is an upshift event, is judged, and, when it is
COMMON, has the pending verdicts checked against the peer's cache entries; that order is log 38's choice. -/
def Obligations.Comparison : Prop :=
  (∀ (g : Signature) (store : List Signature),
    let placedIn := fun (l : List Signature) => ∃ ahead behind, l = ahead ++ behind ∧
      placeSignature g store = ahead ++ g :: behind ∧ (∀ y ∈ ahead, y.second.toNat ≤ g.second.toNat) ∧
      (∀ y, behind.head? = some y → g.second.toNat < y.second.toNat)
    ((∃ y ∈ store, y.second = g.second) →
      placeSignature g store = store.map (fun y => if y.second = g.second then g else y)) ∧
    ((∀ y ∈ store, y.second ≠ g.second) →
      (store.length < 16 → placedIn store) ∧
      (16 ≤ store.length →
        ((∀ y ∈ store, g.second.toNat < y.second.toNat) → placeSignature g store = store) ∧
        ((∃ y ∈ store, y.second.toNat ≤ g.second.toNat) → placedIn (store.drop 1))))) ∧
  (∀ (own : List Signature) (e : PeerEntry),
    let usable := fun (g : Signature) => !g.impaired && decide (-60 < g.level)
    let partner := fun (a : Signature) (d : Int) =>
      e.store.find? (fun b => decide ((b.second.toNat : Int) = a.second.toNat - d) && usable b)
    let differ := fun (a b : Signature) =>
      ((List.range 10).filter (fun k => a.trend.getLsbD k != b.trend.getLsbD k)).length
    let pairs := fun (d : Int) => (own.filter (fun a => usable a && (partner a d).isSome)).length
    let matched := fun (d : Int) => (own.filter (fun a => usable a && (partner a d).any (fun b =>
      decide (differ a b ≤ 2) && decide ((a.level - b.level).natAbs ≤ 3)))).length
    let fits := fun (d : Int) => -6 ≤ d ∧ d ≤ 6 ∧ 4 ≤ pairs d ∧ pairs d ≤ matched d + 1
    (∀ d, fits d → (∀ x, fits x → x ≠ d → matched x < matched d ∨ (matched x = matched d ∧
        (d.natAbs < x.natAbs ∨ (d.natAbs = x.natAbs ∧ d < x)))) →
      e.evaluated own = { e with relation := .common d, streak := 0 }) ∧
    ((∀ d, ¬ fits d) → (∃ d, -6 ≤ d ∧ d ≤ 6 ∧ 4 ≤ pairs d) →
      (e.streak < 2 → e.evaluated own = { e with streak := e.streak + 1 }) ∧
      (2 ≤ e.streak → e.evaluated own = { e with streak := 3, relation := .apart })) ∧
    ((∀ d, -6 ≤ d → d ≤ 6 → pairs d < 4) → e.evaluated own = e)) ∧
  (∀ (s : State) (station : Byte) (rx : FrameRx) (time : Nat) (h : StatusHead) (tail : Option StatusTail),
    let signatures := match tail with | none => [] | some x => x.signatures
    let stored := s.setPeers { s.peers with table := s.peers.table.map (fun e => if e.station = station then
      { e with
        status := some ⟨h.serviceId, h.regionGroup, h.timeClass, h.reception, h.period, h.cls, h.scope, h.commonCount⟩
        store := signatures.foldl (fun store g => placeSignature g store) e.store } else e) }
    let runs := signatures ≠ [] ∧ h.serviceId = s.config.serviceId ∧ s.reception.state = .normal
    (runs → s.takeStatus station rx time h tail =
      ((stored.compare station).judge).takePeerTime station h.timeClass time rx.noted) ∧
    (¬ runs → s.takeStatus station rx time h tail = stored.judge.takePeerTime station h.timeClass time rx.noted)) ∧
  (∀ (s : State) (station : Byte),
    (s.peer? station = none → s.compare station = s) ∧
    (∀ e, s.peer? station = some e →
      let own := s.loudness.ownHistory
      let updated := s.setPeers { s.peers with table := s.peers.table.map (fun x =>
        if x.station = station then x.evaluated own else x) }
      ((e.evaluated own).relation = e.relation → s.compare station = updated) ∧
      ((e.evaluated own).relation ≠ e.relation →
        ((∀ d, (e.evaluated own).relation ≠ .common d) → s.compare station = updated.upshift.judge) ∧
        (∀ d, (e.evaluated own).relation = .common d →
          s.compare station = updated.upshift.judge.checkPeerCache station))))
end

