-- ==== Sys2Proof/Laws/Bits.lean ====
section
/-! SUPPORT. What the bits of bytes are: their number, their place, and the bytes read back from them (R122, R181). -/

namespace Sys2Proof.Machine

theorem bitsOfBytes_cons (b : Byte) (bytes : List Byte) :
    bitsOfBytes (b :: bytes) = (List.range 8).map (fun k => b.getLsbD (7 - k)) ++ bitsOfBytes bytes := rfl

/-- Eight bits to a byte. -/
@[simp] theorem bitsOfBytes_length : ∀ bytes : List Byte, (bitsOfBytes bytes).length = 8 * bytes.length
  | [] => rfl
  | b :: bytes => by
    rw [bitsOfBytes_cons, List.length_append, bitsOfBytes_length bytes, List.length_map, List.length_range,
      List.length_cons]
    omega

theorem bitsOfBytes_append (front rest : List Byte) :
    bitsOfBytes (front ++ rest) = bitsOfBytes front ++ bitsOfBytes rest := by
  rw [bitsOfBytes, List.map_append, List.flatten_append]
  rfl

/-- A byte is read back from its eight bits. -/
theorem byteOfBits_bits : ∀ b : Byte, byteOfBits ((List.range 8).map (fun k => b.getLsbD (7 - k))) = b := by
  decide +kernel

/-- Bytes are read back from their bits. -/
theorem bytesOfBits_bitsOfBytes : ∀ bytes : List Byte, bytesOfBits (bitsOfBytes bytes) = bytes
  | [] => rfl
  | b :: bytes => by
    have read : bytesOfBits (bitsOfBytes (b :: bytes))
      = byteOfBits ((List.range 8).map (fun k => b.getLsbD (7 - k))) :: bytesOfBits (bitsOfBytes bytes) := rfl
    rw [read, byteOfBits_bits, bytesOfBits_bitsOfBytes bytes]

/-- What a receiver reads from a delimiter's bits and the bits of bytes behind it. -/
theorem frameOfBits?_delimited (bytes : List Byte) :
    frameOfBits? (bitsOfBytes (frameDelimiter ++ bytes)) = some bytes := by
  have sixteen : (bitsOfBytes frameDelimiter).length = 16 := rfl
  rw [bitsOfBytes_append, frameOfBits?, List.take_left' sixteen, if_pos rfl, List.drop_left' sixteen,
    bytesOfBits_bitsOfBytes]

end Sys2Proof.Machine
end

