-- ==== Sys2Proof/Laws/State.lean ====
section
/-! SUPPORT. What each block update reads back as: one lemma per field per update. -/

namespace Sys2Proof.Machine

section PendingUpdate

variable (s : State) (x : List Instr)

@[simp] theorem State.setPending_pending : (s.setPending x).pending = x := rfl
@[simp] theorem State.setPending_startup : (s.setPending x).startup = s.startup := rfl
@[simp] theorem State.setPending_port : (s.setPending x).port = s.port := rfl
@[simp] theorem State.setPending_reception : (s.setPending x).reception = s.reception := rfl
@[simp] theorem State.setPending_segments : (s.setPending x).segments = s.segments := rfl
@[simp] theorem State.setPending_time : (s.setPending x).time = s.time := rfl
@[simp] theorem State.setPending_loudness : (s.setPending x).loudness = s.loudness := rfl
@[simp] theorem State.setPending_verdicts : (s.setPending x).verdicts = s.verdicts := rfl
@[simp] theorem State.setPending_captions : (s.setPending x).captions = s.captions := rfl
@[simp] theorem State.setPending_recorder : (s.setPending x).recorder = s.recorder := rfl
@[simp] theorem State.setPending_link : (s.setPending x).link = s.link := rfl
@[simp] theorem State.setPending_peers : (s.setPending x).peers = s.peers := rfl
@[simp] theorem State.setPending_log : (s.setPending x).log = s.log := rfl
@[simp] theorem State.setPending_alarms : (s.setPending x).alarms = s.alarms := rfl
@[simp] theorem State.setPending_evidence : (s.setPending x).evidence = s.evidence := rfl

end PendingUpdate

section StartupUpdate

variable (s : State) (x : Startup)

@[simp] theorem State.setStartup_pending : (s.setStartup x).pending = s.pending := rfl
@[simp] theorem State.setStartup_startup : (s.setStartup x).startup = x := rfl
@[simp] theorem State.setStartup_port : (s.setStartup x).port = s.port := rfl
@[simp] theorem State.setStartup_reception : (s.setStartup x).reception = s.reception := rfl
@[simp] theorem State.setStartup_segments : (s.setStartup x).segments = s.segments := rfl
@[simp] theorem State.setStartup_time : (s.setStartup x).time = s.time := rfl
@[simp] theorem State.setStartup_loudness : (s.setStartup x).loudness = s.loudness := rfl
@[simp] theorem State.setStartup_verdicts : (s.setStartup x).verdicts = s.verdicts := rfl
@[simp] theorem State.setStartup_captions : (s.setStartup x).captions = s.captions := rfl
@[simp] theorem State.setStartup_recorder : (s.setStartup x).recorder = s.recorder := rfl
@[simp] theorem State.setStartup_link : (s.setStartup x).link = s.link := rfl
@[simp] theorem State.setStartup_peers : (s.setStartup x).peers = s.peers := rfl
@[simp] theorem State.setStartup_log : (s.setStartup x).log = s.log := rfl
@[simp] theorem State.setStartup_alarms : (s.setStartup x).alarms = s.alarms := rfl
@[simp] theorem State.setStartup_evidence : (s.setStartup x).evidence = s.evidence := rfl

end StartupUpdate

section PortUpdate

variable (s : State) (x : MediaPort)

@[simp] theorem State.setPort_pending : (s.setPort x).pending = s.pending := rfl
@[simp] theorem State.setPort_startup : (s.setPort x).startup = s.startup := rfl
@[simp] theorem State.setPort_port : (s.setPort x).port = x := rfl
@[simp] theorem State.setPort_reception : (s.setPort x).reception = s.reception := rfl
@[simp] theorem State.setPort_segments : (s.setPort x).segments = s.segments := rfl
@[simp] theorem State.setPort_time : (s.setPort x).time = s.time := rfl
@[simp] theorem State.setPort_loudness : (s.setPort x).loudness = s.loudness := rfl
@[simp] theorem State.setPort_verdicts : (s.setPort x).verdicts = s.verdicts := rfl
@[simp] theorem State.setPort_captions : (s.setPort x).captions = s.captions := rfl
@[simp] theorem State.setPort_recorder : (s.setPort x).recorder = s.recorder := rfl
@[simp] theorem State.setPort_link : (s.setPort x).link = s.link := rfl
@[simp] theorem State.setPort_peers : (s.setPort x).peers = s.peers := rfl
@[simp] theorem State.setPort_log : (s.setPort x).log = s.log := rfl
@[simp] theorem State.setPort_alarms : (s.setPort x).alarms = s.alarms := rfl
@[simp] theorem State.setPort_evidence : (s.setPort x).evidence = s.evidence := rfl

end PortUpdate

section ReceptionUpdate

variable (s : State) (x : ReceptionMonitor)

@[simp] theorem State.setReception_pending : (s.setReception x).pending = s.pending := rfl
@[simp] theorem State.setReception_startup : (s.setReception x).startup = s.startup := rfl
@[simp] theorem State.setReception_port : (s.setReception x).port = s.port := rfl
@[simp] theorem State.setReception_reception : (s.setReception x).reception = x := rfl
@[simp] theorem State.setReception_segments : (s.setReception x).segments = s.segments := rfl
@[simp] theorem State.setReception_time : (s.setReception x).time = s.time := rfl
@[simp] theorem State.setReception_loudness : (s.setReception x).loudness = s.loudness := rfl
@[simp] theorem State.setReception_verdicts : (s.setReception x).verdicts = s.verdicts := rfl
@[simp] theorem State.setReception_captions : (s.setReception x).captions = s.captions := rfl
@[simp] theorem State.setReception_recorder : (s.setReception x).recorder = s.recorder := rfl
@[simp] theorem State.setReception_link : (s.setReception x).link = s.link := rfl
@[simp] theorem State.setReception_peers : (s.setReception x).peers = s.peers := rfl
@[simp] theorem State.setReception_log : (s.setReception x).log = s.log := rfl
@[simp] theorem State.setReception_alarms : (s.setReception x).alarms = s.alarms := rfl
@[simp] theorem State.setReception_evidence : (s.setReception x).evidence = s.evidence := rfl

end ReceptionUpdate

section SegmentsUpdate

variable (s : State) (x : SegmentTracker)

@[simp] theorem State.setSegments_pending : (s.setSegments x).pending = s.pending := rfl
@[simp] theorem State.setSegments_startup : (s.setSegments x).startup = s.startup := rfl
@[simp] theorem State.setSegments_port : (s.setSegments x).port = s.port := rfl
@[simp] theorem State.setSegments_reception : (s.setSegments x).reception = s.reception := rfl
@[simp] theorem State.setSegments_segments : (s.setSegments x).segments = x := rfl
@[simp] theorem State.setSegments_time : (s.setSegments x).time = s.time := rfl
@[simp] theorem State.setSegments_loudness : (s.setSegments x).loudness = s.loudness := rfl
@[simp] theorem State.setSegments_verdicts : (s.setSegments x).verdicts = s.verdicts := rfl
@[simp] theorem State.setSegments_captions : (s.setSegments x).captions = s.captions := rfl
@[simp] theorem State.setSegments_recorder : (s.setSegments x).recorder = s.recorder := rfl
@[simp] theorem State.setSegments_link : (s.setSegments x).link = s.link := rfl
@[simp] theorem State.setSegments_peers : (s.setSegments x).peers = s.peers := rfl
@[simp] theorem State.setSegments_log : (s.setSegments x).log = s.log := rfl
@[simp] theorem State.setSegments_alarms : (s.setSegments x).alarms = s.alarms := rfl
@[simp] theorem State.setSegments_evidence : (s.setSegments x).evidence = s.evidence := rfl

end SegmentsUpdate

section TimeUpdate

variable (s : State) (x : TimeBase)

@[simp] theorem State.setTime_pending : (s.setTime x).pending = s.pending := rfl
@[simp] theorem State.setTime_startup : (s.setTime x).startup = s.startup := rfl
@[simp] theorem State.setTime_port : (s.setTime x).port = s.port := rfl
@[simp] theorem State.setTime_reception : (s.setTime x).reception = s.reception := rfl
@[simp] theorem State.setTime_segments : (s.setTime x).segments = s.segments := rfl
@[simp] theorem State.setTime_time : (s.setTime x).time = x := rfl
@[simp] theorem State.setTime_loudness : (s.setTime x).loudness = s.loudness := rfl
@[simp] theorem State.setTime_verdicts : (s.setTime x).verdicts = s.verdicts := rfl
@[simp] theorem State.setTime_captions : (s.setTime x).captions = s.captions := rfl
@[simp] theorem State.setTime_recorder : (s.setTime x).recorder = s.recorder := rfl
@[simp] theorem State.setTime_link : (s.setTime x).link = s.link := rfl
@[simp] theorem State.setTime_peers : (s.setTime x).peers = s.peers := rfl
@[simp] theorem State.setTime_log : (s.setTime x).log = s.log := rfl
@[simp] theorem State.setTime_alarms : (s.setTime x).alarms = s.alarms := rfl
@[simp] theorem State.setTime_evidence : (s.setTime x).evidence = s.evidence := rfl

end TimeUpdate

section LoudnessUpdate

variable (s : State) (x : LoudnessUnit)

@[simp] theorem State.setLoudness_pending : (s.setLoudness x).pending = s.pending := rfl
@[simp] theorem State.setLoudness_startup : (s.setLoudness x).startup = s.startup := rfl
@[simp] theorem State.setLoudness_port : (s.setLoudness x).port = s.port := rfl
@[simp] theorem State.setLoudness_reception : (s.setLoudness x).reception = s.reception := rfl
@[simp] theorem State.setLoudness_segments : (s.setLoudness x).segments = s.segments := rfl
@[simp] theorem State.setLoudness_time : (s.setLoudness x).time = s.time := rfl
@[simp] theorem State.setLoudness_loudness : (s.setLoudness x).loudness = x := rfl
@[simp] theorem State.setLoudness_verdicts : (s.setLoudness x).verdicts = s.verdicts := rfl
@[simp] theorem State.setLoudness_captions : (s.setLoudness x).captions = s.captions := rfl
@[simp] theorem State.setLoudness_recorder : (s.setLoudness x).recorder = s.recorder := rfl
@[simp] theorem State.setLoudness_link : (s.setLoudness x).link = s.link := rfl
@[simp] theorem State.setLoudness_peers : (s.setLoudness x).peers = s.peers := rfl
@[simp] theorem State.setLoudness_log : (s.setLoudness x).log = s.log := rfl
@[simp] theorem State.setLoudness_alarms : (s.setLoudness x).alarms = s.alarms := rfl
@[simp] theorem State.setLoudness_evidence : (s.setLoudness x).evidence = s.evidence := rfl

end LoudnessUpdate

section VerdictsUpdate

variable (s : State) (x : VerdictFormer)

@[simp] theorem State.setVerdicts_pending : (s.setVerdicts x).pending = s.pending := rfl
@[simp] theorem State.setVerdicts_startup : (s.setVerdicts x).startup = s.startup := rfl
@[simp] theorem State.setVerdicts_port : (s.setVerdicts x).port = s.port := rfl
@[simp] theorem State.setVerdicts_reception : (s.setVerdicts x).reception = s.reception := rfl
@[simp] theorem State.setVerdicts_segments : (s.setVerdicts x).segments = s.segments := rfl
@[simp] theorem State.setVerdicts_time : (s.setVerdicts x).time = s.time := rfl
@[simp] theorem State.setVerdicts_loudness : (s.setVerdicts x).loudness = s.loudness := rfl
@[simp] theorem State.setVerdicts_verdicts : (s.setVerdicts x).verdicts = x := rfl
@[simp] theorem State.setVerdicts_captions : (s.setVerdicts x).captions = s.captions := rfl
@[simp] theorem State.setVerdicts_recorder : (s.setVerdicts x).recorder = s.recorder := rfl
@[simp] theorem State.setVerdicts_link : (s.setVerdicts x).link = s.link := rfl
@[simp] theorem State.setVerdicts_peers : (s.setVerdicts x).peers = s.peers := rfl
@[simp] theorem State.setVerdicts_log : (s.setVerdicts x).log = s.log := rfl
@[simp] theorem State.setVerdicts_alarms : (s.setVerdicts x).alarms = s.alarms := rfl
@[simp] theorem State.setVerdicts_evidence : (s.setVerdicts x).evidence = s.evidence := rfl

end VerdictsUpdate

section CaptionsUpdate

variable (s : State) (x : CaptionChecker)

@[simp] theorem State.setCaptions_pending : (s.setCaptions x).pending = s.pending := rfl
@[simp] theorem State.setCaptions_startup : (s.setCaptions x).startup = s.startup := rfl
@[simp] theorem State.setCaptions_port : (s.setCaptions x).port = s.port := rfl
@[simp] theorem State.setCaptions_reception : (s.setCaptions x).reception = s.reception := rfl
@[simp] theorem State.setCaptions_segments : (s.setCaptions x).segments = s.segments := rfl
@[simp] theorem State.setCaptions_time : (s.setCaptions x).time = s.time := rfl
@[simp] theorem State.setCaptions_loudness : (s.setCaptions x).loudness = s.loudness := rfl
@[simp] theorem State.setCaptions_verdicts : (s.setCaptions x).verdicts = s.verdicts := rfl
@[simp] theorem State.setCaptions_captions : (s.setCaptions x).captions = x := rfl
@[simp] theorem State.setCaptions_recorder : (s.setCaptions x).recorder = s.recorder := rfl
@[simp] theorem State.setCaptions_link : (s.setCaptions x).link = s.link := rfl
@[simp] theorem State.setCaptions_peers : (s.setCaptions x).peers = s.peers := rfl
@[simp] theorem State.setCaptions_log : (s.setCaptions x).log = s.log := rfl
@[simp] theorem State.setCaptions_alarms : (s.setCaptions x).alarms = s.alarms := rfl
@[simp] theorem State.setCaptions_evidence : (s.setCaptions x).evidence = s.evidence := rfl

end CaptionsUpdate

section RecorderUpdate

variable (s : State) (x : Recorder)

@[simp] theorem State.setRecorder_pending : (s.setRecorder x).pending = s.pending := rfl
@[simp] theorem State.setRecorder_startup : (s.setRecorder x).startup = s.startup := rfl
@[simp] theorem State.setRecorder_port : (s.setRecorder x).port = s.port := rfl
@[simp] theorem State.setRecorder_reception : (s.setRecorder x).reception = s.reception := rfl
@[simp] theorem State.setRecorder_segments : (s.setRecorder x).segments = s.segments := rfl
@[simp] theorem State.setRecorder_time : (s.setRecorder x).time = s.time := rfl
@[simp] theorem State.setRecorder_loudness : (s.setRecorder x).loudness = s.loudness := rfl
@[simp] theorem State.setRecorder_verdicts : (s.setRecorder x).verdicts = s.verdicts := rfl
@[simp] theorem State.setRecorder_captions : (s.setRecorder x).captions = s.captions := rfl
@[simp] theorem State.setRecorder_recorder : (s.setRecorder x).recorder = x := rfl
@[simp] theorem State.setRecorder_link : (s.setRecorder x).link = s.link := rfl
@[simp] theorem State.setRecorder_peers : (s.setRecorder x).peers = s.peers := rfl
@[simp] theorem State.setRecorder_log : (s.setRecorder x).log = s.log := rfl
@[simp] theorem State.setRecorder_alarms : (s.setRecorder x).alarms = s.alarms := rfl
@[simp] theorem State.setRecorder_evidence : (s.setRecorder x).evidence = s.evidence := rfl

end RecorderUpdate

section LinkUpdate

variable (s : State) (x : ShelfLink)

@[simp] theorem State.setLink_pending : (s.setLink x).pending = s.pending := rfl
@[simp] theorem State.setLink_startup : (s.setLink x).startup = s.startup := rfl
@[simp] theorem State.setLink_port : (s.setLink x).port = s.port := rfl
@[simp] theorem State.setLink_reception : (s.setLink x).reception = s.reception := rfl
@[simp] theorem State.setLink_segments : (s.setLink x).segments = s.segments := rfl
@[simp] theorem State.setLink_time : (s.setLink x).time = s.time := rfl
@[simp] theorem State.setLink_loudness : (s.setLink x).loudness = s.loudness := rfl
@[simp] theorem State.setLink_verdicts : (s.setLink x).verdicts = s.verdicts := rfl
@[simp] theorem State.setLink_captions : (s.setLink x).captions = s.captions := rfl
@[simp] theorem State.setLink_recorder : (s.setLink x).recorder = s.recorder := rfl
@[simp] theorem State.setLink_link : (s.setLink x).link = x := rfl
@[simp] theorem State.setLink_peers : (s.setLink x).peers = s.peers := rfl
@[simp] theorem State.setLink_log : (s.setLink x).log = s.log := rfl
@[simp] theorem State.setLink_alarms : (s.setLink x).alarms = s.alarms := rfl
@[simp] theorem State.setLink_evidence : (s.setLink x).evidence = s.evidence := rfl

end LinkUpdate

section PeersUpdate

variable (s : State) (x : PeerMonitor)

@[simp] theorem State.setPeers_pending : (s.setPeers x).pending = s.pending := rfl
@[simp] theorem State.setPeers_startup : (s.setPeers x).startup = s.startup := rfl
@[simp] theorem State.setPeers_port : (s.setPeers x).port = s.port := rfl
@[simp] theorem State.setPeers_reception : (s.setPeers x).reception = s.reception := rfl
@[simp] theorem State.setPeers_segments : (s.setPeers x).segments = s.segments := rfl
@[simp] theorem State.setPeers_time : (s.setPeers x).time = s.time := rfl
@[simp] theorem State.setPeers_loudness : (s.setPeers x).loudness = s.loudness := rfl
@[simp] theorem State.setPeers_verdicts : (s.setPeers x).verdicts = s.verdicts := rfl
@[simp] theorem State.setPeers_captions : (s.setPeers x).captions = s.captions := rfl
@[simp] theorem State.setPeers_recorder : (s.setPeers x).recorder = s.recorder := rfl
@[simp] theorem State.setPeers_link : (s.setPeers x).link = s.link := rfl
@[simp] theorem State.setPeers_peers : (s.setPeers x).peers = x := rfl
@[simp] theorem State.setPeers_log : (s.setPeers x).log = s.log := rfl
@[simp] theorem State.setPeers_alarms : (s.setPeers x).alarms = s.alarms := rfl
@[simp] theorem State.setPeers_evidence : (s.setPeers x).evidence = s.evidence := rfl

end PeersUpdate

section LogUpdate

variable (s : State) (x : BreachLog)

@[simp] theorem State.setLog_pending : (s.setLog x).pending = s.pending := rfl
@[simp] theorem State.setLog_startup : (s.setLog x).startup = s.startup := rfl
@[simp] theorem State.setLog_port : (s.setLog x).port = s.port := rfl
@[simp] theorem State.setLog_reception : (s.setLog x).reception = s.reception := rfl
@[simp] theorem State.setLog_segments : (s.setLog x).segments = s.segments := rfl
@[simp] theorem State.setLog_time : (s.setLog x).time = s.time := rfl
@[simp] theorem State.setLog_loudness : (s.setLog x).loudness = s.loudness := rfl
@[simp] theorem State.setLog_verdicts : (s.setLog x).verdicts = s.verdicts := rfl
@[simp] theorem State.setLog_captions : (s.setLog x).captions = s.captions := rfl
@[simp] theorem State.setLog_recorder : (s.setLog x).recorder = s.recorder := rfl
@[simp] theorem State.setLog_link : (s.setLog x).link = s.link := rfl
@[simp] theorem State.setLog_peers : (s.setLog x).peers = s.peers := rfl
@[simp] theorem State.setLog_log : (s.setLog x).log = x := rfl
@[simp] theorem State.setLog_alarms : (s.setLog x).alarms = s.alarms := rfl
@[simp] theorem State.setLog_evidence : (s.setLog x).evidence = s.evidence := rfl

end LogUpdate

section AlarmsUpdate

variable (s : State) (x : AlarmDriver)

@[simp] theorem State.setAlarms_pending : (s.setAlarms x).pending = s.pending := rfl
@[simp] theorem State.setAlarms_startup : (s.setAlarms x).startup = s.startup := rfl
@[simp] theorem State.setAlarms_port : (s.setAlarms x).port = s.port := rfl
@[simp] theorem State.setAlarms_reception : (s.setAlarms x).reception = s.reception := rfl
@[simp] theorem State.setAlarms_segments : (s.setAlarms x).segments = s.segments := rfl
@[simp] theorem State.setAlarms_time : (s.setAlarms x).time = s.time := rfl
@[simp] theorem State.setAlarms_loudness : (s.setAlarms x).loudness = s.loudness := rfl
@[simp] theorem State.setAlarms_verdicts : (s.setAlarms x).verdicts = s.verdicts := rfl
@[simp] theorem State.setAlarms_captions : (s.setAlarms x).captions = s.captions := rfl
@[simp] theorem State.setAlarms_recorder : (s.setAlarms x).recorder = s.recorder := rfl
@[simp] theorem State.setAlarms_link : (s.setAlarms x).link = s.link := rfl
@[simp] theorem State.setAlarms_peers : (s.setAlarms x).peers = s.peers := rfl
@[simp] theorem State.setAlarms_log : (s.setAlarms x).log = s.log := rfl
@[simp] theorem State.setAlarms_alarms : (s.setAlarms x).alarms = x := rfl
@[simp] theorem State.setAlarms_evidence : (s.setAlarms x).evidence = s.evidence := rfl

end AlarmsUpdate

section EvidenceUpdate

variable (s : State) (x : EvidencePort)

@[simp] theorem State.setEvidence_pending : (s.setEvidence x).pending = s.pending := rfl
@[simp] theorem State.setEvidence_startup : (s.setEvidence x).startup = s.startup := rfl
@[simp] theorem State.setEvidence_port : (s.setEvidence x).port = s.port := rfl
@[simp] theorem State.setEvidence_reception : (s.setEvidence x).reception = s.reception := rfl
@[simp] theorem State.setEvidence_segments : (s.setEvidence x).segments = s.segments := rfl
@[simp] theorem State.setEvidence_time : (s.setEvidence x).time = s.time := rfl
@[simp] theorem State.setEvidence_loudness : (s.setEvidence x).loudness = s.loudness := rfl
@[simp] theorem State.setEvidence_verdicts : (s.setEvidence x).verdicts = s.verdicts := rfl
@[simp] theorem State.setEvidence_captions : (s.setEvidence x).captions = s.captions := rfl
@[simp] theorem State.setEvidence_recorder : (s.setEvidence x).recorder = s.recorder := rfl
@[simp] theorem State.setEvidence_link : (s.setEvidence x).link = s.link := rfl
@[simp] theorem State.setEvidence_peers : (s.setEvidence x).peers = s.peers := rfl
@[simp] theorem State.setEvidence_log : (s.setEvidence x).log = s.log := rfl
@[simp] theorem State.setEvidence_alarms : (s.setEvidence x).alarms = s.alarms := rfl
@[simp] theorem State.setEvidence_evidence : (s.setEvidence x).evidence = x := rfl

end EvidenceUpdate

end Sys2Proof.Machine
end

