-- ==== Sys2Proof/Laws/Frame.lean ====
section
/-! SUPPORT. What the shared operations keep: holds, records, notices and alarm pulses leave every measuring block, the
Time Base, the Media Port and the station state as they were. One lemma per shared operation. -/

namespace Sys2Proof.Machine

namespace KeepsMeasured

variable {s t u : State}

theorem refl (s : State) : KeepsMeasured s s :=
  ⟨rfl, rfl, rfl, rfl, rfl, rfl, rfl, rfl, rfl, rfl, rfl, rfl, rfl⟩

theorem trans (a : KeepsMeasured s t) (b : KeepsMeasured t u) : KeepsMeasured s u :=
  ⟨b.pending.trans a.pending, b.startup.trans a.startup, b.port.trans a.port, b.reception.trans a.reception,
    b.segments.trans a.segments, b.time.trans a.time, b.loudness.trans a.loudness, b.verdicts.trans a.verdicts,
    b.captions.trans a.captions, b.table.trans a.table, b.cache.trans a.cache, b.proxies.trans a.proxies,
    b.noted.trans a.noted⟩

theorem setRecorder (h : KeepsMeasured s t) (x : Recorder) : KeepsMeasured s (t.setRecorder x) :=
  h.trans ⟨rfl, rfl, rfl, rfl, rfl, rfl, rfl, rfl, rfl, rfl, rfl, rfl, rfl⟩

theorem setLink (h : KeepsMeasured s t) (x : ShelfLink) : KeepsMeasured s (t.setLink x) :=
  h.trans ⟨rfl, rfl, rfl, rfl, rfl, rfl, rfl, rfl, rfl, rfl, rfl, rfl, rfl⟩

/-- A change of the Peer Monitor that keeps its table, cache, pending verdicts and the number of noted breaches. -/
theorem setPeers (h : KeepsMeasured s t) (x : PeerMonitor) (table : x.table = t.peers.table)
    (cache : x.cache = t.peers.cache) (proxies : x.pendingVerdicts = t.peers.pendingVerdicts)
    (noted : x.noted.length = t.peers.noted.length) : KeepsMeasured s (t.setPeers x) :=
  h.trans ⟨rfl, rfl, rfl, rfl, rfl, rfl, rfl, rfl, rfl, table, cache, proxies, noted⟩

theorem setLog (h : KeepsMeasured s t) (x : BreachLog) : KeepsMeasured s (t.setLog x) :=
  h.trans ⟨rfl, rfl, rfl, rfl, rfl, rfl, rfl, rfl, rfl, rfl, rfl, rfl, rfl⟩

theorem setAlarms (h : KeepsMeasured s t) (x : AlarmDriver) : KeepsMeasured s (t.setAlarms x) :=
  h.trans ⟨rfl, rfl, rfl, rfl, rfl, rfl, rfl, rfl, rfl, rfl, rfl, rfl, rfl⟩

theorem setEvidence (h : KeepsMeasured s t) (x : EvidencePort) : KeepsMeasured s (t.setEvidence x) :=
  h.trans ⟨rfl, rfl, rfl, rfl, rfl, rfl, rfl, rfl, rfl, rfl, rfl, rfl, rfl⟩

theorem now (h : KeepsMeasured s t) : t.now = s.now := by unfold State.now; rw [h.time]

theorem nowStamp (h : KeepsMeasured s t) : t.nowStamp = s.nowStamp := by unfold State.nowStamp; rw [h.time]

theorem config (h : KeepsMeasured s t) : t.config = s.config := by unfold State.config; rw [h.startup]

theorem live (h : KeepsMeasured s t) : t.live = s.live := by unfold State.live; rw [h.startup]

/-- A chain of steps each of which keeps the blocks keeps them. -/
theorem foldl {α : Type} {f : State → α → State} (h : ∀ s x, KeepsMeasured s (f s x)) :
    ∀ (l : List α) (s : State), KeepsMeasured s (l.foldl f s)
  | [], s => refl s
  | x :: xs, s => (h s x).trans (foldl h xs (f s x))

end KeepsMeasured

open KeepsMeasured

/-! ### Pulses and the log's store -/

theorem triggerPulses_keeps (s : State) (w : LineConfig → Bool) : KeepsMeasured s (s.triggerPulses w) := by
  unfold State.triggerPulses
  split
  · exact refl s
  · exact (refl s).setAlarms _

theorem changeRecord_keeps (s : State) (n : Option Nat) (f : BreachRecord → BreachRecord) :
    KeepsMeasured s (s.changeRecord n f) := by
  unfold State.changeRecord
  split
  · exact refl s
  · exact (refl s).setLog _

theorem discardRecord_keeps (s : State) (r : BreachRecord) : KeepsMeasured s (s.discardRecord r) := by
  unfold State.discardRecord
  split
  · exact ((refl s).setLog _).setEvidence _
  · exact (refl s).setLog _

theorem appendRecord_keeps (s : State) (r : BreachRecord) : KeepsMeasured s (s.appendRecord r) := by
  unfold State.appendRecord
  split
  · exact ((refl s).setLog _).setEvidence _
  · exact (refl s).setLog _

theorem refuseRecord_keeps (s : State) : KeepsMeasured s s.refuseRecord := by
  unfold State.refuseRecord
  split
  · exact (refl s).setLog _
  · exact ((refl s).setLog _).trans (triggerPulses_keeps _ _)

theorem storeRecord_keeps (s : State) (r : BreachRecord) : KeepsMeasured s (s.storeRecord r).1 := by
  unfold State.storeRecord
  split
  · exact appendRecord_keeps s r
  · split
    · exact (discardRecord_keeps s _).trans (appendRecord_keeps _ r)
    · exact refuseRecord_keeps s

/-! ### Holds -/

theorem setEnd_keeps (s : State) (r : SlotRef) (t : Nat) : KeepsMeasured s (s.setEnd r t) := by
  unfold State.setEnd
  split
  · exact (refl s).setRecorder _
  · exact refl s

theorem unlinkHold_keeps (s : State) (r : SlotRef) : KeepsMeasured s (s.unlinkHold r) :=
  (refl s).setPeers _ rfl rfl rfl (List.length_map ..)

theorem evictHold_keeps (s : State) (slot : Nat) : KeepsMeasured s (s.evictHold slot) := by
  unfold State.evictHold
  split
  · exact refl s
  · split <;> try exact ((refl s).setRecorder _).trans (changeRecord_keeps _ _ _)
    exact (((refl s).setRecorder _).trans (changeRecord_keeps _ _ _)).trans (unlinkHold_keeps _ _)

theorem evictAll_keeps (s : State) (l : List Nat) : KeepsMeasured s (s.evictAll l) :=
  foldl (fun s slot => evictHold_keeps s slot) l s

theorem releaseHold_keeps (s : State) (slot : Nat) : KeepsMeasured s (s.releaseHold slot) := by
  unfold State.releaseHold
  split
  · exact refl s
  · split <;> try exact ((refl s).setRecorder _).trans (changeRecord_keeps _ _ _)
    exact (((refl s).setRecorder _).trans (changeRecord_keeps _ _ _)).trans (unlinkHold_keeps _ _)

theorem placeHold_keeps (s : State) (p : Priority) (a : Nat) (b : Option Nat) (n : Option Nat) :
    KeepsMeasured s (s.placeHold p a b n).1 := by
  unfold State.placeHold
  split
  · exact refl s
  · dsimp only
    split
    · exact refl s
    · split
      · exact refl s
      · exact ((evictAll_keeps s _).setRecorder _).trans (changeRecord_keeps _ _ _)

/-! ### Notices -/

theorem offer_keeps (s : State) (n : Notice) (c : List Nat) : KeepsMeasured s (s.offer n c) := by
  unfold State.offer
  split
  · exact (refl s).setLink _
  · exact refl s

theorem upshift_keeps (s : State) : KeepsMeasured s s.upshift := by
  unfold State.upshift
  split
  · dsimp only
    split
    · exact (refl s).setLink _
    · exact ((((refl s).setLink _).setLink _).trans (offer_keeps _ _ _)).setLink _
  · exact refl s

/-! ### Records -/

theorem enterRecord_keeps (s : State) (q : BreachRequest) : KeepsMeasured s (s.enterRecord q).1 := by
  unfold State.enterRecord
  dsimp only
  have h : KeepsMeasured s _ := ((refl s).setLog { s.log with nextNumber := numberAfter s.log.drawn }).trans
    (triggerPulses_keeps _ (fun l => l.watches q.category))
  split
  · exact (h.trans (storeRecord_keeps _ _)).setLog _
  · exact h.trans (storeRecord_keeps _ _)

theorem announce_keeps (s : State) (q : BreachRequest) (n : Notice) : KeepsMeasured s (s.announce q n) := by
  unfold State.announce
  dsimp only
  split
  · split
    · exact (offer_keeps s _ _).trans (upshift_keeps _)
    · exact upshift_keeps s
  · split
    · exact offer_keeps s _ _
    · exact refl s

theorem createPlain_keeps (s : State) (q : BreachRequest) : KeepsMeasured s (s.createPlain q).1 :=
  (enterRecord_keeps s q).trans (announce_keeps _ _ _)

theorem createHoldRefused_keeps (s : State) (n : Option Nat) : KeepsMeasured s (s.createHoldRefused n) :=
  createPlain_keeps s _

theorem holdForRecord_keeps (s : State) (q : BreachRequest) (n : Option Nat) :
    KeepsMeasured s (s.holdForRecord q n) := by
  unfold State.holdForRecord
  split
  · dsimp only
    split
    · exact (placeHold_keeps s _ _ _ _).trans (createHoldRefused_keeps _ _)
    · exact (placeHold_keeps s _ _ _ _).setLog _
  · exact refl s

/-- Taking a creation request keeps every measuring block (R169). -/
theorem createBreach_keeps (s : State) (q : BreachRequest) : KeepsMeasured s (s.createBreach q).1 :=
  ((enterRecord_keeps s q).trans (holdForRecord_keeps _ _ _)).trans (announce_keeps _ _ _)

theorem raise_keeps (s : State) (q : BreachRequest) : KeepsMeasured s (s.raise q) := createBreach_keeps s q

/-- A close request keeps every measuring block (R170). -/
theorem closeBreach_keeps (s : State) (c : Category) (t : Stamp) (f : Option Int) (i : Bool) :
    KeepsMeasured s (s.closeBreach c t f i) := by
  unfold State.closeBreach
  split
  · exact refl s
  · dsimp only
    have closed : ∀ k : OpenCause, KeepsMeasured s
        (if k.stored then s.setLog (s.log.change k.number (closeRecord t f i)) else s) := by
      intro k
      split
      · exact (refl s).setLog _
      · exact refl s
    split <;> split <;> refine KeepsMeasured.setLog ?_ _
    · exact (closed _).trans (offer_keeps _ _ _)
    · exact ((closed _).trans (setEnd_keeps _ _ _)).trans (offer_keeps _ _ _)
    · exact closed _
    · exact (closed _).trans (setEnd_keeps _ _ _)

theorem closePeerNoted_keeps (s : State) (n : Nat) (t : Stamp) (i p l : Bool) :
    KeepsMeasured s (s.closePeerNoted n t i p l) := (refl s).setLog _

theorem placeSympathetic_keeps (s : State) (a : Nat) (b : Option Nat) (n : Option Nat) :
    KeepsMeasured s (s.placeSympathetic a b n).1 := by
  unfold State.placeSympathetic
  dsimp only
  split
  · exact (placeHold_keeps s _ _ _ _).trans (createHoldRefused_keeps _ _)
  · exact placeHold_keeps s _ _ _ _

theorem requestMark_keeps (s : State) (m : MarkRequest) : KeepsMeasured s (s.requestMark m) := (refl s).setRecorder _

/-! ### Divergence and peers -/

theorem closeDivergent_keeps (s : State) : KeepsMeasured s s.closeDivergent := by
  unfold State.closeDivergent
  split
  · exact ((KeepsMeasured.refl s).setPeers _ (by rfl) (by rfl) (by rfl) (by rfl)).trans (closeBreach_keeps _ _ _ _ _)
  · exact refl s

theorem judge_keeps (s : State) : KeepsMeasured s s.judge := by
  unfold State.judge
  dsimp only
  split
  · exact ((KeepsMeasured.refl s).setPeers _ (by rfl) (by rfl) (by rfl) (by rfl)).trans (closeDivergent_keeps _)
  · exact (KeepsMeasured.refl s).setPeers _ (by rfl) (by rfl) (by rfl) (by rfl)

theorem loseNoted_keeps (s : State) (e : NotedBreach) : KeepsMeasured s (s.loseNoted e) := by
  have ended : KeepsMeasured s (s.endHold e.hold s.now) := by
    unfold State.endHold
    split
    · exact refl s
    · exact setEnd_keeps s _ _
  unfold State.loseNoted
  dsimp only
  split
  · exact ended
  · exact ended.trans (closePeerNoted_keeps _ _ _ _ _ _)

/-- Ending the noted breaches of a lost peer keeps every measuring block (R148, step 1). -/
theorem loseAllNoted_keeps (l : List NotedBreach) (s : State) : KeepsMeasured s (l.foldl (fun t e => t.loseNoted e) s) :=
  foldl (fun s e => loseNoted_keeps s e) l s

end Sys2Proof.Machine
end

