-- ==== Sys2Proof/Laws/Pages.lean ====
section
/-! SUPPORT. The page store keeps its canonical form under every operation on it. -/

namespace Sys2Proof.Machine

/-! ### The list of pages -/

/-- The canonical form said element by element. -/
theorem pagesCanonical_iff : ∀ l : List Page,
    pagesCanonical l = true ↔ l.Pairwise (fun p q => p.index < q.index) ∧ ∀ p ∈ l, p.index < pageCount ∧ 1 ≤ p.seq
  | [] => by simp [pagesCanonical]
  | [p] => by simp [pagesCanonical]
  | p :: q :: rest => by
    have ih := pagesCanonical_iff (q :: rest)
    simp only [pagesCanonical, Bool.and_eq_true, decide_eq_true_eq, ih, List.pairwise_cons, List.mem_cons,
      forall_eq_or_imp]
    constructor
    · rintro ⟨⟨⟨hpq, hp⟩, hs⟩, ⟨hq, hrest⟩, hq', hall⟩
      exact ⟨⟨⟨hpq, fun r hr => hpq.trans (hq r hr)⟩, hq, hrest⟩, ⟨hp, hs⟩, hq', hall⟩
    · rintro ⟨⟨⟨hpq, _⟩, hq, hrest⟩, ⟨hp, hs⟩, hq', hall⟩
      exact ⟨⟨⟨hpq, hp⟩, hs⟩, ⟨hq, hrest⟩, hq', hall⟩

/-- Changing pages without touching index or sequence number keeps the form. -/
theorem pagesCanonical_map (f : Page → Page) (index : ∀ p, (f p).index = p.index) (seq : ∀ p, (f p).seq = p.seq)
    (l : List Page) : pagesCanonical (l.map f) = pagesCanonical l := by
  rw [Bool.eq_iff_iff, pagesCanonical_iff, pagesCanonical_iff, List.pairwise_map]
  simp [index, seq]

theorem mem_putPage {p r : Page} : ∀ {l : List Page}, r ∈ putPage p l → r = p ∨ r ∈ l
  | [], h => by simpa [putPage] using h
  | q :: qs, h => by
    unfold putPage at h
    split at h
    · simpa using h
    · split at h
      · rcases List.mem_cons.mp h with rfl | h
        · exact Or.inl rfl
        · exact Or.inr (List.mem_cons_of_mem _ h)
      · rcases List.mem_cons.mp h with rfl | h
        · exact Or.inr (List.mem_cons_self ..)
        · rcases mem_putPage h with h | h
          · exact Or.inl h
          · exact Or.inr (List.mem_cons_of_mem _ h)

/-- Putting a page in its place keeps the form. -/
theorem putPage_canonical (p : Page) (hp : p.index < pageCount ∧ 1 ≤ p.seq) :
    ∀ l : List Page, pagesCanonical l = true → pagesCanonical (putPage p l) = true
  | [], _ => by simp [putPage, pagesCanonical, hp]
  | q :: qs, h => by
    rw [pagesCanonical_iff] at h ⊢
    obtain ⟨hpair, hall⟩ := h
    rw [List.pairwise_cons] at hpair
    have htail : pagesCanonical qs = true := by
      rw [pagesCanonical_iff]
      exact ⟨hpair.2, fun r hr => hall r (List.mem_cons_of_mem _ hr)⟩
    unfold putPage
    split
    · rename_i hlt
      refine ⟨List.pairwise_cons.mpr ⟨fun r hr => ?_, List.pairwise_cons.mpr hpair⟩, ?_⟩
      · rcases List.mem_cons.mp hr with rfl | hr
        · exact hlt
        · exact hlt.trans (hpair.1 r hr)
      · intro r hr
        rcases List.mem_cons.mp hr with rfl | hr
        · exact hp
        · exact hall r hr
    · split
      · rename_i heq
        refine ⟨List.pairwise_cons.mpr ⟨fun r hr => heq ▸ hpair.1 r hr, hpair.2⟩, ?_⟩
        intro r hr
        rcases List.mem_cons.mp hr with rfl | hr
        · exact hp
        · exact hall r (List.mem_cons_of_mem _ hr)
      · rename_i hlt hne
        have ih := (pagesCanonical_iff _).mp (putPage_canonical p hp qs htail)
        refine ⟨List.pairwise_cons.mpr ⟨fun r hr => ?_, ih.1⟩, ?_⟩
        · rcases mem_putPage hr with rfl | hr
          · omega
          · exact hpair.1 r hr
        · intro r hr
          rcases List.mem_cons.mp hr with rfl | hr
          · exact hall r (List.mem_cons_self ..)
          · exact ih.2 r hr

/-! ### The Recorder's operations -/

/-- A change of pages that touches neither index nor sequence number keeps the store's form. -/
theorem Recorder.wf_of_map {r q : Recorder} (f : Page → Page) (index : ∀ p, (f p).index = p.index)
    (seq : ∀ p, (f p).seq = p.seq) (pages : q.pages = r.pages.map f) (counter : q.counter = r.counter) :
    q.wf = r.wf := by
  unfold Recorder.wf
  rw [pages, counter, pagesCanonical_map f index seq]

@[simp] theorem Recorder.pin_wf (r : Recorder) (test : Page → Bool) : (r.pin test).wf = r.wf :=
  Recorder.wf_of_map _ (fun p => by split <;> rfl) (fun p => by split <;> rfl) rfl rfl

@[simp] theorem Recorder.unpin_wf (r : Recorder) (test : Page → Bool) : (r.unpin test).wf = r.wf :=
  Recorder.wf_of_map _ (fun p => by split <;> rfl) (fun p => by split <;> rfl) rfl rfl

@[simp] theorem Recorder.changeHold_wf (r : Recorder) (slot : Nat) (f : Hold → Hold) : (r.changeHold slot f).wf = r.wf :=
  rfl

@[simp] theorem Recorder.changeOpen_wf (r : Recorder) (f : Hold → Hold) : (r.changeOpen f).wf = r.wf := rfl

@[simp] theorem Recorder.freeHold_wf (r : Recorder) (slot : Nat) : (r.freeHold slot).wf = r.wf := by
  unfold Recorder.freeHold
  split
  · rfl
  · exact Recorder.unpin_wf r _

@[simp] theorem Recorder.fillSlot_wf (r : Recorder) (slot : Nat) (h : Hold) : (r.fillSlot slot h).wf = r.wf :=
  Recorder.pin_wf r _

theorem Recorder.pinBegun_wf (r : Recorder) (index : Nat) : (r.pinBegun index).wf = r.wf := by
  unfold Recorder.pinBegun
  dsimp only
  split
  · rfl
  · exact Recorder.wf_of_map _ (fun p => by split <;> rfl) (fun p => by split <;> rfl) rfl rfl

theorem Recorder.append_wf (r : Recorder) (u : RecordedUnit) : (r.append u).wf = r.wf := by
  unfold Recorder.append
  split
  · rfl
  · exact Recorder.wf_of_map _ (fun p => by split <;> rfl) (fun p => by split <;> rfl) rfl rfl

/-- The chosen page lies in the store (R101). -/
theorem Recorder.chosenPage_lt {r : Recorder} {index : Nat} (h : r.wf = true) (c : r.chosenPage = some index) :
    index < pageCount := by
  unfold Recorder.chosenPage at c
  split at c
  · rename_i hlt
    exact Option.some.inj c ▸ hlt
  · cases hl : leastBy (fun p : Page => p.seq) (r.pages.filter (fun p => p.pins == 0)) with
    | none => simp [hl] at c
    | some p =>
      rw [hl] at c
      have hmem : ∀ (l : List Page) (x : Page), leastBy (fun p : Page => p.seq) l = some x → x ∈ l := by
        intro l
        induction l with
        | nil => intro x hx; simp [leastBy] at hx
        | cons y ys ih =>
          intro x hx
          unfold leastBy at hx
          split at hx
          · exact Option.some.inj hx ▸ List.mem_cons_self ..
          · rename_i z hz
            split at hx
            · exact Option.some.inj hx ▸ List.mem_cons_self ..
            · exact List.mem_cons_of_mem _ (Option.some.inj hx ▸ ih z hz)
      have hp := hmem _ _ hl
      unfold Recorder.wf at h
      rw [Bool.and_eq_true, pagesCanonical_iff] at h
      have := (h.2.2 p (List.mem_of_mem_filter hp)).1
      simpa [← Option.some.inj c] using this

theorem Recorder.beginUnpinned_wf {r : Recorder} {index : Nat} (h : r.wf = true) (i : index < pageCount) :
    (r.beginUnpinned index).wf = true := by
  unfold Recorder.wf at h ⊢
  rw [Bool.and_eq_true, decide_eq_true_eq] at h ⊢
  exact ⟨Nat.le_succ_of_le h.1, putPage_canonical _ ⟨i, h.1⟩ _ h.2⟩

/-- Full reset's page store is in canonical form. -/
theorem Recorder.reset_wf : Recorder.reset.wf = true := by decide

end Sys2Proof.Machine
end

