-- ==== Sys2Proof/Laws/Pins.lean ====
section
/-! SUPPORT. The Recorder's limits under each of its operations: the slots, the page store's form, the pinned-page total
and the pin budget. -/

namespace Sys2Proof.Machine

/-! ### Lists -/

@[simp] theorem changeAt_length {α : Type} (f : α → α) : ∀ (n : Nat) (l : List α), (changeAt f n l).length = l.length
  | _, [] => by simp [changeAt]
  | 0, _ :: _ => by simp [changeAt]
  | n + 1, _ :: ys => by simp [changeAt, changeAt_length f n ys]

/-- The pinned pages of a list. -/
def pinnedOf (l : List Page) : Nat := (l.filter (fun p => p.pins != 0)).length

theorem Recorder.pinnedPages_eq (r : Recorder) : r.pinnedPages = pinnedOf r.pages := rfl

theorem pinnedOf_pin (test : Page → Bool) : ∀ l : List Page,
    pinnedOf (l.map (fun p => if test p then { p with pins := p.pins + 1 } else p))
      = pinnedOf l + (l.filter (fun p => test p && p.pins == 0)).length
  | [] => rfl
  | p :: ps => by
    have ih := pinnedOf_pin test ps
    unfold pinnedOf at ih ⊢
    by_cases ht : test p = true <;> by_cases hp : p.pins = 0 <;>
      simp [List.filter_cons, ht, hp, ih] <;> omega

theorem pinnedOf_unpin (test : Page → Bool) : ∀ l : List Page,
    pinnedOf (l.map (fun p => if test p then { p with pins := p.pins - 1 } else p))
      + (l.filter (fun p => test p && p.pins == 1)).length = pinnedOf l
  | [] => rfl
  | p :: ps => by
    have ih := pinnedOf_unpin test ps
    unfold pinnedOf at ih ⊢
    by_cases ht : test p = true
    · rcases Nat.lt_trichotomy p.pins 1 with hp | hp | hp
      · have h0 : p.pins = 0 := by omega
        simpa [List.filter_cons, ht, h0] using ih
      · simp [ht, hp] at ih ⊢
        omega
      · have h0 : p.pins ≠ 0 := by omega
        have h1 : p.pins - 1 ≠ 0 := by omega
        have h2 : p.pins ≠ 1 := by omega
        simp [ht, h0, h1, h2] at ih ⊢
        omega
    · by_cases hp : p.pins = 0 <;> simp [ht, hp] at ih ⊢ <;> omega

theorem pinnedOf_putPage (p : Page) (unpinned : p.pins = 0) : ∀ l : List Page,
    (∀ q ∈ l, q.index = p.index → q.pins = 0) → pinnedOf (putPage p l) = pinnedOf l
  | [], _ => by simp [pinnedOf, putPage, unpinned]
  | q :: qs, h => by
    unfold putPage
    split
    · simp [pinnedOf, unpinned]
    · split
      · rename_i heq
        have := h q (List.mem_cons_self ..) heq.symm
        simp [pinnedOf, unpinned, this]
      · have ih := pinnedOf_putPage p unpinned qs (fun r hr => h r (List.mem_cons_of_mem _ hr))
        unfold pinnedOf at ih ⊢
        simp only [List.filter_cons]
        split <;> simp [ih]

theorem mem_putPage_self (p : Page) : ∀ l : List Page, p ∈ putPage p l
  | [] => by simp [putPage]
  | q :: qs => by
    unfold putPage
    split
    · exact List.mem_cons_self ..
    · split
      · exact List.mem_cons_self ..
      · exact List.mem_cons_of_mem _ (mem_putPage_self p qs)

theorem pinnedOf_pinBegun (index n : Nat) (hn : n ≠ 0) : ∀ l : List Page,
    l.Pairwise (fun p q => p.index < q.index) → (∃ p ∈ l, p.index = index ∧ p.pins = 0) →
    pinnedOf (l.map (fun p => if p.index == index then { p with pins := n } else p)) = pinnedOf l + 1
  | [], _, h => by simp at h
  | p :: ps, hw, h => by
    rw [List.pairwise_cons] at hw
    by_cases hp : p.index = index
    · have h0 : p.pins = 0 := by
        obtain ⟨q, hq, hqi, hq0⟩ := h
        rcases List.mem_cons.mp hq with rfl | hq
        · exact hq0
        · have := hw.1 q hq
          omega
      have hrest : ps.map (fun p => if p.index == index then { p with pins := n } else p) = ps := by
        refine (List.map_congr_left (g := id) fun q hq => ?_).trans (List.map_id ps)
        have := hw.1 q hq
        rw [if_neg]
        · rfl
        · simp only [beq_iff_eq]
          omega
      simp [pinnedOf, hp, h0, hn] at hrest ⊢
      rw [hrest]
    · have ih := pinnedOf_pinBegun index n hn ps hw.2 (by
        obtain ⟨q, hq, hqi, hq0⟩ := h
        rcases List.mem_cons.mp hq with rfl | hq
        · exact absurd hqi hp
        · exact ⟨q, hq, hqi, hq0⟩)
      unfold pinnedOf at ih ⊢
      simp only [beq_iff_eq] at ih
      by_cases h0 : p.pins = 0 <;> simp [hp, h0, ih]

theorem le_firstUnlisted : ∀ (l : List Page) (n : Nat), n ≤ firstUnlisted n l
  | [], n => by simp [firstUnlisted]
  | p :: ps, n => by
    unfold firstUnlisted
    split
    · exact Nat.le_of_succ_le (le_firstUnlisted ps (n + 1))
    · exact Nat.le_refl n

/-- The first unlisted index is listed nowhere (R101). -/
theorem firstUnlisted_fresh : ∀ (l : List Page) (n : Nat), l.Pairwise (fun p q => p.index < q.index) →
    (∀ p ∈ l, n ≤ p.index) → ∀ p ∈ l, p.index ≠ firstUnlisted n l
  | [], _, _, _, p, hp => by simp at hp
  | p :: ps, n, hw, hle, q, hq => by
    rw [List.pairwise_cons] at hw
    unfold firstUnlisted
    split
    · rename_i hpn
      rcases List.mem_cons.mp hq with rfl | hq
      · have := le_firstUnlisted ps (n + 1)
        omega
      · refine firstUnlisted_fresh ps (n + 1) hw.2 (fun r hr => ?_) q hq
        have := hw.1 r hr
        omega
    · rename_i hpn
      have hp := hle p (List.mem_cons_self ..)
      rcases List.mem_cons.mp hq with rfl | hq
      · exact hpn
      · have := hw.1 q hq
        omega

theorem leastBy_mem {α : Type} (key : α → Nat) : ∀ (l : List α) (x : α), leastBy key l = some x → x ∈ l
  | [], x, h => by simp [leastBy] at h
  | y :: ys, x, h => by
    unfold leastBy at h
    split at h
    · exact Option.some.inj h ▸ List.mem_cons_self ..
    · rename_i z hz
      split at h
      · exact Option.some.inj h ▸ List.mem_cons_self ..
      · exact List.mem_cons_of_mem _ (Option.some.inj h ▸ leastBy_mem key ys z hz)

theorem index_inj {l : List Page} (h : l.Pairwise (fun p q => p.index < q.index)) {p q : Page} (hp : p ∈ l) (hq : q ∈ l)
    (e : p.index = q.index) : p = q := by
  induction h with
  | nil => simp at hp
  | cons hx _ ih =>
    rcases List.mem_cons.mp hp with hp1 | hp1 <;> rcases List.mem_cons.mp hq with hq1 | hq1
    · rw [hp1, hq1]
    · have := hx q hq1
      rw [hp1] at e
      omega
    · have := hx p hp1
      rw [hq1] at e
      omega
    · exact ih hp1 hq1

/-- No page at the chosen index is pinned (R101). -/
theorem Recorder.chosenPage_unpinned {r : Recorder} {index : Nat} (h : r.wf = true) (c : r.chosenPage = some index) :
    ∀ q ∈ r.pages, q.index = index → q.pins = 0 := by
  unfold Recorder.wf at h
  rw [Bool.and_eq_true, pagesCanonical_iff] at h
  intro q hq hqi
  unfold Recorder.chosenPage at c
  split at c
  · exact absurd (hqi.trans (Option.some.inj c).symm) (firstUnlisted_fresh r.pages 0 h.2.1 (fun _ _ => Nat.zero_le _) q hq)
  · cases hl : leastBy (fun p : Page => p.seq) (r.pages.filter (fun p => p.pins == 0)) with
    | none => simp [hl] at c
    | some p =>
      rw [hl] at c
      have hp := List.mem_filter.mp (leastBy_mem _ _ _ hl)
      have hpi : p.index = index := by simpa using c
      rw [index_inj h.2.1 hq hp.1 (hqi.trans hpi.symm)]
      simpa using hp.2

/-! ### The Recorder's operations -/

namespace Recorder.Within

variable {r : Recorder}

theorem pin (h : r.Within) (test : Page → Bool)
    (room : r.pinnedTotal + r.countPages (fun p => test p && p.pins == 0) ≤ 61440) : (r.pin test).Within where
  slots := h.slots
  pages := (Recorder.pin_wf r test).trans h.pages
  pinned := by
    have := h.pinned
    rw [Recorder.pinnedPages_eq] at this
    rw [Recorder.pinnedPages_eq]
    exact (congrArg (· + r.countPages (fun p => test p && p.pins == 0)) this).trans (pinnedOf_pin test r.pages).symm
  budget := room

theorem unpin (h : r.Within) (test : Page → Bool) : (r.unpin test).Within where
  slots := h.slots
  pages := (Recorder.unpin_wf r test).trans h.pages
  pinned := by
    have e := h.pinned
    rw [Recorder.pinnedPages_eq, ← pinnedOf_unpin test r.pages] at e
    rw [Recorder.pinnedPages_eq]
    change r.pinnedTotal - (r.pages.filter (fun p => test p && p.pins == 1)).length = _
    rw [e, Nat.add_sub_cancel]
    rfl
  budget := Nat.le_trans (Nat.sub_le _ _) h.budget

/-- A change of slots that keeps their number. -/
theorem setSlots (h : r.Within) (l : List HoldSlot) (length : l.length = r.slots.length) :
    ({ r with slots := l } : Recorder).Within := ⟨length.trans h.slots, h.pages, h.pinned, h.budget⟩

theorem changeHold (h : r.Within) (slot : Nat) (f : Hold → Hold) : (r.changeHold slot f).Within :=
  h.setSlots _ (changeAt_length ..)

theorem changeOpen (h : r.Within) (f : Hold → Hold) : (r.changeOpen f).Within := h.setSlots _ (List.length_map ..)

theorem freeHold (h : r.Within) (slot : Nat) : (r.freeHold slot).Within := by
  unfold Recorder.freeHold
  split
  · exact h
  · exact (h.unpin _).setSlots _ (changeAt_length ..)

theorem freeAll (slots : List Nat) : ∀ {r : Recorder}, r.Within → (slots.foldl Recorder.freeHold r).Within := by
  induction slots with
  | nil => exact fun h => h
  | cons x xs ih => exact fun h => ih (h.freeHold x)

theorem fillSlot (h : r.Within) (slot : Nat) (hold : Hold)
    (room : r.pinnedTotal + r.countPages (fun p => r.covers hold p && p.pins == 0) ≤ 61440) :
    (r.fillSlot slot hold).Within := (h.pin _ room).setSlots _ (changeAt_length ..)

theorem beginUnpinned (h : r.Within) {index : Nat} (c : r.chosenPage = some index) : (r.beginUnpinned index).Within where
  slots := h.slots
  pages := Recorder.beginUnpinned_wf h.pages (Recorder.chosenPage_lt h.pages c)
  pinned := by
    have := h.pinned
    rw [Recorder.pinnedPages_eq] at this ⊢
    exact this.trans (pinnedOf_putPage _ rfl _ (Recorder.chosenPage_unpinned h.pages c)).symm
  budget := h.budget

theorem pinBegun (h : r.Within) {index : Nat} (begun : ∃ p ∈ r.pages, p.index = index ∧ p.pins = 0)
    (room : r.openHolds.length ≠ 0 → r.pinnedTotal < 61440) : (r.pinBegun index).Within := by
  by_cases h0 : r.openHolds.length = 0
  · unfold Recorder.pinBegun
    simp only [h0, if_true]
    exact h
  · refine ⟨?_, (Recorder.pinBegun_wf r index).trans h.pages, ?_, ?_⟩
    · unfold Recorder.pinBegun
      simp only [h0, if_false]
      exact (h.changeOpen _).slots
    · have hw := h.pages
      unfold Recorder.wf at hw
      rw [Bool.and_eq_true, pagesCanonical_iff] at hw
      rw [Recorder.pinnedPages_eq]
      unfold Recorder.pinBegun
      simp only [h0, if_false]
      rw [pinnedOf_pinBegun index _ h0 r.pages hw.2.1 begun, h.pinned, Recorder.pinnedPages_eq]
    · unfold Recorder.pinBegun
      simp only [h0, if_false]
      exact room h0

theorem append (h : r.Within) (u : RecordedUnit) : (r.append u).Within := by
  refine ⟨?_, (Recorder.append_wf r u).trans h.pages, ?_, ?_⟩
  · unfold Recorder.append
    split <;> exact h.slots
  · have e := h.pinned
    rw [Recorder.pinnedPages_eq] at e ⊢
    unfold Recorder.append
    split
    · exact e
    · rename_i index _
      refine e.trans ?_
      unfold pinnedOf
      rw [List.filter_map, List.length_map]
      congr 1
      refine List.filter_congr fun p _ => ?_
      simp only [Function.comp]
      split <;> rfl
  · unfold Recorder.append
    split <;> exact h.budget

/-- A change of what is being written, of the waiting MARK requests or of the last media time. -/
theorem setRest (h : r.Within) (writing : Option RecordedUnit) (marks : List MarkRequest) :
    ({ r with writing := writing, marks := marks } : Recorder).Within := ⟨h.slots, h.pages, h.pinned, h.budget⟩

end Recorder.Within

/-- The Recorder after full reset is within its limits (R98, R103, R120). -/
theorem Recorder.reset_within : Recorder.reset.Within := ⟨by decide, by decide, by decide, by decide⟩

/-! ### Evictions -/

/-- A chain of evictions that was chosen satisfies the test it was chosen for (R113, R115). -/
theorem shortestEviction_spec (test : Recorder → Bool) : ∀ (l : List Nat) (r : Recorder) (e : List Nat),
    shortestEviction test r l = some e → test (e.foldl Recorder.freeHold r) = true
  | [], r, e, h => by simp [shortestEviction] at h
  | slot :: rest, r, e, h => by
    unfold shortestEviction at h
    split at h
    · rename_i ht
      rw [← Option.some.inj h]
      exact ht
    · cases hr : shortestEviction test (r.freeHold slot) rest with
      | none => simp [hr] at h
      | some e' =>
        rw [hr] at h
        rw [← Option.some.inj h]
        exact shortestEviction_spec test rest (r.freeHold slot) e' hr

/-- Placement leaves room for the hold once the evictions are made (R113). -/
theorem Recorder.evictionsFor_room {r : Recorder} {h : Hold} {e : List Nat} (c : r.evictionsFor h = some e) :
    (e.foldl Recorder.freeHold r).roomFor h = true := by
  unfold Recorder.evictionsFor at c
  split at c
  · rename_i hr
    rw [← Option.some.inj c]
    exact hr
  · exact shortestEviction_spec (fun x => x.roomFor h) _ _ _ c

/-- The begun page stays unpinned while holds are evicted. -/
theorem Recorder.freeAll_begun {index : Nat} (slots : List Nat) : ∀ {r : Recorder},
    (∃ p ∈ r.pages, p.index = index ∧ p.pins = 0) →
    ∃ p ∈ (slots.foldl Recorder.freeHold r).pages, p.index = index ∧ p.pins = 0 := by
  induction slots with
  | nil => exact fun h => h
  | cons x xs ih =>
    intro r h
    refine ih ?_
    obtain ⟨p, hp, hi, h0⟩ := h
    unfold Recorder.freeHold
    split
    · exact ⟨p, hp, hi, h0⟩
    · rename_i hold _
      refine ⟨if r.covers hold p then { p with pins := p.pins - 1 } else p, List.mem_map_of_mem hp, ?_, ?_⟩
      · split <;> exact hi
      · split
        · simp [h0]
        · exact h0

end Sys2Proof.Machine
end

