-- ==== Sys2Proof/Laws/Limits.lean ====
section
/-! SUPPORT. What every operation that reports does besides its effect: the relation `Proceeds`, one lemma per operation of
the Breach Log, the Recorder, the Shelf Link Controller and the alarm lines. -/

namespace Sys2Proof.Machine

/-! ### Lists -/

theorem newest_length_le {α : Type} (n : Nat) (l : List α) : (newest n l).length ≤ n := by
  unfold newest
  rw [List.length_drop]
  omega

theorem placeBefore_perm {α : Type} (later : α → Bool) (x : α) : ∀ l : List α, (placeBefore later x l).Perm (x :: l)
  | [] => .refl _
  | y :: ys => by
    unfold placeBefore
    split
    · exact .refl _
    · exact ((placeBefore_perm later x ys).cons y).trans (.swap ..)

@[simp] theorem placeBefore_length {α : Type} (later : α → Bool) (x : α) (l : List α) :
    (placeBefore later x l).length = l.length + 1 := (placeBefore_perm later x l).length_eq

theorem sortBy_perm {α : Type} (key : α → Nat) : ∀ l : List α, (sortBy key l).Perm l
  | [] => .refl _
  | x :: xs => (placeBefore_perm _ x _).trans ((sortBy_perm key xs).cons x)

@[simp] theorem sortBy_length {α : Type} (key : α → Nat) (l : List α) : (sortBy key l).length = l.length :=
  (sortBy_perm key l).length_eq

/-- A filter that refuses some element leaves fewer. -/
theorem filter_length_lt {α : Type} {p : α → Bool} {l : List α} {x : α} (hx : x ∈ l) (hp : p x = false) :
    (l.filter p).length < l.length := by
  refine Nat.lt_of_le_of_ne (List.length_filter_le ..) fun h => ?_
  have := (List.length_filter_eq_length_iff.mp h) x hx
  simp [hp] at this

/-! ### The relation -/

theorem Startup.ListensOn.trans {a b c : Startup} (h : a.ListensOn b) (k : b.ListensOn c) : a.ListensOn c := by
  rcases h with rfl | ⟨ha, hb | hb⟩
  · exact k
  all_goals
    subst hb
    rcases k with rfl | ⟨hk, -⟩
    · simp [Startup.ListensOn, ha]
    · cases hk

namespace Proceeds

variable {s t u : State}

theorem refl (s : State) : Proceeds s s := ⟨rfl, .inl rfl, fun h => ⟨Nat.le_refl _, h⟩, id, id⟩

theorem trans (a : Proceeds s t) (b : Proceeds t u) : Proceeds s u where
  pending := b.pending.trans a.pending
  startup := a.startup.trans b.startup
  clock h := ⟨Nat.le_trans (a.clock h).1 (b.clock (a.clock h).2).1, (b.clock (a.clock h).2).2⟩
  limits := b.limits ∘ a.limits
  store := b.store ∘ a.store

/-- A chain of steps each of which proceeds does. -/
theorem foldl {α : Type} {f : State → α → State} (h : ∀ s x, Proceeds s (f s x)) :
    ∀ (l : List α) (s : State), Proceeds s (l.foldl f s)
  | [], s => refl s
  | x :: xs, s => (h s x).trans (foldl h xs (f s x))

theorem setStartup (h : Proceeds s t) (x : Startup) (w : t.startup.ListensOn x) : Proceeds s (t.setStartup x) :=
  h.trans ⟨rfl, w, fun c => ⟨Nat.le_refl _, c⟩, fun l => { l with }, id⟩

theorem setPort (h : Proceeds s t) (x : MediaPort) (w : t.port.Within → x.Within) : Proceeds s (t.setPort x) :=
  h.trans ⟨rfl, .inl rfl, fun c => ⟨Nat.le_refl _, c⟩, fun l => { l with port := w l.port }, id⟩

theorem setReception (h : Proceeds s t) (x : ReceptionMonitor)
    (w : t.reception.tally.length = 10 → x.tally.length = 10) : Proceeds s (t.setReception x) :=
  h.trans ⟨rfl, .inl rfl, fun c => ⟨Nat.le_refl _, c⟩, fun l => { l with tally := w l.tally }, id⟩

theorem setSegments (h : Proceeds s t) (x : SegmentTracker)
    (w : t.segments.pending.length ≤ 4 → x.pending.length ≤ 4) : Proceeds s (t.setSegments x) :=
  h.trans ⟨rfl, .inl rfl, fun c => ⟨Nat.le_refl _, c⟩, fun l => { l with cues := w l.cues }, id⟩

theorem setTime (h : Proceeds s t) (x : TimeBase)
    (clock : t.time.shelf ≤ shelfMax → t.time.shelf ≤ x.shelf ∧ x.shelf ≤ shelfMax)
    (w : t.time.history.length ≤ 3 → x.history.length ≤ 3) : Proceeds s (t.setTime x) :=
  h.trans ⟨rfl, .inl rfl, clock, fun l => { l with references := w l.references }, id⟩

/-- A change of the Time Base that leaves shelf time and the history alone. -/
theorem setTimeRest (h : Proceeds s t) (x : TimeBase) (shelf : x.shelf = t.time.shelf)
    (history : x.history = t.time.history) : Proceeds s (t.setTime x) :=
  h.setTime x (fun c => ⟨Nat.le_of_eq shelf.symm, shelf ▸ c⟩) (fun c => history ▸ c)

theorem setLoudness (h : Proceeds s t) (x : LoudnessUnit) (w : t.loudness.Within → x.Within) :
    Proceeds s (t.setLoudness x) :=
  h.trans ⟨rfl, .inl rfl, fun c => ⟨Nat.le_refl _, c⟩, fun l => { l with loudness := w l.loudness }, id⟩

/-- A change of the Loudness Unit that leaves its ring, chain and own signatures alone. -/
theorem setLoudnessRest (h : Proceeds s t) (x : LoudnessUnit) (ring : x.ring = t.loudness.ring)
    (chain : x.chain = t.loudness.chain) (own : x.ownHistory = t.loudness.ownHistory) :
    Proceeds s (t.setLoudness x) :=
  h.setLoudness x fun w => ⟨ring ▸ w.ring, chain ▸ w.chain, own ▸ w.signatures⟩

theorem setVerdicts (h : Proceeds s t) (x : VerdictFormer) (w : x.history.length ≤ 16) : Proceeds s (t.setVerdicts x) :=
  h.trans ⟨rfl, .inl rfl, fun c => ⟨Nat.le_refl _, c⟩, fun l => { l with verdicts := w }, id⟩

theorem setCaptions (h : Proceeds s t) (x : CaptionChecker) (w : t.captions.Within → x.Within) :
    Proceeds s (t.setCaptions x) :=
  h.trans ⟨rfl, .inl rfl, fun c => ⟨Nat.le_refl _, c⟩, fun l => { l with captions := w l.captions }, id⟩

/-- A change of the Caption Checker that leaves its timeline and counts alone. -/
theorem setCaptionsRest (h : Proceeds s t) (x : CaptionChecker) (timeline : x.timeline = t.captions.timeline)
    (sound : x.soundCount = t.captions.soundCount) (covered : x.coveredCount = t.captions.coveredCount)
    (progSound : x.progSound = t.captions.progSound) (progCovered : x.progCovered = t.captions.progCovered) :
    Proceeds s (t.setCaptions x) :=
  h.setCaptions x fun w => ⟨timeline ▸ w.timeline, sound ▸ covered ▸ w.covered, progSound ▸ progCovered ▸ w.progCovered⟩

theorem setRecorder (h : Proceeds s t) (x : Recorder) (w : t.recorder.Within → x.Within) :
    Proceeds s (t.setRecorder x) :=
  h.trans ⟨rfl, .inl rfl, fun c => ⟨Nat.le_refl _, c⟩, fun l => { l with }, w⟩

theorem setLink (h : Proceeds s t) (x : ShelfLink) (w : t.link.Within → x.Within) : Proceeds s (t.setLink x) :=
  h.trans ⟨rfl, .inl rfl, fun c => ⟨Nat.le_refl _, c⟩, fun l => { l with link := w l.link }, id⟩

/-- A change of the Shelf Link Controller that leaves its lists alone. -/
theorem setLinkRest (h : Proceeds s t) (x : ShelfLink) (queue : x.queue = t.link.queue) (unsent : x.unsent = t.link.unsent)
    (occupancy : x.occupancy = t.link.occupancy) : Proceeds s (t.setLink x) :=
  h.setLink x fun w => ⟨queue ▸ w.notices, unsent ▸ w.unsent, occupancy ▸ w.occupancy⟩

theorem setPeers (h : Proceeds s t) (x : PeerMonitor) (w : t.peers.Within → x.Within) : Proceeds s (t.setPeers x) :=
  h.trans ⟨rfl, .inl rfl, fun c => ⟨Nat.le_refl _, c⟩, fun l => { l with peers := w l.peers }, id⟩

/-- A change of the Peer Monitor that leaves its lists alone. -/
theorem setPeersRest (h : Proceeds s t) (x : PeerMonitor) (table : x.table = t.peers.table)
    (noted : x.noted.length = t.peers.noted.length) (cache : x.cache = t.peers.cache)
    (proxies : x.pendingVerdicts = t.peers.pendingVerdicts) : Proceeds s (t.setPeers x) :=
  h.setPeers x fun w => ⟨table ▸ w.peers, table ▸ w.stations, table ▸ w.stores, noted ▸ w.noted, cache ▸ w.cache,
    proxies ▸ w.proxies⟩

theorem setLog (h : Proceeds s t) (x : BreachLog) (w : t.log.Within → x.Within) : Proceeds s (t.setLog x) :=
  h.trans ⟨rfl, .inl rfl, fun c => ⟨Nat.le_refl _, c⟩, fun l => { l with log := w l.log }, id⟩

theorem setAlarms (h : Proceeds s t) (x : AlarmDriver) (w : t.alarms.pulseEnds.length = 4 → x.pulseEnds.length = 4) :
    Proceeds s (t.setAlarms x) :=
  h.trans ⟨rfl, .inl rfl, fun c => ⟨Nat.le_refl _, c⟩, fun l => { l with pulses := w l.pulses }, id⟩

theorem setEvidence (h : Proceeds s t) (x : EvidencePort) : Proceeds s (t.setEvidence x) :=
  h.trans ⟨rfl, .inl rfl, fun c => ⟨Nat.le_refl _, c⟩, fun l => { l with }, id⟩

end Proceeds

open Proceeds

/-! ### Alarm lines and the log's store -/

theorem triggerPulses_proceeds (s : State) (w : LineConfig → Bool) : Proceeds s (s.triggerPulses w) := by
  unfold State.triggerPulses
  split
  · exact Proceeds.refl s
  · exact (Proceeds.refl s).setAlarms _ fun h => by simpa using h

theorem BreachLog.Within.change {l : BreachLog} (h : l.Within) (n : Nat) (f : BreachRecord → BreachRecord) :
    (l.change n f).Within := ⟨by simpa [BreachLog.change] using h.records, h.causes⟩

theorem changeRecord_proceeds (s : State) (n : Option Nat) (f : BreachRecord → BreachRecord) :
    Proceeds s (s.changeRecord n f) := by
  unfold State.changeRecord
  split
  · exact Proceeds.refl s
  · exact (Proceeds.refl s).setLog _ fun h => h.change _ f

theorem appendRecord_proceeds {s t : State} (h : Proceeds s t) (r : BreachRecord)
    (room : s.log.Within → t.log.records.length < 128) : Proceeds s (t.appendRecord r) := by
  have h' : Proceeds s (t.setLog { t.log with
      records := t.log.records ++ [{ r with serial := t.log.nextSerial }], nextSerial := t.log.nextSerial + 1 }) :=
    ⟨h.pending, h.startup, h.clock, fun w =>
      { h.limits w with log := ⟨by have := room w.log; simp; omega, (h.limits w).log.causes⟩ }, h.store⟩
  unfold State.appendRecord
  split
  · exact h'.setEvidence _
  · exact h'

theorem discardRecord_proceeds (s : State) (r : BreachRecord) : Proceeds s (s.discardRecord r) := by
  have h : Proceeds s (s.setLog { s.log with
      records := s.log.records.filter (fun x => x.serial != r.serial), full := false }) :=
    (Proceeds.refl s).setLog _ fun h => ⟨Nat.le_trans (List.length_filter_le ..) h.records, h.causes⟩
  unfold State.discardRecord
  split
  · exact h.setEvidence _
  · exact h

theorem discardable_mem {l : BreachLog} {r : BreachRecord} (h : l.discardable = some r) : r ∈ l.records := by
  unfold BreachLog.discardable at h
  split at h
  · rename_i x hx
    exact Option.some.inj h ▸ List.mem_of_find?_eq_some hx
  · exact List.mem_of_find?_eq_some h

/-- A discard leaves fewer records (R172). -/
theorem discardRecord_fewer {s : State} {r : BreachRecord} (h : r ∈ s.log.records) :
    (s.discardRecord r).log.records.length < s.log.records.length := by
  have : (s.discardRecord r).log.records = s.log.records.filter (fun x => x.serial != r.serial) := by
    unfold State.discardRecord
    split <;> rfl
  rw [this]
  exact filter_length_lt h (by simp)

theorem refuseRecord_proceeds (s : State) : Proceeds s s.refuseRecord := by
  have h : Proceeds s (s.setLog { s.log with overflow := addCount s.log.overflow 1, full := true }) :=
    (Proceeds.refl s).setLog _ fun h => ⟨h.records, h.causes⟩
  unfold State.refuseRecord
  split
  · exact h
  · exact h.trans (triggerPulses_proceeds _ _)

theorem storeRecord_proceeds (s : State) (r : BreachRecord) : Proceeds s (s.storeRecord r).1 := by
  unfold State.storeRecord
  split
  · rename_i hlt
    exact appendRecord_proceeds (Proceeds.refl s) r fun _ => hlt
  · split
    · rename_i old hold
      refine appendRecord_proceeds (discardRecord_proceeds s old) r fun w => ?_
      have := discardRecord_fewer (s := s) (discardable_mem hold)
      have := w.records
      omega
    · exact refuseRecord_proceeds s

/-! ### Holds -/

theorem setEnd_proceeds (s : State) (r : SlotRef) (t : Nat) : Proceeds s (s.setEnd r t) := by
  unfold State.setEnd
  split
  · exact (Proceeds.refl s).setRecorder _ fun h => h.changeHold _ _
  · exact Proceeds.refl s

theorem unlinkHold_proceeds (s : State) (r : SlotRef) : Proceeds s (s.unlinkHold r) :=
  (Proceeds.refl s).setPeersRest _ (by rfl) (List.length_map ..) (by rfl) (by rfl)

theorem evictHold_proceeds (s : State) (slot : Nat) : Proceeds s (s.evictHold slot) := by
  unfold State.evictHold
  split
  · exact Proceeds.refl s
  · have told : ∀ n, Proceeds s ((s.setRecorder (s.recorder.freeHold slot)).reportEvicted n) := fun n =>
      ((Proceeds.refl s).setRecorder _ fun h => h.freeHold slot).trans (changeRecord_proceeds _ _ _)
    split
    · exact (told _).trans (unlinkHold_proceeds _ _)
    · exact told _
    · exact told _

theorem evictAll_proceeds (s : State) (l : List Nat) : Proceeds s (s.evictAll l) :=
  Proceeds.foldl (fun s slot => evictHold_proceeds s slot) l s

@[simp] theorem changeRecord_recorder (s : State) (n : Option Nat) (f : BreachRecord → BreachRecord) :
    (s.changeRecord n f).recorder = s.recorder := by
  unfold State.changeRecord
  split <;> rfl

/-- What an eviction leaves of the Recorder: the hold freed (R116). -/
@[simp] theorem evictHold_recorder (s : State) (slot : Nat) :
    (s.evictHold slot).recorder = s.recorder.freeHold slot := by
  unfold State.evictHold
  split
  · rename_i h
    unfold Recorder.freeHold
    rw [h]
  · split <;> simp [State.reportEvicted, State.unlinkHold]

@[simp] theorem evictAll_recorder (l : List Nat) : ∀ s : State,
    (s.evictAll l).recorder = l.foldl Recorder.freeHold s.recorder := by
  induction l with
  | nil => exact fun _ => rfl
  | cons x xs ih =>
    intro s
    have := ih (s.evictHold x)
    simpa [State.evictAll] using this

theorem releaseHold_proceeds (s : State) (slot : Nat) : Proceeds s (s.releaseHold slot) := by
  unfold State.releaseHold
  split
  · exact Proceeds.refl s
  · have told : ∀ n, Proceeds s ((s.setRecorder (s.recorder.freeHold slot)).reportReleased n) := fun n =>
      ((Proceeds.refl s).setRecorder _ fun h => h.freeHold slot).trans (changeRecord_proceeds _ _ _)
    split
    · exact (told _).trans (unlinkHold_proceeds _ _)
    · exact told _
    · exact told _

theorem placeHold_proceeds (s : State) (p : Priority) (a : Nat) (b : Option Nat) (n : Option Nat) :
    Proceeds s (s.placeHold p a b n).1 := by
  unfold State.placeHold
  split
  · exact Proceeds.refl s
  · rename_i i _
    dsimp only
    split
    · exact Proceeds.refl s
    · rename_i evicted he
      split
      · exact Proceeds.refl s
      · rename_i slot _
        refine Proceeds.trans ((evictAll_proceeds s evicted).setRecorder _ fun h => ?_) (changeRecord_proceeds _ _ _)
        refine h.fillSlot _ _ ?_
        have room := Recorder.evictionsFor_room he
        rw [evictAll_recorder]
        unfold Recorder.roomFor at room
        rw [Bool.and_eq_true, decide_eq_true_eq] at room
        exact room.1

/-! ### Notices -/

theorem ShelfLink.Within.settle {l : ShelfLink} (h : l.Within) (old : Option Nat) : (l.settle old).Within := by
  unfold ShelfLink.settle ShelfLink.atRest
  split
  · exact h
  · split
    · exact h
    · exact ⟨h.notices, h.unsent, h.occupancy⟩
  · exact ⟨h.notices, h.unsent, h.occupancy⟩
  · exact ⟨h.notices, h.unsent, h.occupancy⟩

theorem ShelfLink.Within.accept {l : ShelfLink} (h : l.Within) (q : QueuedNotice) : (l.accept q).Within := by
  unfold ShelfLink.accept ShelfLink.replaceStatus ShelfLink.place transmitQueueMax
  split
  · exact ⟨by simpa using h.notices, h.unsent, h.occupancy⟩
  · split
    · rename_i hlt
      exact ⟨by simpa using hlt, h.unsent, h.occupancy⟩
    · split
      · rename_i hany
        obtain ⟨y, hy, hs⟩ := List.any_eq_true.mp hany
        have := filter_length_lt (p := fun y : QueuedNotice => !y.notice.isStatus) hy (by simp [hs])
        have := h.notices
        refine ⟨?_, h.unsent, h.occupancy⟩
        simp only [placeBefore_length]
        omega
      · exact ⟨h.notices, h.unsent, h.occupancy⟩

theorem offer_proceeds (s : State) (n : Notice) (c : List Nat) : Proceeds s (s.offer n c) := by
  unfold State.offer
  split
  · refine (Proceeds.refl s).setLink _ fun h => ?_
    exact (ShelfLink.Within.accept (l := { s.link with nextUid := s.link.nextUid + 1 })
      ⟨h.notices, h.unsent, h.occupancy⟩ _).settle _
  · exact Proceeds.refl s

theorem upshift_proceeds (s : State) : Proceeds s s.upshift := by
  unfold State.upshift
  split
  · dsimp only
    have moved := (Proceeds.refl s).setLinkRest
      { s.link with downshift := some (s.now + s.config.steadyDelay * second) } (by rfl) (by rfl) (by rfl)
    split
    · exact moved
    · refine Proceeds.setLinkRest ?_ _ (by rfl) (by rfl) (by rfl)
      exact (moved.setLinkRest _ (by rfl) (by rfl) (by rfl)).trans (offer_proceeds _ _ _)
  · exact Proceeds.refl s

theorem offerSignature_proceeds (s : State) (g : Signature) : Proceeds s (s.offerSignature g) :=
  (Proceeds.refl s).setLink _ fun h => ⟨h.notices, newest_length_le .., h.occupancy⟩

/-! ### Records -/

theorem BreachLog.Within.putCause {l : BreachLog} (h : l.Within) (c : OpenCause) : (l.putCause c).Within := by
  refine ⟨h.records, ?_⟩
  have hp := (placeBefore_perm (fun y : OpenCause => c.category.code < y.category.code) c
    (l.causes.filter (fun y => y.category != c.category))).map (fun y => y.category)
  refine hp.nodup_iff.mpr ?_
  rw [List.map_cons, List.nodup_cons]
  refine ⟨?_, (List.filter_sublist.map _).nodup h.causes⟩
  intro hm
  obtain ⟨y, hy, he⟩ := List.mem_map.mp hm
  simp [he] at hy

theorem enterRecord_proceeds (s : State) (q : BreachRequest) : Proceeds s (s.enterRecord q).1 := by
  unfold State.enterRecord
  dsimp only
  have h : Proceeds s _ := ((Proceeds.refl s).setLog { s.log with nextNumber := numberAfter s.log.drawn }
    (fun w => ⟨w.records, w.causes⟩)).trans (triggerPulses_proceeds _ (fun l => l.watches q.category))
  split
  · exact (h.trans (storeRecord_proceeds _ _)).setLog _ fun w => w.putCause _
  · exact h.trans (storeRecord_proceeds _ _)

theorem announce_proceeds (s : State) (q : BreachRequest) (n : Notice) : Proceeds s (s.announce q n) := by
  unfold State.announce
  dsimp only
  split
  · split
    · exact (offer_proceeds s _ _).trans (upshift_proceeds _)
    · exact upshift_proceeds s
  · split
    · exact offer_proceeds s _ _
    · exact Proceeds.refl s

theorem createPlain_proceeds (s : State) (q : BreachRequest) : Proceeds s (s.createPlain q).1 :=
  (enterRecord_proceeds s q).trans (announce_proceeds _ _ _)

theorem createHoldRefused_proceeds (s : State) (n : Option Nat) : Proceeds s (s.createHoldRefused n) :=
  createPlain_proceeds s _

theorem holdForRecord_proceeds (s : State) (q : BreachRequest) (n : Option Nat) :
    Proceeds s (s.holdForRecord q n) := by
  unfold State.holdForRecord
  split
  · dsimp only
    split
    · exact (placeHold_proceeds s _ _ _ _).trans (createHoldRefused_proceeds _ _)
    · refine (placeHold_proceeds s _ _ _ _).setLog _ fun w => ⟨w.records, ?_⟩
      rw [List.map_map]
      refine (List.map_congr_left fun c _ => ?_).symm ▸ w.causes
      dsimp only [Function.comp]
      split <;> rfl
  · exact Proceeds.refl s

/-- Taking a creation request proceeds (R169). -/
theorem createBreach_proceeds (s : State) (q : BreachRequest) : Proceeds s (s.createBreach q).1 :=
  ((enterRecord_proceeds s q).trans (holdForRecord_proceeds _ _ _)).trans (announce_proceeds _ _ _)

theorem raise_proceeds (s : State) (q : BreachRequest) : Proceeds s (s.raise q) := createBreach_proceeds s q

/-- A close request proceeds (R170). -/
theorem closeBreach_proceeds (s : State) (c : Category) (t : Stamp) (f : Option Int) (i : Bool) :
    Proceeds s (s.closeBreach c t f i) := by
  unfold State.closeBreach
  split
  · exact Proceeds.refl s
  · dsimp only
    have closed : ∀ k : OpenCause, Proceeds s
        (if k.stored then s.setLog (s.log.change k.number (closeRecord t f i)) else s) := by
      intro k
      split
      · exact (Proceeds.refl s).setLog _ fun w => w.change _ _
      · exact Proceeds.refl s
    have last : ∀ u : State, u.log.Within →
        BreachLog.Within { u.log with causes := u.log.causes.filter (fun y => y.category != c) } :=
      fun u w => ⟨w.records, (List.filter_sublist.map _).nodup w.causes⟩
    split <;> split <;> refine Proceeds.setLog ?_ _ (last _)
    · exact (closed _).trans (offer_proceeds _ _ _)
    · exact ((closed _).trans (setEnd_proceeds _ _ _)).trans (offer_proceeds _ _ _)
    · exact closed _
    · exact (closed _).trans (setEnd_proceeds _ _ _)

theorem closePeerNoted_proceeds (s : State) (n : Nat) (t : Stamp) (i p l : Bool) :
    Proceeds s (s.closePeerNoted n t i p l) := (Proceeds.refl s).setLog _ fun w => w.change _ _

theorem placeSympathetic_proceeds (s : State) (a : Nat) (b : Option Nat) (n : Option Nat) :
    Proceeds s (s.placeSympathetic a b n).1 := by
  unfold State.placeSympathetic
  dsimp only
  split
  · exact (placeHold_proceeds s _ _ _ _).trans (createHoldRefused_proceeds _ _)
  · exact placeHold_proceeds s _ _ _ _

/-! ### Pages, MARK units and restart cuts -/

theorem requestMark_proceeds (s : State) (m : MarkRequest) : Proceeds s (s.requestMark m) :=
  (Proceeds.refl s).setRecorder _ fun w => ⟨w.slots, w.pages, w.pinned, w.budget⟩

theorem truncateOpen_proceeds (s : State) (n : Nat) (t : Nat) : Proceeds s (s.truncateOpen n t) :=
  ((Proceeds.refl s).setRecorder _ fun w => w.changeOpen _).trans
    (Proceeds.foldl (fun s _ => changeRecord_proceeds s _ _) _ _)

/-- Beginning a page proceeds: the budget is not passed (R101, R108, R115). -/
theorem beginPage_proceeds (s : State) (stamp : Stamp) : Proceeds s (s.beginPage stamp) := by
  unfold State.beginPage
  split
  · exact Proceeds.refl s
  · rename_i index hc
    dsimp only
    have begun : Proceeds s (s.setRecorder (s.recorder.beginUnpinned index)) :=
      (Proceeds.refl s).setRecorder _ fun w => w.beginUnpinned hc
    have listed : ∃ p ∈ (s.recorder.beginUnpinned index).pages, p.index = index ∧ p.pins = 0 :=
      ⟨_, mem_putPage_self _ _, rfl, rfl⟩
    split
    · rename_i hroom
      refine begun.setRecorder _ fun w => w.pinBegun listed fun hne => ?_
      rw [Bool.or_eq_true, decide_eq_true_eq] at hroom
      rcases hroom with h | h
      · exact absurd (List.isEmpty_iff_length_eq_zero.mp h) hne
      · exact h
    · split
      · rename_i slots hs
        have fewer := shortestEviction_spec _ _ _ _ hs
        rw [decide_eq_true_eq] at fewer
        have cleared := begun.trans (evictAll_proceeds _ slots)
        refine ⟨cleared.pending, cleared.startup, cleared.clock, fun w => { cleared.limits w with }, fun w => ?_⟩
        refine ((cleared.store w).changeOpen _).pinBegun ?_ fun _ => ?_
        · rw [evictAll_recorder]
          exact Recorder.freeAll_begun slots listed
        · have := w.budget
          have total : (s.recorder.beginUnpinned index).pinnedTotal = s.recorder.pinnedTotal := rfl
          rw [evictAll_recorder]
          change (slots.foldl Recorder.freeHold (s.recorder.beginUnpinned index)).pinnedTotal < 61440
          simp only [State.setRecorder_recorder] at fewer
          omega
      · exact begun.trans (truncateOpen_proceeds _ _ _)

end Sys2Proof.Machine
end

