-- ==== Sys2Proof/Laws/Proceeds.lean ====
section
/-! SUPPORT. The relation `Proceeds` for the operations of the Time Base, the Peer Monitor, the Reception Monitor, the
Verdict Former, the Caption Checker, the Loudness Unit, the Segment Tracker and the Media Port. -/

namespace Sys2Proof.Machine

open Proceeds

/-! ### Time Base -/

theorem reportSource_proceeds (s : State) (c : TimeClass) : Proceeds s (s.reportSource c) := by
  unfold State.reportSource
  split
  · split
    · exact raise_proceeds s _
    · split
      · exact closeBreach_proceeds s _ _ _ _
      · exact Proceeds.refl s
  · exact Proceeds.refl s

theorem enterSource_proceeds (s : State) (c : TimeClass) : Proceeds s (s.enterSource c) :=
  ((Proceeds.refl s).setTimeRest _ (by rfl) (by rfl)).trans (reportSource_proceeds _ _)

theorem settleTimeRecords_proceeds (s : State) : Proceeds s s.settleTimeRecords := by
  unfold State.settleTimeRecords
  dsimp only
  split <;> split
  · exact (raise_proceeds s _).trans (raise_proceeds _ _)
  · exact raise_proceeds s _
  · exact raise_proceeds s _
  · exact Proceeds.refl s

theorem follow_proceeds (s : State) (e : PeerEntry) : Proceeds s (s.follow e) :=
  ((Proceeds.refl s).setTimeRest _ (by rfl) (by rfl)).trans (enterSource_proceeds _ _)

theorem considerPeers_proceeds (s : State) : Proceeds s s.considerPeers := by
  unfold State.considerPeers
  split
  · exact follow_proceeds s _
  · split
    · exact follow_proceeds s _
    · exact Proceeds.refl s
  · exact Proceeds.refl s

theorem loseFollowed_proceeds (s : State) (n : Byte) : Proceeds s (s.loseFollowed n) := by
  unfold State.loseFollowed
  split
  · split
    · exact follow_proceeds s _
    · exact enterSource_proceeds s _
  · exact Proceeds.refl s

/-! ### Peer Monitor: judgement and removal -/

theorem closeDivergent_proceeds (s : State) : Proceeds s s.closeDivergent := by
  unfold State.closeDivergent
  split
  · exact ((Proceeds.refl s).setPeersRest _ (by rfl) (by rfl) (by rfl) (by rfl)).trans (closeBreach_proceeds _ _ _ _ _)
  · exact Proceeds.refl s

theorem judge_proceeds (s : State) : Proceeds s s.judge := by
  unfold State.judge
  dsimp only
  have timed := (Proceeds.refl s).setPeersRest { s.peers with divergence := s.divergenceTimer }
    (by rfl) (by rfl) (by rfl) (by rfl)
  split
  · exact timed.trans (closeDivergent_proceeds _)
  · exact timed

theorem endHold_proceeds (s : State) (r : Option SlotRef) (t : Nat) : Proceeds s (s.endHold r t) := by
  unfold State.endHold
  split
  · exact Proceeds.refl s
  · exact setEnd_proceeds s _ _

theorem loseNoted_proceeds (s : State) (e : NotedBreach) : Proceeds s (s.loseNoted e) := by
  unfold State.loseNoted
  dsimp only
  split
  · exact endHold_proceeds s _ _
  · exact (endHold_proceeds s _ _).trans (closePeerNoted_proceeds _ _ _ _ _ _)

/-- Dropping entries of the table, noted breaches and cache entries keeps the limits. -/
theorem PeerMonitor.Within.filter {p : PeerMonitor} (h : p.Within) (f : NotedBreach → Bool) (g : CacheEntry → Bool)
    (k : PeerEntry → Bool) :
    PeerMonitor.Within { p with noted := p.noted.filter f, cache := p.cache.filter g, table := p.table.filter k } where
  peers := Nat.le_trans (List.length_filter_le ..) h.peers
  stations := (List.filter_sublist.map _).nodup h.stations
  stores e he := h.stores e (List.mem_of_mem_filter he)
  noted := Nat.le_trans (List.length_filter_le ..) h.noted
  cache := Nat.le_trans (List.length_filter_le ..) h.cache
  proxies := h.proxies

/-- A change of one entry that keeps its number and its store's limit. -/
theorem PeerMonitor.Within.change {p : PeerMonitor} (h : p.Within) (n : Byte) (f : PeerEntry → PeerEntry)
    (station : ∀ e, (f e).station = e.station) (store : ∀ e, e.store.length ≤ 16 → (f e).store.length ≤ 16) :
    (p.change n f).Within where
  peers := by simpa [PeerMonitor.change] using h.peers
  stations := by
    have : (p.change n f).table.map (fun e => e.station) = p.table.map (fun e => e.station) := by
      simp only [PeerMonitor.change, List.map_map]
      refine List.map_congr_left fun e _ => ?_
      dsimp only [Function.comp]
      split
      · exact station e
      · rfl
    rw [this]
    exact h.stations
  stores := by
    intro e he
    obtain ⟨x, hx, rfl⟩ := List.mem_map.mp he
    split
    · exact store x (h.stores x hx)
    · exact h.stores x hx
  noted := h.noted
  cache := h.cache
  proxies := h.proxies

theorem dropPeer_proceeds (s : State) (n : Byte) : Proceeds s (s.dropPeer n) :=
  (Proceeds.foldl (fun s e => loseNoted_proceeds s e) _ s).setPeers _ fun w => w.filter _ _ _

theorem removePeer_proceeds (s : State) (n : Byte) : Proceeds s (s.removePeer n) :=
  ((((dropPeer_proceeds s n).trans (upshift_proceeds _)).trans (loseFollowed_proceeds _ _)).trans
    (considerPeers_proceeds _)).trans (judge_proceeds _)

/-! ### Reception Monitor -/

theorem advanceTo_length (r : ReceptionMonitor) (n : Nat) (h : r.tally.length = 10) : (r.advanceTo n).tally.length = 10 := by
  unfold ReceptionMonitor.advanceTo
  simp only [List.length_take, List.length_append, List.length_replicate, h]
  omega

theorem enterImpaired_proceeds (s : State) (n : Nat) : Proceeds s (s.enterImpaired n) :=
  ((((((Proceeds.refl s).setReception _ (by exact fun h => h)).trans (raise_proceeds _ _))).setCaptionsRest _
    (by rfl) (by rfl) (by rfl) (by rfl) (by rfl)).trans (closeDivergent_proceeds _)).trans (judge_proceeds _)

theorem evaluate_proceeds (s : State) : Proceeds s s.evaluate := by
  unfold State.evaluate
  dsimp only
  have t := (Proceeds.refl s).setReception { s.reception with effective := s.reception.quality } fun h => h
  split
  · exact t
  · split
    · split
      · exact t.trans (enterImpaired_proceeds _ _)
      · exact t
    · exact t.setReception _ (by exact fun h => h)

theorem acceptQuality_proceeds (s : State) (t : Nat) (p : List Byte) : Proceeds s (s.acceptQuality t p) :=
  ((Proceeds.refl s).setReception _ (by exact fun h => h)).trans (evaluate_proceeds _)

theorem acceptAudio_proceeds (s : State) (t : Nat) (d : Bool) : Proceeds s (s.acceptAudio t d) :=
  ((Proceeds.refl s).setReception _ (by
    intro h
    simpa [ReceptionMonitor.countAudio] using advanceTo_length _ _ h)).trans (evaluate_proceeds _)

/-! ### Verdict Former and proxy verdicts -/

theorem issue_proceeds (s : State) (v : Verdict) : Proceeds s (s.issue v) := by
  unfold State.issue
  dsimp only
  have entered := fun n => (Proceeds.refl s).setVerdicts
    ⟨newest 16 (s.verdicts.history ++ [{ v with serial := s.verdicts.nextSerial }]), n⟩ (newest_length_le ..)
  split
  · exact (entered _).setEvidence _
  · split
    · exact entered _
    · exact (entered _).setEvidence _

theorem issue_peers (s : State) (v : Verdict) : (s.issue v).peers = s.peers := by
  unfold State.issue
  dsimp only
  split
  · rfl
  · split <;> rfl

theorem checkLoudness_proceeds (s : State) (v : Verdict) (p : Bool) : Proceeds s (s.checkLoudness v p) := by
  unfold State.checkLoudness
  split
  · exact Proceeds.refl s
  · exact raise_proceeds s _

theorem issueOwn_proceeds (s : State) (v : Verdict) : Proceeds s (s.issueOwn v) :=
  ((issue_proceeds s _).trans (offer_proceeds _ _ _)).trans (checkLoudness_proceeds _ _ _)

theorem issueUnmeasured_proceeds (s : State) (v : Verdict) : Proceeds s (s.issueUnmeasured v) :=
  (issue_proceeds s _).trans (raise_proceeds _ _)

theorem resolveProxy_proceeds (s : State) (v : Verdict) (c : CacheEntry) : Proceeds s (s.resolveProxy v c) :=
  (issue_proceeds s _).trans (checkLoudness_proceeds _ _ _)

theorem PeerMonitor.Within.takePending {p : PeerMonitor} (h : p.Within) (e : PendingVerdict) : (p.takePending e).Within :=
  ⟨h.peers, h.stations, h.stores, h.noted, h.cache, Nat.le_trans (List.length_erase_le ..) h.proxies⟩

theorem resolveUnmeasured_proceeds (s : State) (e : PendingVerdict) : Proceeds s (s.resolveUnmeasured e) :=
  ((Proceeds.refl s).setPeers _ fun w => w.takePending e).trans (issueUnmeasured_proceeds _ _)

theorem checkEntry_proceeds (s : State) (c : CacheEntry) : Proceeds s (s.checkEntry c) := by
  unfold State.checkEntry
  refine Proceeds.foldl (fun t e => ?_) _ s
  split
  · exact ((Proceeds.refl t).setPeers _ fun w => w.takePending e).trans (resolveProxy_proceeds _ _ _)
  · exact Proceeds.refl t

theorem checkPeerCache_proceeds (s : State) (n : Byte) : Proceeds s (s.checkPeerCache n) :=
  Proceeds.foldl (fun t c => checkEntry_proceeds t c) _ s

/-- A pending verdict that is resolved leaves the list (R163). -/
theorem resolveUnmeasured_pending (s : State) (e : PendingVerdict) :
    (s.resolveUnmeasured e).peers.pendingVerdicts = s.peers.pendingVerdicts.erase e := by
  unfold State.resolveUnmeasured State.issueUnmeasured
  rw [(raise_keeps _ _).proxies, issue_peers]
  rfl

theorem PeerMonitor.Within.setProxies {p : PeerMonitor} (h : p.Within) (l : List PendingVerdict) (room : l.length ≤ 4) :
    PeerMonitor.Within { p with pendingVerdicts := l } := ⟨h.peers, h.stations, h.stores, h.noted, h.cache, room⟩

theorem makeRoom_proceeds (s : State) : Proceeds s s.makeRoom := by
  unfold State.makeRoom
  split
  · split
    · exact resolveUnmeasured_proceeds s _
    · exact Proceeds.refl s
  · exact Proceeds.refl s

/-- There is room for one more pending verdict (R161). -/
theorem makeRoom_room (s : State) (w : s.peers.Within) : s.makeRoom.peers.pendingVerdicts.length ≤ 3 := by
  unfold State.makeRoom
  split
  · rename_i e rest he
    split
    · rw [resolveUnmeasured_pending, he, List.erase_cons_head]
      have := w.proxies
      rw [he, List.length_cons] at this
      omega
    · rename_i h4
      omega
  · rename_i he
    simp [he]

theorem placePending_proceeds (s : State) (v : Verdict) : Proceeds s (s.placePending v) := by
  have placed : ∀ e, Proceeds s (s.makeRoom.setPeers (s.makeRoom.peers.placeProxy e)) := by
    intro e
    have h := makeRoom_proceeds s
    refine ⟨h.pending, h.startup, h.clock, fun w => ?_, h.store⟩
    refine { h.limits w with peers := (h.limits w).peers.setProxies _ ?_ }
    have := makeRoom_room s w.peers
    rw [placeBefore_length]
    omega
  unfold State.placePending
  dsimp only
  split
  · exact (makeRoom_proceeds s).trans (issueUnmeasured_proceeds _ _)
  · exact placed _

theorem handOff_proceeds (s : State) (v : Verdict) : Proceeds s (s.handOff v) := by
  unfold State.handOff
  split
  · exact resolveProxy_proceeds s _ _
  · exact placePending_proceeds s _

theorem deal_proceeds (s : State) (v : Verdict) : Proceeds s (s.deal v) := by
  unfold State.deal
  split
  · split
    · exact handOff_proceeds s _
    · exact issueUnmeasured_proceeds s _
  · exact issueOwn_proceeds s _

/-! ### Deadlines (R36; log 48) -/

theorem overrunExpiry_proceeds (s : State) : Proceeds s s.overrunExpiry := by
  unfold State.overrunExpiry
  split
  · exact Proceeds.refl s
  · split
    · exact ((Proceeds.refl s).setPort _ (by exact fun w => ⟨w.units, w.bytes⟩)).trans (closeBreach_proceeds _ _ _ _ _)
    · exact Proceeds.refl s

theorem audioAbsentDeadline_proceeds (s : State) : Proceeds s s.audioAbsentDeadline := by
  unfold State.audioAbsentDeadline
  split
  · exact Proceeds.refl s
  · split
    · exact ((Proceeds.refl s).setPort _ (by exact fun w => ⟨w.units, w.bytes⟩)).trans (raise_proceeds _ _)
    · exact Proceeds.refl s

theorem qualitySilenceExpiry_proceeds (s : State) : Proceeds s s.qualitySilenceExpiry := by
  unfold State.qualitySilenceExpiry
  split
  · exact ((Proceeds.refl s).setReception _ (by exact fun h => h)).trans (evaluate_proceeds _)
  · exact Proceeds.refl s

theorem tallyBucketBoundary_proceeds (s : State) : Proceeds s s.tallyBucketBoundary := by
  unfold State.tallyBucketBoundary
  split
  · exact ((Proceeds.refl s).setReception _ (by exact advanceTo_length _ _)).trans (evaluate_proceeds _)
  · exact Proceeds.refl s

theorem recoveryExpiry_proceeds (s : State) : Proceeds s s.recoveryExpiry := by
  unfold State.recoveryExpiry
  split
  · exact Proceeds.refl s
  · split
    · exact (((Proceeds.refl s).setReception _ (by exact fun h => h)).trans (closeBreach_proceeds _ _ _ _ _)).trans
        (judge_proceeds _)
    · exact Proceeds.refl s

theorem historyEntryExpiry_proceeds (s : State) : Proceeds s s.historyEntryExpiry :=
  (Proceeds.refl s).setTime _ (fun h => ⟨Nat.le_refl _, h⟩) fun h => Nat.le_trans (List.length_filter_le ..) h

theorem referenceSilenceExpiry_proceeds (s : State) : Proceeds s s.referenceSilenceExpiry := by
  unfold State.referenceSilenceExpiry
  split
  · exact enterSource_proceeds s _
  · exact Proceeds.refl s

theorem holdoverExpiry_proceeds (s : State) : Proceeds s s.holdoverExpiry := by
  unfold State.holdoverExpiry
  split
  · split
    · exact follow_proceeds s _
    · exact enterSource_proceeds s _
  · exact Proceeds.refl s

theorem holdIntervalClose_proceeds (s : State) (slot : Nat) : Proceeds s (s.holdIntervalClose slot) := by
  unfold State.holdIntervalClose
  split
  · exact Proceeds.refl s
  · split
    · exact Proceeds.refl s
    · split
      · exact (Proceeds.refl s).setRecorder _ fun w => w.changeHold _ _
      · exact Proceeds.refl s

theorem holdMaxLengthExpiry_proceeds (s : State) (slot : Nat) : Proceeds s (s.holdMaxLengthExpiry slot) := by
  unfold State.holdMaxLengthExpiry
  split
  · exact Proceeds.refl s
  · dsimp only
    split
    · exact ((Proceeds.refl s).setRecorder _ fun w => w.changeHold _ _).trans (changeRecord_proceeds _ _ _)
    · exact Proceeds.refl s

theorem statusTimerExpiry_proceeds (s : State) : Proceeds s s.statusTimerExpiry := by
  unfold State.statusTimerExpiry
  split
  · exact (offer_proceeds s _ _).setLinkRest _ (by rfl) (by rfl) (by rfl)
  · exact Proceeds.refl s

theorem downshiftDeadline_proceeds (s : State) : Proceeds s s.downshiftDeadline := by
  unfold State.downshiftDeadline
  split
  · split <;> exact (Proceeds.refl s).setLinkRest _ (by rfl) (by rfl) (by rfl)
  · exact Proceeds.refl s

theorem becomeStale_proceeds (s : State) (n : Byte) : Proceeds s (s.becomeStale n) :=
  ((Proceeds.refl s).setPeers _ fun w => w.change n (fun x => { x with heard := false }) (fun _ => rfl) fun _ h => h).trans
    (judge_proceeds _)

theorem peerStaleDeadline_proceeds (s : State) (n : Byte) : Proceeds s (s.peerStaleDeadline n) := by
  unfold State.peerStaleDeadline
  split
  · exact Proceeds.refl s
  · split
    · exact becomeStale_proceeds s n
    · exact Proceeds.refl s

theorem peerRemovalDeadline_proceeds (s : State) (n : Byte) : Proceeds s (s.peerRemovalDeadline n) := by
  unfold State.peerRemovalDeadline
  split
  · exact Proceeds.refl s
  · split
    · split
      · exact (becomeStale_proceeds s n).trans (removePeer_proceeds _ _)
      · exact removePeer_proceeds s _
    · exact Proceeds.refl s

theorem divergenceExpiry_proceeds (s : State) : Proceeds s s.divergenceExpiry := by
  unfold State.divergenceExpiry
  split
  · exact Proceeds.refl s
  · split
    · exact ((Proceeds.refl s).setPeersRest _ (by rfl) (by rfl) (by rfl) (by rfl)).trans (raise_proceeds _ _)
    · exact Proceeds.refl s

theorem proxyDeadline_proceeds (s : State) : Proceeds s s.proxyDeadline := by
  unfold State.proxyDeadline
  split
  · exact Proceeds.refl s
  · split
    · exact resolveUnmeasured_proceeds s _
    · exact Proceeds.refl s

theorem endPulse_proceeds (s : State) (line : Nat) : Proceeds s (s.endPulse line) := by
  unfold State.endPulse
  split
  · exact (Proceeds.refl s).setAlarms _ fun h => by simpa using h
  · exact Proceeds.refl s

theorem enterListenOnly_proceeds (s : State) (h : s.startup.station = .listening) : Proceeds s s.enterListenOnly := by
  unfold State.enterListenOnly
  dsimp only
  have entered := (Proceeds.refl s).setStartup { s.startup with station := .listenOnly } (.inr ⟨h, .inr rfl⟩)
  split
  · exact entered
  · exact entered.setLink _ fun w => ⟨Nat.zero_le _, w.unsent, w.occupancy⟩

theorem enterRunning_proceeds (s : State) (h : s.startup.station = .listening) : Proceeds s s.enterRunning := by
  unfold State.enterRunning
  dsimp only
  have entered := (Proceeds.refl s).setStartup { s.startup with station := .running } (.inr ⟨h, .inl rfl⟩)
  exact ((entered.setLinkRest _ (by rfl) (by rfl) (by rfl)).trans (offer_proceeds _ _ _)).setLinkRest _
    (by rfl) (by rfl) (by rfl)

theorem listeningEnd_proceeds (s : State) : Proceeds s s.listeningEnd := by
  unfold State.listeningEnd
  split
  · rename_i h
    split
    · exact enterListenOnly_proceeds s h.1
    · exact enterRunning_proceeds s h.1
  · exact Proceeds.refl s

/-- A list of operations each of which proceeds does. -/
theorem Proceeds.operations : ∀ (l : List (State → State)), (∀ f ∈ l, ∀ t, Proceeds t (f t)) →
    ∀ s, Proceeds s (l.foldl (fun t f => f t) s)
  | [], _, s => Proceeds.refl s
  | f :: l, h, s => (h f (List.mem_cons_self ..) s).trans
      (Proceeds.operations l (fun g hg => h g (List.mem_cons_of_mem _ hg)) (f s))

/-- The expiry of every deadline proceeds. -/
theorem passDeadlines_proceeds (s : State) : Proceeds s s.passDeadlines := by
  refine Proceeds.operations _ (fun f hf t => ?_) s
  simp only [State.expiries, List.flatten_cons, List.flatten_nil, List.mem_append, List.mem_cons, List.not_mem_nil,
    List.mem_flatten, List.mem_map, List.mem_replicate, or_false, slotExpiries, peerExpiries] at hf
  rcases hf with (rfl | rfl | rfl | rfl | rfl) | (rfl | rfl | rfl) | ⟨_, ⟨n, -, rfl⟩, hf⟩ | (rfl | rfl) |
    ⟨_, ⟨e, -, rfl⟩, hf⟩ | rfl | ⟨-, rfl⟩ | ⟨n, -, rfl⟩ | rfl
  · exact overrunExpiry_proceeds t
  · exact audioAbsentDeadline_proceeds t
  · exact qualitySilenceExpiry_proceeds t
  · exact tallyBucketBoundary_proceeds t
  · exact recoveryExpiry_proceeds t
  · exact historyEntryExpiry_proceeds t
  · exact referenceSilenceExpiry_proceeds t
  · exact holdoverExpiry_proceeds t
  · simp only [List.mem_cons, List.not_mem_nil, or_false] at hf
    rcases hf with rfl | rfl
    · exact holdMaxLengthExpiry_proceeds t n
    · exact holdIntervalClose_proceeds t n
  · exact statusTimerExpiry_proceeds t
  · exact downshiftDeadline_proceeds t
  · simp only [List.mem_cons, List.not_mem_nil, or_false] at hf
    rcases hf with rfl | rfl
    · exact peerStaleDeadline_proceeds t _
    · exact peerRemovalDeadline_proceeds t _
  · exact divergenceExpiry_proceeds t
  · exact proxyDeadline_proceeds t
  · exact endPulse_proceeds t n
  · exact listeningEnd_proceeds t

/-! ### Correction and TIME units -/

@[simp] theorem emptyStale_length (now : Nat) : ∀ (n : Nat) (l : List TallyBucket),
    (emptyStale now n l).length = l.length
  | _, [] => rfl
  | n, _ :: rest => by simp [emptyStale, emptyStale_length now (n - 1) rest]

theorem jump_proceeds (s : State) (o : Nat) : Proceeds s (s.jump o) := by
  unfold State.jump
  refine Proceeds.setReception ?_ _ fun h => ?_
  · refine (Proceeds.refl s).setTime _ (fun h => ?_) fun h => ?_
    · exact ⟨Nat.le_min.mpr ⟨Nat.le_add_right .., h⟩, Nat.min_le_right ..⟩
    · exact Nat.le_trans (List.length_filter_le ..) h
  · simpa using h

theorem takeStep_proceeds (s : State) (o : Nat) : Proceeds s (s.takeStep o) := by
  unfold State.takeStep
  dsimp only
  exact ((jump_proceeds s o).trans (raise_proceeds _ _)).trans (requestMark_proceeds _ _)

theorem forwardStep_proceeds (s : State) (o : Nat) : Proceeds s (s.forwardStep o) :=
  (takeStep_proceeds s o).trans (passDeadlines_proceeds _)

theorem correct_proceeds (s : State) (o : Int) : Proceeds s (s.correct o) := by
  unfold State.correct
  split
  · exact forwardStep_proceeds s _
  · exact (Proceeds.refl s).setTimeRest _ (by rfl) (by rfl)

theorem judgeDeviation_proceeds (s : State) (d : Nat) (t : Stamp) : Proceeds s (s.judgeDeviation d t) := by
  unfold State.judgeDeviation
  split
  · split
    · exact (Proceeds.refl s).setTimeRest _ (by rfl) (by rfl)
    · exact ((Proceeds.refl s).setTimeRest _ (by rfl) (by rfl)).trans (closeBreach_proceeds _ _ _ _ _)
  · split
    · exact ((Proceeds.refl s).setTimeRest _ (by rfl) (by rfl)).trans (raise_proceeds _ _)
    · exact Proceeds.refl s

theorem checkOscillator_proceeds (s : State) (u : QueuedUnit) (p : Nat) : Proceeds s (s.checkOscillator u p) := by
  unfold State.checkOscillator
  split
  · exact Proceeds.refl s
  · split
    · dsimp only
      have next := (Proceeds.refl s).setTimeRest { s.time with window := some (windowAt u p) } (by rfl) (by rfl)
      split
      · exact next.trans (judgeDeviation_proceeds _ _ _)
      · exact next
    · exact Proceeds.refl s

theorem lock_proceeds (s : State) (u : QueuedUnit) (p : Nat) : Proceeds s (s.lock u p) :=
  ((enterSource_proceeds s _).trans (correct_proceeds _ _)).setTimeRest _ (by rfl) (by rfl)

theorem takeTime_proceeds (s : State) (u : QueuedUnit) (payload : List Byte) : Proceeds s (s.takeTime u payload) := by
  unfold State.takeTime
  dsimp only
  have kept := fun e => (Proceeds.refl s).setTime (s.time.pruned.remember e)
    (fun h => ⟨Nat.le_refl _, h⟩) (fun _ => newest_length_le ..)
  split
  · exact (((kept _).setTimeRest _ (by rfl) (by rfl)).trans (correct_proceeds _ _)).trans
      (checkOscillator_proceeds _ _ _)
  all_goals
    split
    · exact (kept _).trans (lock_proceeds _ _ _)
    · exact kept _

theorem takePeerTime_proceeds (s : State) (n : Byte) (c : TimeClass) (t : Nat) (noted : BitVec 64) :
    Proceeds s (s.takePeerTime n c t noted) := by
  unfold State.takePeerTime
  dsimp only
  refine Proceeds.trans ?_ (considerPeers_proceeds _)
  split
  · split
    · exact correct_proceeds s _
    · exact correct_proceeds s _
    · exact loseFollowed_proceeds s _
    · exact loseFollowed_proceeds s _
  · exact Proceeds.refl s

/-! ### Caption Checker -/

theorem closeAbsent_proceeds (s : State) (t : Stamp) : Proceeds s (s.closeAbsent t) := by
  unfold State.closeAbsent
  split
  · exact ((Proceeds.refl s).setCaptionsRest _ (by rfl) (by rfl) (by rfl) (by rfl) (by rfl)).trans
      (closeBreach_proceeds _ _ _ _ _)
  · exact Proceeds.refl s

theorem closeStuck_proceeds (s : State) (t : Stamp) : Proceeds s (s.closeStuck t) := by
  unfold State.closeStuck
  split
  · exact ((Proceeds.refl s).setCaptionsRest _ (by rfl) (by rfl) (by rfl) (by rfl) (by rfl)).trans
      (closeBreach_proceeds _ _ _ _ _)
  · exact Proceeds.refl s

theorem openAbsent_proceeds (s : State) (r : CheckingRecord) : Proceeds s (s.openAbsent r) := by
  unfold State.openAbsent
  split
  · exact Proceeds.refl s
  · split
    · exact ((Proceeds.refl s).setCaptionsRest _ (by rfl) (by rfl) (by rfl) (by rfl) (by rfl)).trans (raise_proceeds _ _)
    · exact Proceeds.refl s

theorem openStuck_proceeds (s : State) (r : CheckingRecord) : Proceeds s (s.openStuck r) := by
  unfold State.openStuck
  split
  · exact Proceeds.refl s
  · split
    · exact ((Proceeds.refl s).setCaptionsRest _ (by rfl) (by rfl) (by rfl) (by rfl) (by rfl)).trans (raise_proceeds _ _)
    · exact Proceeds.refl s

theorem gapStep_proceeds (s : State) (r : CheckingRecord) (j : Judgement) (i : Option CaptionIdentity) :
    Proceeds s (s.gapStep r j i) := by
  unfold State.gapStep
  dsimp only
  split
  · exact (closeAbsent_proceeds s _).setCaptionsRest _ (by rfl) (by rfl) (by rfl) (by rfl) (by rfl)
  · split
    · exact ((Proceeds.refl s).setCaptionsRest _ (by rfl) (by rfl) (by rfl) (by rfl) (by rfl)).trans
        (openAbsent_proceeds _ _)
    · exact Proceeds.refl s

theorem stuckStep_proceeds (s : State) (r : CheckingRecord) (j : Judgement) (i : Option CaptionIdentity) :
    Proceeds s (s.stuckStep r j i) := by
  unfold State.stuckStep
  dsimp only
  split
  · exact (closeStuck_proceeds s _).setCaptionsRest _ (by rfl) (by rfl) (by rfl) (by rfl) (by rfl)
  · split
    · exact ((Proceeds.refl s).setCaptionsRest _ (by rfl) (by rfl) (by rfl) (by rfl) (by rfl)).trans
        (openStuck_proceeds _ _)
    · exact Proceeds.refl s

theorem CaptionChecker.Within.cover {c : CaptionChecker} (h : c.Within) (sound shown : Bool) : (c.cover sound shown).Within := by
  unfold CaptionChecker.cover
  split
  · refine ⟨h.timeline, ?_, h.progCovered⟩
    have := h.covered
    dsimp only
    split <;> omega
  · exact h

theorem captionSteps_proceeds (s : State) (r : CheckingRecord) (j : Judgement) (i : Option CaptionIdentity) :
    Proceeds s (s.captionSteps r j i) :=
  ((((Proceeds.refl s).setCaptionsRest _ (by rfl) (by rfl) (by rfl) (by rfl) (by rfl)).trans
    (gapStep_proceeds _ _ _ _)).trans (stuckStep_proceeds _ _ _ _)).setCaptions _ fun w => w.cover _ _

theorem judgeCaptions_proceeds (s : State) (j : Judgement) : Proceeds s (s.judgeCaptions j) := by
  unfold State.judgeCaptions
  dsimp only
  have paired := fun i => (Proceeds.refl s).setCaptions (s.captions.showPair i) fun w => by
    unfold CaptionChecker.showPair
    split <;> exact ⟨w.timeline, w.covered, w.progCovered⟩
  split
  · exact paired _
  · split
    · exact (paired _).trans (captionSteps_proceeds _ _ _ _)
    · exact paired _

theorem CaptionChecker.Within.giveUp {c : CaptionChecker} (h : c.Within) : c.giveUp.Within :=
  ⟨h.timeline, Nat.le_refl _, h.progCovered⟩

theorem CaptionChecker.Within.openSegment {c : CaptionChecker} (h : c.Within) (k : WorkingCopy) (r : SegmentRecord) :
    (c.openSegment k r).Within := ⟨h.timeline, Nat.le_refl _, h.progCovered⟩

theorem CaptionChecker.Within.addToProgramme {c : CaptionChecker} (h : c.Within) (n : Option Nat) :
    (c.addToProgramme n).Within := by
  unfold CaptionChecker.addToProgramme
  split
  · exact h
  · split
    · exact ⟨h.timeline, h.covered, Nat.min_le_right ..⟩
    · exact h

theorem closeCaptions_proceeds (s : State) (t : Stamp) (n : Option Nat) : Proceeds s (s.closeCaptions t n).1 :=
  ((closeAbsent_proceeds s t).trans (closeStuck_proceeds _ t)).setCaptions _ fun w => (w.addToProgramme n).giveUp

theorem takeCaption_within {c : CaptionChecker} (h : c.Within) (p : List Byte) : (c.takeCaption p).Within := by
  unfold CaptionChecker.takeCaption
  dsimp only
  split
  · exact ⟨by simp, h.covered, h.progCovered⟩
  · split
    · exact ⟨h.timeline, h.covered, h.progCovered⟩
    · exact ⟨newest_length_le .., h.covered, h.progCovered⟩

/-! ### Loudness Unit -/

theorem judgePeak_proceeds (s : State) (r : SubBlock) (p : List Nat) : Proceeds s (s.judgePeak r p) := by
  unfold State.judgePeak
  dsimp only
  split
  · exact ((Proceeds.refl s).setLoudnessRest _ (by rfl) (by rfl) (by rfl)).trans (raise_proceeds _ _)
  · exact Proceeds.refl s

theorem closeExcess_proceeds (s : State) (t : Stamp) : Proceeds s (s.closeExcess t) := by
  unfold State.closeExcess
  split
  · exact ((Proceeds.refl s).setLoudnessRest _ (by rfl) (by rfl) (by rfl)).trans (closeBreach_proceeds _ _ _ _ _)
  · exact Proceeds.refl s

theorem openExcess_proceeds (s : State) : Proceeds s s.openExcess := by
  unfold State.openExcess
  split
  · exact Proceeds.refl s
  · split
    · exact ((Proceeds.refl s).setLoudnessRest _ (by rfl) (by rfl) (by rfl)).trans (raise_proceeds _ _)
    · exact Proceeds.refl s

theorem stepExcess_proceeds (s : State) (r : SubBlock) : Proceeds s (s.stepExcess r) := by
  unfold State.stepExcess
  dsimp only
  split
  · split
    · exact Proceeds.refl s
    · split
      · exact ((Proceeds.refl s).setLoudnessRest _ (by rfl) (by rfl) (by rfl)).trans (openExcess_proceeds _)
      · exact (closeExcess_proceeds s _).setLoudnessRest _ (by rfl) (by rfl) (by rfl)
  · exact Proceeds.refl s

theorem placeOwn_length (g : Signature) {l : List Signature} (h : l.length ≤ 16) : (placeOwn g l).length ≤ 16 := by
  unfold placeOwn
  split
  · simp
  · split
    · rename_i last hl _
      have : l ≠ [] := fun e => by simp [e] at hl
      have := List.length_pos_of_ne_nil this
      simp
      omega
    · exact newest_length_le ..

theorem formSignature_proceeds (s : State) (t : Stamp) : Proceeds s (s.formSignature t) := by
  unfold State.formSignature
  split
  · exact Proceeds.refl s
  · exact ((Proceeds.refl s).setLoudness _ (by exact fun w => ⟨w.ring, w.chain, placeOwn_length _ w.signatures⟩)).trans
      (offerSignature_proceeds _ _)

theorem LoudnessUnit.Within.formBlock {l : LoudnessUnit} (h : l.Within) : l.formBlock.Within := by
  unfold LoudnessUnit.formBlock
  split
  · exact h
  · exact ⟨h.ring, h.chain, h.signatures⟩

theorem completeSubBlock_proceeds (s : State) (b : SubBlockInProgress) (m : Bool) (g : MediaTime) :
    Proceeds s (s.completeSubBlock b m g) := by
  unfold State.completeSubBlock
  dsimp only
  have blocked := (Proceeds.refl s).setLoudness
    (((s.loudness.take (b.record m)).formBlock).creditPeaks (b.record m).opening b.peaks) fun w => by
      have h : (s.loudness.take (b.record m)).formBlock.Within :=
        LoudnessUnit.Within.formBlock ⟨newest_length_le .., newest_length_le .., w.signatures⟩
      exact ⟨h.ring, h.chain, h.signatures⟩
  have assigned := ((((blocked.trans (judgePeak_proceeds _ (b.record m) b.peaks)).setLoudnessRest
    (LoudnessUnit.formShortTerm _ (b.record m).opening) (by rfl) (by rfl) (by rfl)).trans
      (stepExcess_proceeds _ (b.record m))).trans
    (judgeCaptions_proceeds _ ⟨(b.record m).start, soundPresent s.config.soundThreshold
      (((((s.setLoudness (((s.loudness.take (b.record m)).formBlock).creditPeaks (b.record m).opening b.peaks)).judgePeak
        (b.record m) b.peaks).setLoudness (LoudnessUnit.formShortTerm ((s.setLoudness (((s.loudness.take
          (b.record m)).formBlock).creditPeaks (b.record m).opening b.peaks)).judgePeak (b.record m) b.peaks).loudness
            (b.record m).opening)).stepExcess (b.record m)).loudness.shortTerm), m, (b.record m).lastStamp⟩)).setLoudnessRest
      (LoudnessUnit.accumulate _ (b.record m)) (by rfl) (by rfl) (by rfl)
  split
  · exact assigned.trans (formSignature_proceeds _ _)
  · exact assigned

theorem closePeak_proceeds (s : State) (t : Stamp) (i : Bool) : Proceeds s (s.closePeak t i) := by
  unfold State.closePeak
  split
  · exact Proceeds.refl s
  · split
    · exact closeBreach_proceeds s _ _ _ _
    · exact Proceeds.refl s

theorem closeSegmentContext_proceeds (s : State) (r : SegmentRecord) (t : Stamp) :
    Proceeds s (s.closeSegmentContext r t).1 :=
  ((closeExcess_proceeds s t).trans (closePeak_proceeds _ t r.impaired)).setLoudnessRest _ (by rfl) (by rfl) (by rfl)

theorem closeProgrammeContext_proceeds (s : State) (p : Programme) : Proceeds s (s.closeProgrammeContext p).1 :=
  (Proceeds.refl s).setLoudnessRest _ (by rfl) (by rfl) (by rfl)

/-! ### Segment Tracker -/

theorem dealClosed_proceeds (s : State) (c : Option Context) (k : VerdictKind) (id : Word32) (cls : SegClass)
    (scope : Scope) (v : Option Nat) : Proceeds s (s.dealClosed c k id cls scope v) := by
  unfold State.dealClosed
  split
  · exact Proceeds.refl s
  · exact deal_proceeds s _

theorem closeSegment_proceeds (s : State) (t : Stamp) : Proceeds s (s.closeSegment t) := by
  unfold State.closeSegment
  dsimp only
  have checked := fun r n => (((Proceeds.refl s).setSegments (s.segments.endProgrammeSegment t) fun h => h).trans
    (closeSegmentContext_proceeds _ r t)).trans (closeCaptions_proceeds _ t n)
  split
  · exact checked _ _
  all_goals exact (checked _ _).trans (dealClosed_proceeds _ _ _ _ _ _ _)

theorem closeProgramme_proceeds (s : State) (r : SegmentRecord) : Proceeds s (s.closeProgramme r) := by
  unfold State.closeProgramme
  split
  · exact Proceeds.refl s
  · rename_i p _
    split
    · have h := (closeProgrammeContext_proceeds s p).trans
        (dealClosed_proceeds _ (s.closeProgrammeContext p).2 .programme p.programmeId .programme p.scope
          s.captions.programmeCoverage)
      exact ⟨h.pending, h.startup, h.clock, fun w => { h.limits w with cues := w.cues }, h.store⟩
    · exact Proceeds.refl s

theorem openProgramme_proceeds (s : State) (r : SegmentRecord) (t : Stamp) : Proceeds s (s.openProgramme r t) := by
  unfold State.openProgramme
  split
  · exact ((((Proceeds.refl s).setSegments _ (by exact fun h => h)).setLoudnessRest _ (by rfl) (by rfl) (by rfl))).setCaptions _
      (by exact fun w => ⟨w.timeline, w.covered, Nat.le_refl _⟩)
  · exact (Proceeds.refl s).setSegments _ (by exact fun h => h)
  · exact Proceeds.refl s

theorem openSegment_proceeds (s : State) (r : SegmentRecord) (t : Stamp) (x : Option Scope) :
    Proceeds s (s.openSegment r t x) := by
  unfold State.openSegment
  dsimp only
  have checked := (((Proceeds.refl s).setSegments
      { s.segments with
        current := { r with opening := s.segments.openingFor r }, begun := true
        nextOpening := s.segments.nextOpening + 1 } fun h => h).setLoudnessRest
    (LoudnessUnit.openSegment _ (s.segments.openingFor r).segment t) (by rfl) (by rfl) (by rfl)).setCaptions
    (CaptionChecker.openSegment _ s.config { r with opening := s.segments.openingFor r })
    (by exact fun w => w.openSegment _ _)
  refine Proceeds.trans ?_ (judge_proceeds _)
  split
  · exact checked.trans (upshift_proceeds _)
  · exact checked

theorem changeSegment_proceeds (s : State) (r : SegmentRecord) (t : Stamp) : Proceeds s (s.changeSegment r t) := by
  unfold State.changeSegment
  split
  · exact (((closeSegment_proceeds s t).trans (closeProgramme_proceeds _ r)).trans (openProgramme_proceeds _ r t)).trans
      (openSegment_proceeds _ r t _)
  · exact (openProgramme_proceeds s r t).trans (openSegment_proceeds _ r t _)

@[simp] theorem orderCues_length (ref : MediaTime) (l : List PendingCue) : (orderCues ref l).length = l.length :=
  sortBy_length _ l

@[simp] theorem placeCue_length (c : PendingCue) (l : List PendingCue) : (placeCue c l).length = l.length + 1 := by
  simp [placeCue]

@[simp] theorem dropLatest_length (l : List PendingCue) : (dropLatest l).length = l.length - 1 := by
  cases l <;> simp [dropLatest]

theorem applyCues_proceeds (s : State) (g : MediaTime) (t : Stamp) : Proceeds s (s.applyCues g t) := by
  unfold State.applyCues
  dsimp only
  split
  · exact ((Proceeds.refl s).setSegments _ fun h => Nat.le_trans (List.length_filter_le ..) h).trans
      (changeSegment_proceeds _ _ _)
  · split
    · exact Proceeds.refl s
    · exact changeSegment_proceeds s _ _

theorem endSubBlock_proceeds (s : State) (m : Bool) (g : MediaTime) : Proceeds s (s.endSubBlock m g) := by
  unfold State.endSubBlock
  split
  · exact Proceeds.refl s
  · exact ((Proceeds.refl s).setSegments _ (by exact fun h => h)).trans (completeSubBlock_proceeds _ _ _ _)

theorem gridPointEvent_proceeds (s : State) (g : MediaTime) (t : Stamp) : Proceeds s (s.gridPointEvent g t) :=
  ((((Proceeds.refl s).setReception _ (by exact fun h => h)).trans (endSubBlock_proceeds _ _ g)).trans
    (applyCues_proceeds _ g t)).setLoudnessRest _ (by rfl) (by rfl) (by rfl)

theorem takeCue_pending {t : SegmentTracker} (c : PendingCue) (h : t.pending.length ≤ 4) :
    (t.takeCue c).pending.length ≤ 4 := by
  unfold SegmentTracker.takeCue
  split
  · rename_i hany
    obtain ⟨y, hy, he⟩ := List.any_eq_true.mp hany
    have := filter_length_lt (p := fun y : PendingCue => y.segmentId != c.segmentId) hy (by simpa using he)
    simp only [placeCue_length]
    omega
  · split
    · exact h
    · split
      · rename_i h4
        simpa using h4
      · split
        · exact h
        · rename_i h4 _
          simp only [placeCue_length, dropLatest_length]
          omega

/-! ### Media Port -/

theorem takePosition_proceeds (s : State) (p : List Int) (t : Stamp) :
    Proceeds s (s.setLoudness (s.loudness.takePosition p t)) := by
  refine (Proceeds.refl s).setLoudness _ fun w => ?_
  unfold LoudnessUnit.takePosition
  split
  · exact w
  · exact ⟨w.ring, w.chain, w.signatures⟩

theorem handOn_proceeds (s : State) (t : MediaTime) (p : List Int) (stamp : Stamp) : Proceeds s (s.handOn t p stamp) := by
  unfold State.handOn
  split
  · exact Proceeds.refl s
  · dsimp only
    have run := (Proceeds.refl s).setPort { s.port with aligning := none } fun w => ⟨w.units, w.bytes⟩
    refine Proceeds.trans ?_ (takePosition_proceeds _ _ _)
    split
    · exact run.trans (gridPointEvent_proceeds _ _ _)
    · exact run

theorem handOnAll_proceeds : ∀ (l : List (List Int)) (s : State) (t : MediaTime) (stamp : Stamp),
    Proceeds s (s.handOnAll t stamp l)
  | [], s, _, _ => Proceeds.refl s
  | p :: ps, s, t, stamp => (handOn_proceeds s t p stamp).trans (handOnAll_proceeds ps _ _ _)

theorem beginRun_proceeds (s : State) (t : MediaTime) : Proceeds s (s.beginRun t) :=
  (Proceeds.refl s).setPort _ (by exact fun w => ⟨w.units, w.bytes⟩)

theorem discontinuity_proceeds (s : State) (u : QueuedUnit) : Proceeds s (s.discontinuity u) :=
  (((Proceeds.refl s).setLoudness s.loudness.discontinue fun w => ⟨by simp [LoudnessUnit.discontinue],
    by simp [LoudnessUnit.discontinue], w.signatures⟩).trans (requestMark_proceeds _ _)).trans (beginRun_proceeds _ _)

theorem countDamaged_proceeds (s : State) : Proceeds s s.countDamaged :=
  (Proceeds.refl s).setPort _ (by exact fun w => ⟨w.units, w.bytes⟩)

theorem refreshAudio_proceeds (s : State) (t : Stamp) : Proceeds s (s.refreshAudio t) := by
  unfold State.refreshAudio
  dsimp only
  have h := (Proceeds.refl s).setPort { s.port with audioRef := some t, audioAbsentOpen := false }
    fun w => ⟨w.units, w.bytes⟩
  split
  · exact h.trans (closeBreach_proceeds _ _ _ _ _)
  · exact h

theorem acceptRun_proceeds (s : State) (u : QueuedUnit) (p : List Byte) (n : Nat) : Proceeds s (s.acceptRun u p n) := by
  unfold State.acceptRun
  dsimp only
  exact ((((Proceeds.refl s).setPort _ (by exact fun w => ⟨w.units, w.bytes⟩)).trans (refreshAudio_proceeds _ _)).trans
    (handOnAll_proceeds _ _ _ _)).trans (acceptAudio_proceeds _ _ _)

theorem takeAudio_proceeds (s : State) (u : QueuedUnit) (p : List Byte) : Proceeds s (s.takeAudio u p) := by
  unfold State.takeAudio
  split
  · exact (beginRun_proceeds s _).trans (acceptRun_proceeds _ _ _ _)
  · dsimp only
    split
    · exact (discontinuity_proceeds s _).trans (acceptRun_proceeds _ _ _ _)
    · split
      · exact acceptRun_proceeds s _ _ _
      · split
        · exact (countDamaged_proceeds s).trans (acceptRun_proceeds _ _ _ _)
        · split
          · exact (discontinuity_proceeds s _).trans (acceptRun_proceeds _ _ _ _)
          · exact countDamaged_proceeds s

theorem sum_drop_le (l : List Nat) (n : Nat) : (l.drop n).sum ≤ l.sum := by
  have := congrArg List.sum (List.take_append_drop n l)
  rw [List.sum_append] at this
  omega

theorem MediaPort.Within.drop {p : MediaPort} (h : p.Within) (n : Nat) :
    MediaPort.Within { p with queue := p.queue.drop n } where
  units := by have := h.units; simp; omega
  bytes := by
    refine Nat.le_trans ?_ h.bytes
    unfold MediaPort.held
    rw [List.map_drop]
    exact sum_drop_le _ _

theorem popUnit_proceeds (s : State) : Proceeds s s.popUnit := (Proceeds.refl s).setPort _ fun w => w.drop 1

theorem recordUnit_proceeds (s : State) (u : RecordedUnit) : Proceeds s (s.recordUnit u) := by
  unfold State.recordUnit State.readyPage
  split
  · rename_i t ht
    have h : Proceeds s t := by
      split at ht
      · split at ht
        · exact Option.some.inj ht ▸ beginPage_proceeds s _
        · cases ht
      · exact Option.some.inj ht ▸ Proceeds.refl s
    exact h.setRecorder _ fun w => ⟨w.slots, w.pages, w.pinned, w.budget⟩
  · exact (Proceeds.refl s).setPort _ fun w => w.drop 1

/-- Delivering a unit proceeds (R7, R8). -/
theorem deliver_proceeds (s : State) (u : QueuedUnit) (p : List Byte) : Proceeds s (s.deliver u p) := by
  unfold State.deliver
  split
  · exact (popUnit_proceeds s).trans (takeAudio_proceeds _ _ _)
  · split
    · exact (popUnit_proceeds s).trans (countDamaged_proceeds _)
    · exact (popUnit_proceeds s).trans (takeTime_proceeds _ _ _)
  · split
    · exact popUnit_proceeds s
    · exact (popUnit_proceeds s).trans (acceptQuality_proceeds _ _ _)
  · split
    · exact recordUnit_proceeds s _
    · exact Proceeds.refl s
  · split
    · exact (popUnit_proceeds s).trans (countDamaged_proceeds _)
    · split
      · exact ((Proceeds.refl s).setCaptions _ fun w => takeCaption_within w p).trans (recordUnit_proceeds _ _)
      · exact Proceeds.refl s
  · split
    · exact (popUnit_proceeds s).trans (countDamaged_proceeds _)
    · split
      · exact ((Proceeds.refl s).setSegments _ fun w => takeCue_pending _ w).trans (recordUnit_proceeds _ _)
      · exact Proceeds.refl s

end Sys2Proof.Machine
end

