-- ==== Sys2Proof/Laws/PeerFrames.lean ====
section
/-! SUPPORT. The relation `Proceeds` for a received frame: comparison, noted breaches, the verdict cache, the peer table. -/

namespace Sys2Proof.Machine

/-! ### Cross-feed comparison (R146, R150 to R152) -/

theorem placeSignature_length (g : Signature) {l : List Signature} (h : l.length ≤ 16) :
    (placeSignature g l).length ≤ 16 := by
  unfold placeSignature
  dsimp only
  split
  · simpa using h
  · split
    · rename_i h16
      simpa using h16
    · split
      · exact h
      · simp only [placeBefore_length, List.length_drop]
        omega

theorem placeSignatures_length (l : List Signature) : ∀ {store : List Signature}, store.length ≤ 16 →
    (l.foldl (fun x g => placeSignature g x) store).length ≤ 16 := by
  induction l with
  | nil => exact fun h => h
  | cons g gs ih => exact fun h => ih (placeSignature_length g h)

theorem evaluated_station (own : List Signature) (e : PeerEntry) : (e.evaluated own).station = e.station := by
  unfold PeerEntry.evaluated
  split
  · rfl
  · split <;> rfl

theorem evaluated_store (own : List Signature) (e : PeerEntry) : (e.evaluated own).store = e.store := by
  unfold PeerEntry.evaluated
  split
  · rfl
  · split <;> rfl

theorem relationChanged_proceeds (s : State) (n : Byte) (r : Relation) : Proceeds s (s.relationChanged n r) := by
  unfold State.relationChanged
  dsimp only
  have judged := (upshift_proceeds s).trans (judge_proceeds _)
  split
  · exact judged.trans (checkPeerCache_proceeds _ _)
  · exact judged

theorem compare_proceeds (s : State) (n : Byte) : Proceeds s (s.compare n) := by
  unfold State.compare
  split
  · exact Proceeds.refl s
  · dsimp only
    have t := (Proceeds.refl s).setPeers (s.peers.change n (fun x => x.evaluated s.loudness.ownHistory)) fun w =>
      w.change n _ (evaluated_station _) fun e h => by rw [evaluated_store]; exact h
    split
    · exact t
    · exact t.trans (relationChanged_proceeds _ _ _)

/-! ### Notices taken (R145, R156 to R160) -/

theorem takeStatus_proceeds (s : State) (n : Byte) (rx : FrameRx) (t : Nat) (h : StatusHead) (tail : Option StatusTail) :
    Proceeds s (s.takeStatus n rx t h tail) := by
  unfold State.takeStatus
  dsimp only
  have stored := (Proceeds.refl s).setPeers (s.peers.change n (fun e => e.takeStatus h (tailSignatures tail))) fun w =>
    w.change n _ (fun _ => rfl) fun e h => placeSignatures_length _ h
  refine (Proceeds.trans ?_ (judge_proceeds _)).trans (takePeerTime_proceeds _ _ _ _ _)
  split
  · exact stored.trans (compare_proceeds _ _)
  · exact stored

theorem noteBreach_proceeds (s : State) (n : Byte) (b : BreachNotice) (d : Int) : Proceeds s (s.noteBreach n b d) := by
  unfold State.noteBreach
  split
  · exact (Proceeds.refl s).setPeersRest _ (by rfl) (by rfl) (by rfl) (by rfl)
  · rename_i hroom
    dsimp only
    have placed : ∀ (q : BreachRequest) (a : Nat) (z : Option Nat), Proceeds s
        ((s.createBreach q).1.placeSympathetic a z (s.createBreach q).2).1 := fun q _ _ =>
      (createBreach_proceeds s q).trans (placeSympathetic_proceeds _ _ _ _)
    have count : ∀ (q : BreachRequest) (a : Nat) (z : Option Nat),
        ((s.createBreach q).1.placeSympathetic a z (s.createBreach q).2).1.peers.noted.length = s.peers.noted.length :=
      fun q _ _ => ((createBreach_keeps s q).trans (placeSympathetic_keeps _ _ _ _)).noted
    split
    · exact placed _ _ _
    · rename_i hb
      have room : s.peers.noted.length < 32 := by
        have : ¬ 32 ≤ s.peers.noted.length := fun h => hroom (by simp [hb, notedMax, h])
        omega
      refine (placed _ _ _).setPeers _ fun w => ⟨w.peers, w.stations, w.stores, ?_, w.cache, w.proxies⟩
      rw [List.length_append, count]
      exact room

theorem endNoted_proceeds (s : State) (e : NotedBreach) (b : BreachNotice) (t : Stamp) : Proceeds s (s.endNoted e b t) := by
  unfold State.endNoted
  dsimp only
  have last : ∀ (u : State) (f : NotedBreach → Bool), u.peers.Within →
      PeerMonitor.Within { u.peers with noted := u.peers.noted.filter f } := fun u f w =>
    ⟨w.peers, w.stations, w.stores, Nat.le_trans (List.length_filter_le ..) w.noted, w.cache, w.proxies⟩
  split
  · exact (endHold_proceeds s _ _).setPeers _ (last _ _)
  · exact ((endHold_proceeds s _ _).trans (closePeerNoted_proceeds _ _ _ _ _ _)).setPeers _ (last _ _)

theorem takeBreach_proceeds (s : State) (n : Byte) (b : BreachNotice) : Proceeds s (s.takeBreach n b) := by
  unfold State.takeBreach
  split
  · split
    · exact endNoted_proceeds s _ _ _
    · exact Proceeds.refl s
  · split
    · exact noteBreach_proceeds s _ _ _
    · exact Proceeds.refl s

theorem takeVerdict_proceeds (s : State) (n : Byte) (rx : FrameRx) (v : VerdictNotice) :
    Proceeds s (s.takeVerdict n rx v) := by
  unfold State.takeVerdict
  split
  · exact ((Proceeds.refl s).setPeers _ (by exact fun w =>
      ⟨w.peers, w.stations, w.stores, w.noted, newest_length_le .., w.proxies⟩)).trans (checkEntry_proceeds _ _)
  · exact Proceeds.refl s

/-! ### The peer table (R143, R144) -/

/-- A new entry keeps the limits when there is room and its number is new (R143, R144). -/
theorem PeerMonitor.Within.insert {p : PeerMonitor} (h : p.Within) (later : PeerEntry → Bool) (e : PeerEntry)
    (room : p.table.length < 15) (fresh : ∀ x ∈ p.table, x.station ≠ e.station) (store : e.store.length ≤ 16) :
    PeerMonitor.Within { p with table := placeBefore later e p.table } where
  peers := by simpa using room
  stations := by
    refine ((placeBefore_perm later e p.table).map _).nodup_iff.mpr ?_
    rw [List.map_cons, List.nodup_cons]
    refine ⟨fun hm => ?_, h.stations⟩
    obtain ⟨x, hx, he⟩ := List.mem_map.mp hm
    exact fresh x hx he
  stores x hx := by
    rcases List.mem_cons.mp ((placeBefore_perm later e p.table).mem_iff.mp hx) with rfl | hx
    · exact store
    · exact h.stores x hx
  noted := h.noted
  cache := h.cache
  proxies := h.proxies

theorem createPeer_proceeds (s : State) (n : Byte) (t : Stamp) (room : s.peers.table.length < 15)
    (fresh : s.peer? n = none) : Proceeds s (s.createPeer n t) := by
  refine ((((Proceeds.refl s).setPeers _ ?_).trans (upshift_proceeds _)).trans (considerPeers_proceeds _)).trans
    (judge_proceeds _)
  refine fun w => w.insert _ (.fresh n t) room (fun x hx he => ?_) (by simp [PeerEntry.fresh])
  have := List.find?_eq_none.mp fresh x hx
  simp only [beq_iff_eq] at this
  exact this he

theorem refreshPeer_proceeds (s : State) (e : PeerEntry) (t : Stamp) : Proceeds s (s.refreshPeer e t) := by
  unfold State.refreshPeer
  dsimp only
  have h := (Proceeds.refl s).setPeers (s.peers.change e.station (fun x => { x with lastHeard := t, heard := true }))
    fun w => w.change _ _ (fun _ => rfl) fun _ h => h
  split
  · exact h
  · exact h.trans (judge_proceeds _)

theorem actOn_proceeds (s : State) (f : ReceivedFrame) (rx : FrameRx) : Proceeds s (s.actOn f rx) := by
  unfold State.actOn
  split
  · exact takeStatus_proceeds s _ _ _ _ _
  · exact takeBreach_proceeds s _ _
  · exact takeVerdict_proceeds s _ _ _
  · exact removePeer_proceeds s _

/-- Taking a valid frame of another station proceeds (R144). -/
theorem takeFrame_proceeds (s : State) (f : ReceivedFrame) (rx : FrameRx) : Proceeds s (s.takeFrame f rx) := by
  unfold State.takeFrame
  split
  · exact (refreshPeer_proceeds s _ _).trans (actOn_proceeds _ _ _)
  · rename_i hn
    split
    · exact Proceeds.refl s
    · split
      · rename_i hroom
        exact (createPeer_proceeds s _ _ hroom hn).trans (actOn_proceeds _ _ _)
      · exact (Proceeds.refl s).setPeersRest _ (by rfl) (by rfl) (by rfl) (by rfl)

end Sys2Proof.Machine
end

