-- ==== Sys2Proof/WellFormed.lean ====
section
/-! DEFINITION. Which commands an outside partner can send: the checks on operands that do not depend on the state.
The meanings are total on every command, well formed or not (log 34). -/

namespace Sys2Proof

/-- The request codes of the table of R182. -/
def requestCodes : List Byte :=
  [0x10, 0x20, 0x21, 0x22, 0x30, 0x31, 0x40, 0x41, 0x42, 0x50, 0x51, 0x7E]

/-- A command is well formed when its operands can occur:
the configuration memory gives 128 bytes (R188); a completed header is at least 15 new bytes, the last of those
examined (R1, R2: the first delimiter byte may have been examined before); a payload is no longer than the longest unit's (R2); a completed frame has its header and its CRC and
is no longer than the largest frame (R123); a missing delimiter is not the delimiter (R2); an unknown request's code
is not in the table (R181). -/
def Instr.wellFormed : Instr → Bool
  | .configLoaded bytes => bytes.length == 128
  | .unitHeaderComplete bytes => 15 ≤ bytes.length
  | .payloadComplete payload => payload.length ≤ 34564
  | .frameComplete bytes => 12 ≤ bytes.length && bytes.length ≤ 270
  | .missingDelimiter first second => !(first == 0xB4 && second == 0x4B)
  | .unknownRequest code => !(requestCodes.contains code)
  | .fullReset | .memoryCheckDone _ | .listeningEnd | .oscillatorTick | .unitDelivery | .recorderWriteComplete
  | .markUnitWrite | .overrunExpiry | .audioAbsentDeadline | .qualitySilenceExpiry | .tallyBucketBoundary
  | .recoveryExpiry | .historyEntryExpiry | .referenceSilenceExpiry | .holdoverExpiry | .lineBusy | .lineQuiet _
  | .frameStart | .attemptStart | .collision | .noticeCommitted | .frameSent | .occupancyBucketEnd
  | .statusTimerExpiry | .downshiftDeadline | .peerStaleDeadline _ | .peerRemovalDeadline _ | .divergenceExpiry
  | .proxyDeadline | .holdIntervalClose _ | .holdMaxLengthExpiry _ | .pulseEnd _ | .chipSelectRise
  | .readingRequestCommit | .readSummary | .logNext | .logRewind | .logAck _ | .verdictNext | .verdictRewind
  | .holdList | .holdPlace _ _ _ _ | .holdRelease _ | .unitSeek _ _ _ | .unitRead | .restart
  | .restartSequence => true

end Sys2Proof
end

