-- ==== Sys2Proof/Tests/Slice0.lean ====
section
/-! SUPPORT. The model's own tests: ill-formed commands refused, the manual's worked examples, and for every statement a
concrete state and operands that meet its hypotheses. -/

namespace Sys2Proof.Tests

open Sys2Proof.Machine

set_option Elab.async false

/-! ### Helpers -/

/-- Whether a command completes in a state that passes a test. -/
def goes (c : Instr) (s : State) (p : State → Bool) : Bool :=
  match exec c s with
  | .next t => p t
  | .fault _ | .refused _ => false

/-- Whether a command completes and leaves the state as it was. -/
def idle (c : Instr) (s : State) : Bool := goes c s (fun t => t = s)

/-- A configuration with station number 5, service 7 and region group 2. -/
def config : WorkingCopy := { builtInDefaults with stationNumber := 5, serviceId := 7, regionGroup := 2 }

/-- A station in a state at shelf time 100 s. -/
def stationIn (x : StationState) : State :=
  (State.reset.setStartup { Startup.reset with station := x, config := config }).setTime
    { TimeBase.reset with shelf := 100000000, localCount := 100000000 }

/-- The station in RUNNING at 100 s. -/
def running : State := stationIn .running

/-- A stamp at a shelf time. -/
def at_ (t : Nat) : Stamp := ⟨t, .locked, false⟩

/-- A breach record. -/
def record (serial number : Nat) (isOpen acked : Bool) : BreachRecord where
  serial := serial
  number := number
  category := .peakExcess
  origin := .own
  segmentId := 9
  cls := .advert
  scope := .national
  startStamp := at_ 90000000
  endStamp := if isOpen then none else some (at_ 95000000)
  figure := if isOpen then none else some (-23)
  hold := none
  flags := ⟨false, false, false, false, false, false, false⟩
  isOpen := isOpen
  acked := acked

/-- An OWN hold from 80 s. -/
def hold (isOpen : Bool) (stop : Option Nat) : Hold where
  isOpen := isOpen
  priority := .own
  start := 80000000
  stop := stop
  first := 1
  last := if isOpen then none else some 1
  pinned := 1
  closeStamp := if isOpen then none else some 95000000
  breach := some 1
  flags := ⟨false, false, false, false⟩
  maxLength := 20000000

/-- A recorder with one page begun, a hold in slot 0 and the page pinned by it. -/
def recording (h : Hold) : Recorder :=
  { Recorder.reset with
    pages := [⟨0, 1, some (at_ 70000000), some (at_ 90000000), [], 1⟩]
    current := some 0
    counter := 2
    slots := ⟨1, some h⟩ :: List.replicate 31 ⟨0, none⟩
    pinnedTotal := 1 }

/-- A queued unit with its payload. -/
def unit (k : UnitKind) (payload : List Byte) : QueuedUnit where
  kind := k
  damaged := false
  length := payload.length
  mediaTime := 4800
  arrival := at_ 99000000
  noted := 99000000
  serial := 3
  payload := some payload

/-- The station with an input queue. -/
def queued (q : List QueuedUnit) : State := running.setPort { running.port with queue := q, nextSerial := 9 }

/-! ### Well-formedness: an ill-formed command for each check -/

theorem test_wf_configLoaded : (Instr.configLoaded [1, 2]).wellFormed = false := by decide
theorem test_wf_unitHeader : (Instr.unitHeaderComplete [0xB4, 0x4B]).wellFormed = false := by decide
theorem test_wf_payload : (Instr.payloadComplete (List.replicate 34565 0)).wellFormed = false := by
  rw [Instr.wellFormed, List.length_replicate]
  decide +kernel
theorem test_wf_frame : (Instr.frameComplete [1, 2, 3]).wellFormed = false := by decide
theorem test_wf_delimiter : (Instr.missingDelimiter 0xB4 0x4B).wellFormed = false := by decide
theorem test_wf_request : (Instr.unknownRequest 0x22).wellFormed = false := by decide
theorem test_wf_accepted : (Instr.unknownRequest 0x23).wellFormed = true ∧
    (Instr.configLoaded (List.replicate 128 0)).wellFormed = true := by decide +kernel

/-- The table gives its rows no bits (log 4). -/
theorem test_no_words : decodeTableWord 8 0x10 = none ∧ State.reset.withFetchWord 8 0x10 = State.reset := by
  decide +kernel

/-! ### The manual's examples -/

/-- The usual check value of the CRC of R123: 0x29B1 for the characters 1 to 9. -/
theorem test_crc : crc16 [0x31, 0x32, 0x33, 0x34, 0x35, 0x36, 0x37, 0x38, 0x39] = 0x29B1 := by decide +kernel

/-- The loudness of the energy 0.011725 is −20.00 and of 0.000000005 it is −83.70 (chapter 4, gating six blocks). -/
theorem test_loudness : loudnessOfQuotient 11725 1000000 = -2000 ∧ loudnessOfQuotient 5 1000000000 = -8370 := by
  decide +kernel

/-- The signatures of the example of section 8.2, with T = 1000. -/
def ownSignatures : List Signature :=
  [⟨1000, 0b0011110000, -23, false⟩, ⟨1001, 0b1100000011, -22, false⟩, ⟨1002, 0b0000111100, -18, false⟩,
    ⟨1003, 0b0111000000, -17, false⟩, ⟨1004, 0b0010010110, -19, false⟩, ⟨1005, 0b0010101010, -21, false⟩]

/-- The store of station 3 in the example of section 8.2. -/
def peerSignatures : List Signature :=
  [⟨997, 0b0000001111, -24, false⟩, ⟨998, 0b0011110000, -23, false⟩, ⟨999, 0b1100000011, -22, false⟩,
    ⟨1000, 0b0000111100, -18, false⟩, ⟨1001, 0b1111000000, -17, false⟩, ⟨1002, 0b0001010101, -19, false⟩,
    ⟨1003, 0b0010101010, -21, false⟩, ⟨1004, 0b0001100110, -22, false⟩, ⟨1005, 0b0100101001, -20, false⟩]

/-- A peer entry heard at 99 s. -/
def peer (station : Byte) (relation : Relation) (streak : Nat) (store : List Signature) : PeerEntry where
  station := station
  heard := true
  lastHeard := at_ 99000000
  status := some ⟨7, 2, .locked, .normal, .alert, .programme, .regional, 1⟩
  store := store
  relation := relation
  streak := streak

/-- The counts and the outcome of the example of section 8.2: offset +2 with 5 matches of 6; a third miss makes APART. -/
theorem test_comparison : pairCount ownSignatures peerSignatures 2 = 6 ∧ matchCount ownSignatures peerSignatures 2 = 5 ∧
    (peer 3 .unknown 1 peerSignatures).evaluated ownSignatures = peer 3 (.common 2) 0 peerSignatures ∧
    (peer 3 .unknown 1 (peerSignatures.take 3)).evaluated ownSignatures
      = peer 3 .unknown 1 (peerSignatures.take 3) ∧
    (peer 3 .unknown 2 (peerSignatures.map (fun g => { g with level := 5 }))).evaluated ownSignatures
      = peer 3 .apart 3 (peerSignatures.map (fun g => { g with level := 5 })) := by decide +kernel

/-! ### The step and the whole machine -/

/-- The station with one tick waiting. -/
def ticking : State := running.setPending [.oscillatorTick, .lineBusy]

theorem test_StepRunsFrontCommand : goes .oscillatorTick (running.setPending [.lineBusy]) (fun t =>
    t.now = 100000001 ∧ t.pending = [.lineBusy]) = true ∧ running.pending = [] := by decide +kernel

theorem test_EveryCommandCompletes : (∀ bytes, Instr.lineBusy ≠ .configLoaded bytes) ∧ Instr.lineBusy ≠ .fullReset ∧
    goes .lineBusy running (fun t => t.startup.config = config) = true := ⟨by simp, by simp, by decide +kernel⟩

theorem test_EveryStepKeepsLimits : ticking.Within ∧
    goes .oscillatorTick (ticking.setPending [.lineBusy]) (fun t => t.link.quietCount = 1) = true where
  left :=
    { port := ⟨by decide, by decide⟩
      tally := by decide
      cues := by decide
      references := by decide
      loudness := ⟨by decide, by decide, by decide⟩
      verdicts := by decide
      captions := ⟨by decide, by decide, by decide⟩
      link := ⟨by decide, by decide, by decide⟩
      log := ⟨by decide, by decide⟩
      pulses := by decide
      peers := ⟨by decide, by decide, by decide, by decide, by decide, by decide⟩ }
  right := by decide +kernel

theorem test_EveryStepKeepsPinBudget : (recording (hold true none)).Within :=
  ⟨by decide, by decide +kernel, by decide +kernel, by decide⟩

theorem test_ShelfTimeNeverGoesBack : ticking.now ≤ shelfMax ∧ ticking.pending.head? ≠ some .fullReset ∧
    goes .oscillatorTick (ticking.setTime { ticking.time with shelf := shelfMax }) (fun t => t.now = shelfMax) = true := by
  decide +kernel

theorem test_FaultAndLoadingAreLeftForGood :
    goes .restart (stationIn .fault) (fun t => t.startup.station = .fault) = true ∧
    goes .lineBusy (stationIn .loading) (fun t => t.startup.station = .loading) = true := by decide +kernel

/-! ### Start-up -/

/-- A configuration record with a station number and a good sum. -/
def goodRecord (number : Byte) : List Byte :=
  let body : List Byte := number :: [2, 0, 7, 0, 250] ++ (List.replicate 4 [0xF7, 0x04, 0, 100, 1, 0xF4, 0xF6, 1]).flatten
    ++ [0xEE, 0x6C, 12, 30, 50, 10, 30, 20, 10, 0, 0x07, 0x08, 0, 60, 2, 0x58, 2, 0x58] ++ List.replicate 70 0
  body ++ beBytes 2 (body.map BitVec.toNat).sum

theorem test_ConfigLoadedGood : (goodRecord 1).length = 128 ∧ sumGood (goodRecord 1) = true ∧
    (byteAt (goodRecord 1) 0).toNat = 1 ∧ sumGood (goodRecord 16) = true ∧ (byteAt (goodRecord 16) 0).toNat = 16 ∧
    goes (.configLoaded (goodRecord 16)) (stationIn .loading) (fun t => t.startup.config.stationNumber = 16 ∧
      t.startup.config.programme.target = -2300 ∧ t.startup.config.soundThreshold = -4500 ∧
      t.startup.config.referenceDelay = 250 ∧ t.startup.configClamped = false) = true := by decide +kernel

theorem test_ConfigFaultyAndFields : sumGood (goodRecord 0) = true ∧ sumGood (goodRecord 17) = true ∧
    sumGood (List.replicate 128 0) = true ∧ sumGood (List.replicate 128 1) = false ∧
    goes (.configLoaded (goodRecord 17)) (stationIn .loading) (fun t => t.startup.config.stationNumber = 0 ∧
      t.startup.defaultsInUse = false ∧ t.startup.configClamped = false ∧
      t.log.records.map (fun r => (r.category, r.startStamp.time)) = [(.configFault, 100000000)]) = true ∧
    goes (.configLoaded (List.replicate 128 0)) (stationIn .loading) (fun t => t.startup.configClamped = true) = true ∧
    goes (.configLoaded (List.replicate 128 1)) (stationIn .loading) (fun t => t.startup.config = builtInDefaults ∧
      t.startup.defaultsInUse = true ∧ t.startup.listenOnlyMark = true) = true := by decide +kernel

/-- A field of bytes 0x80 (below a signed field's range), 0, 0x7F (above every range) and of the good record (inside). -/
theorem test_ConfigFaultyAndFields_limits :
    let taken := fun (bytes : List Byte) => clampConfig (readConfig bytes)
    let all := fun (x : Byte) => taken (List.replicate 128 x)
    ((all 0x80).junction.target, (all 0x7F).junction.target, (taken (goodRecord 1)).junction.target)
      = (-4000, -1000, -2300) ∧
    ((all 0).advert.tolerance, (all 0x7F).advert.tolerance, (taken (goodRecord 1)).advert.tolerance) = (10, 500, 100) ∧
    ((all 0x80).promotion.peakLimit, (all 0x7F).promotion.peakLimit, (taken (goodRecord 1)).promotion.peakLimit)
      = (-99, 0, -10) ∧
    ((all 0).gapLimit, (all 0x7F).gapLimit, (taken (goodRecord 1)).gapLimit) = (2, 60, 12) ∧
    ((all 0).maxHold, (all 0x7F).maxHold, (taken (goodRecord 1)).maxHold) = (60, 7200, 1800) ∧
    ((taken (goodRecord 1)).stuckLimit, (taken (goodRecord 1)).tq, (taken (goodRecord 1)).proxyWait) = (30, 50, 30) ∧
    ((all 0x7F).line 3) = ⟨0x037F7F#24, true, true, true⟩ := by decide +kernel

theorem test_MemoryCheckDone :
    goes (.memoryCheckDone ⟨false, false, false, false, false⟩) (stationIn .checking) (fun t =>
      t.startup.station = .listening ∧ t.log.records.length = 1) = true ∧
    goes (.memoryCheckDone ⟨false, false, false, false, false⟩)
      ((stationIn .checking).setTime { (stationIn .checking).time with source := .locked }) (fun t =>
        t.startup.station = .listening ∧ t.log.records = []) = true ∧
    goes (.memoryCheckDone ⟨false, false, false, false, false⟩)
      ((stationIn .checking).setTime { (stationIn .checking).time with suspect := true }) (fun t =>
        t.log.records.map (fun r => r.category) = [.timeDegraded, .clockSuspect]) = true ∧
    goes (.memoryCheckDone ⟨false, false, false, false, false⟩)
      ((stationIn .checking).setTime { (stationIn .checking).time with source := .locked, suspect := true }) (fun t =>
        t.log.records.map (fun r => r.category) = [.clockSuspect]) = true ∧
    goes (.memoryCheckDone ⟨false, false, true, false, true⟩) (stationIn .checking) (fun t =>
      t.startup.station = .fault ∧ t.startup.checkResult = 3 ∧ t.lineAsserted 3 = true) = true ∧
    firstFailed ⟨true, true, false, false, false⟩ = 1 ∧ firstFailed ⟨false, true, false, false, false⟩ = 2 ∧
    firstFailed ⟨false, false, false, true, true⟩ = 4 ∧ firstFailed ⟨false, false, false, false, true⟩ = 5 := by
  decide +kernel

/-- A station 2 s after its entry to LISTENING. -/
def listened (mark : Bool) : State :=
  let s := stationIn .listening
  s.setStartup { s.startup with listeningSince := some 98000000, listenOnlyMark := mark }

theorem test_ListeningEnd :
    goes .listeningEnd (listened false) (fun t => t.startup.station = .running ∧ t.link.queue.length = 1 ∧
      t.link.statusNext = some 101000000 ∧ t.link.downshift = some 160000000) = true ∧
    goes .listeningEnd (listened true) (fun t => t.startup.station = .listenOnly ∧ t.link.queue = []) = true := by
  decide +kernel

/-- A station with a restart begun. -/
def restarting (x : StationState) (reported : Bool) : State :=
  let s := stationIn x
  s.setStartup { s.startup with restarting := true, withdrawReported := reported }

theorem test_RestartAnswers :
    goes .restart (stationIn .loading) (fun t => t.evidence.txn = some ⟨[1], 0, .nothing⟩) = true ∧
    goes .restart (restarting .running false) (fun t => t.evidence.txn = some ⟨[1], 0, .nothing⟩) = true ∧
    goes .restart running (fun t => t.link.queue.map (fun q => q.notice) = [.withdraw] ∧
      t.startup.withdrawReported = false) = true ∧
    goes .restart (stationIn .listening) (fun t => t.link.queue = [] ∧ t.startup.withdrawReported = true) = true := by
  decide +kernel

theorem test_RestartInFault :
    goes .restart (((stationIn .fault).setLog { BreachLog.reset with records := [record 0 1 true false] }).setRecorder
      (recording (hold true none))) (fun t =>
        t.startup.station = .fault ∧ t.log.records.map (fun r => r.isOpen) = [false] ∧
        (t.recorder.hold? 0).map (fun h => (h.isOpen, h.stop)) = some (false, some 100000000)) = true := by decide +kernel

/-! ### Evidence port -/

/-- The station with its evidence port in a state. -/
def evidence (e : EvidencePort) : State := running.setEvidence e

theorem test_ReadSummary :
    goes .readSummary running (fun t => t.evidence.txn.map (fun x => x.response.length) = some 66) = true ∧
    goes .readingRequestCommit ((running.setPort { running.port with inputDrops := 9 }).setEvidence
      { EvidencePort.reset with txn := some ⟨[], 0, .summary [4, 0, 0, 0, 0, 0, 0, 0, 0, 0]⟩ }) (fun t =>
        t.port.inputDrops = 5) = true := by decide +kernel

theorem test_LogCursor :
    goes .logNext ((evidence { EvidencePort.reset with logCursor := some 4 }).setLog
      { BreachLog.reset with records := [record 4 1 true false] }) (fun t =>
        t.evidence.txn.map (fun x => (x.response.length, x.commit)) = some (38, .logAfter 4)) = true ∧
    goes .logNext running (fun t => t.evidence.txn.map (fun x => x.response.take 1) = some [1]) = true := by decide +kernel

theorem test_RecordLayout :
    let r := record 0 65535 false true
    r.number < 65536 ∧ r.startStamp.time ≤ shelfMax ∧ r.endStamp = some (at_ 95000000) ∧
    intAt (recordBytesOf r) 32 4 = -23 ∧ byteAt (recordBytesOf r) 36 = 0xFF ∧
    natAt (recordBytesOf { r with origin := .peer 3 65535, figure := some 4294967295, hold := some ⟨31, 0⟩ }) 6 2 = 65535 ∧
    byteAt (recordBytesOf { r with hold := some ⟨31, 0⟩ }) 36 = 31 ∧
    natAt (recordBytesOf (record 0 1 true false)) 23 9 = 0 := by decide +kernel

/-- A verdict. -/
def verdict (serial : Nat) (scope : Scope) (impaired : Bool) (integrated : Option Int) : Verdict where
  kind := .segment
  id := 8301
  cls := .advert
  scope := scope
  startStamp := at_ 85000000
  endStamp := at_ 99000000
  figures := ⟨integrated, none, none, -68, 147⟩
  coverage := some 972
  source := .own
  impaired := impaired
  serial := serial

theorem test_VerdictCursor :
    goes .verdictNext ((evidence { EvidencePort.reset with verdictCursor := some 2 }).setVerdicts
      ⟨[verdict 2 .national false none], 3⟩) (fun t =>
        t.evidence.txn.map (fun x => (x.response.length, x.commit)) = some (43, .verdictAfter 2)) = true ∧
    goes .verdictNext running (fun t => t.evidence.txn.map (fun x => x.response.take 1) = some [1]) = true := by
  decide +kernel

/-- A full history, its oldest verdict at the cursor or not. -/
theorem test_VerdictCursor_issue :
    let full := (List.range 16).map (fun n => verdict n .national false none)
    let issued := fun (c : Option Nat) =>
      ((evidence { EvidencePort.reset with verdictCursor := c }).setVerdicts ⟨full, 16⟩).issue (verdict 0 .regional false none)
    (issued none).evidence.verdictCursor = some 16 ∧ (issued (some 0)).evidence.verdictCursor = some 1 ∧
    (issued (some 5)).evidence.verdictCursor = some 5 ∧ (issued none).verdicts.history.map (fun v => v.serial)
      = (List.range 16).map (fun n => n + 1) := by decide +kernel

theorem test_VerdictCursor_layout :
    let v := verdict 0 .national true none
    let b := verdictBytesOf (verdict 0 .national false (some (-2300)))
    let none_ := verdictBytesOf { v with coverage := none, source := .proxy 7, kind := .programme }
    [natAt b 0 1, natAt b 1 4, natAt b 33 4, natAt b 37 2] = [1, 8301, 147, 972] ∧
    [intAt b 25 2, intAt b 27 2, intAt b 31 2, intAt none_ 25 2] = [-2300, -32768, -68, -32768] ∧
    [natAt none_ 0 1, natAt none_ 37 2, natAt none_ 39 1, natAt none_ 40 1, natAt none_ 41 1] = [2, 65535, 2, 1, 7] := by decide +kernel

theorem test_RestartSequence :
    let s := restarting .running true
    goes .restartSequence ((((s.setTime { s.time with source := .peer, followed := some 3 }).setRecorder
      (recording (hold true none))).setLog { BreachLog.reset with records := [record 0 1 true false] }).setPeers
      { PeerMonitor.reset with pendingVerdicts := [⟨verdict 0 .national true none, 129000000⟩] }) (fun t =>
        t.startup.station = .checking ∧ t.recorder.openHolds = [] ∧ t.time.source = .free ∧
        t.recorder.marks.map (fun m => m.reason) = [.restart] ∧
        t.log.records.map (fun r => (r.category, r.isOpen, r.flags.restartCut))
          = [(.peakExcess, false, true), (.measurementLost, false, false)] ∧
        t.verdicts.history.map (fun v => v.source) = [.unmeasured]) = true := by decide +kernel

/-- The head unit, whose write is in progress, keeps its place; the units behind it are start discards. -/
theorem test_RestartSequence_writing :
    let u : RecordedUnit := ⟨.payload, false, at_ 99000000, 4800, [1]⟩
    let s := restarting .running true
    goes .restartSequence ((s.setPort { s.port with queue := List.replicate 3 (unit .payload [1]), startDiscards := 4 }).setRecorder
      { s.recorder with writing := some u }) (fun t => t.port.queue = [unit .payload [1]] ∧ t.port.startDiscards = 6 ∧
        t.recorder.writing = some u) = true := by decide +kernel

theorem test_HoldRequests :
    let held := running.setRecorder (recording (hold true none))
    goes .holdList held (fun t => t.evidence.txn.map (fun x => (x.response.length, x.response.take 4))
      = some (768, [1, 2, 0, 0])) = true ∧
    goes (.holdPlace 80 1000000 90 0) held (fun t => t.evidence.txn = some ⟨[0xFF], 0, .nothing⟩) = true ∧
    goes (.holdPlace 90 1 90 0) held (fun t => t.evidence.txn = some ⟨[0xFF], 0, .nothing⟩) = true ∧
    goes (.holdPlace 80 999999 90 999999) held (fun t => t.evidence.txn = some ⟨[1], 0, .nothing⟩) = true ∧
    goes (.holdRelease 0) held (fun t => t.recorder.hold? 0 = none ∧ t.recorder.pinnedTotal = 0) = true ∧
    goes (.holdRelease 31) held (fun t => t.evidence.txn = some ⟨[1], 0, .nothing⟩) = true ∧
    goes (.holdRelease 32) held (fun t => t.evidence.txn = some ⟨[1], 0, .nothing⟩) = true := by decide +kernel

theorem test_HoldRequests_layout :
    let b := holdEntryBytes ⟨1, some (hold true none)⟩
    let c := holdEntryBytes ⟨1, some { hold false (some 95000007) with breach := none }⟩
    holdEntryBytes ⟨1, none⟩ = List.replicate 24 0 ∧
    (natAt b 0 1, natAt b 4 4, natAt b 8 4, natAt b 12 4, natAt b 20 2, natAt b 22 2)
      = (1, 80, 0, 0xFFFFFFFF, 1, 1) ∧
    (natAt c 0 1, natAt c 12 4, natAt c 16 4, natAt c 22 2) = (2, 95, 7, 0) := by decide +kernel

/-- A release unpins the page, and clears the link of the noted breach and of the record that name the hold. -/
theorem test_HoldRequests_release :
    let h : Hold := { hold true none with priority := .sympathetic }
    let s := (running.setRecorder (recording h)).setPeers
      { PeerMonitor.reset with noted := [⟨4, 1, 0, none, some ⟨0, 1⟩⟩, ⟨4, 2, 0, none, some ⟨0, 2⟩⟩] }
    goes (.holdRelease 0) (s.setLog { BreachLog.reset with records := [{ record 0 1 true false with hold := some ⟨0, 1⟩ }] }) (fun t =>
      t.recorder.pages.map (fun q => q.pins) = [0] ∧ t.recorder.pinnedTotal = 0 ∧
      t.peers.noted.map (fun e => e.hold) = [none, some ⟨0, 2⟩] ∧
      t.log.records.map (fun r => (r.hold, r.flags.holdEvicted)) = [(none, false)]) = true := by decide +kernel

/-- The station with a unit recorded in the page of an OPEN or CLOSED hold. -/
def reading (isOpen : Bool) (units : List RecordedUnit) (cursor : Option UnitCursor) : State :=
  let r := recording (hold isOpen none)
  (running.setRecorder { r with pages := r.pages.map (fun p => { p with units := units }) }).setEvidence
    { EvidencePort.reset with unitCursor := cursor }

theorem test_UnitRequests :
    let u : RecordedUnit := ⟨.cue, false, at_ 85000000, 5, [1, 2, 3]⟩
    goes (.unitSeek 1 80 0) (reading true [u] none) (fun t => t.evidence.txn = some ⟨[1], 0, .nothing⟩) = true ∧
    goes (.unitSeek 0 80 999999) (reading true [u] none) (fun t =>
      t.evidence.txn = some ⟨[0], 0, .seek ⟨0, 1, ⟨1, 0⟩⟩ 80999999⟩) = true ∧
    goes .unitRead (reading true [u] none) (fun t => t.evidence.txn = some ⟨[4], 0, .nothing⟩) = true ∧
    goes .unitRead (reading true [u] (some ⟨0, 2, ⟨1, 0⟩⟩)) (fun t =>
      t.evidence.txn = some ⟨[3], 0, .nothing⟩) = true ∧
    goes .unitRead (reading true [u] (some ⟨0, 1, ⟨1, 0⟩⟩)) (fun t =>
      t.evidence.txn.map (fun x => (x.response.length, x.commit)) = some (28, .position ⟨1, 1⟩)) = true ∧
    goes .unitRead (reading true [u] (some ⟨0, 1, ⟨1, 1⟩⟩)) (fun t =>
      t.evidence.txn = some ⟨[2], 0, .nothing⟩) = true ∧
    goes .unitRead (reading false [u] (some ⟨0, 1, ⟨1, 1⟩⟩)) (fun t =>
      t.evidence.txn = some ⟨[1], 0, .nothing⟩) = true := by decide +kernel

/-- Two pages of a hold, the later one at the lower index: the units' order is the pages' sequence order (R118). -/
theorem test_UnitRequests_positions :
    let u := fun (t : Nat) => (⟨.cue, false, at_ t, 5, [1, 2]⟩ : RecordedUnit)
    let r := { recording (hold false none) with pages := [⟨0, 8, some (at_ 90), some (at_ 95), [u 90, u 95], 1⟩,
      ⟨3, 7, some (at_ 70), some (at_ 80), [u 70, u 80], 1⟩] }
    let h : Hold := { hold false none with first := 7, last := some 8 }
    [60, 71, 80, 85, 96].map (r.seekPosition h) = [⟨7, 0⟩, ⟨7, 1⟩, ⟨7, 1⟩, ⟨8, 0⟩, ⟨8, 2⟩] ∧
    [⟨7, 1⟩, ⟨7, 2⟩, ⟨8, 1⟩, ⟨8, 2⟩].map (r.unitAt h) = [some (⟨7, 1⟩, u 80), some (⟨8, 0⟩, u 90), some (⟨8, 1⟩, u 95), none] ∧
    (recording (hold true none)).seekPosition { h with first := 9, last := none } 60 = ⟨9, 0⟩ := by decide +kernel

theorem test_UnitRequests_layout :
    let x : Stamp := ⟨3000007, .holdover, true⟩
    let stamp : List Byte := [0, 0, 0, 3, 0, 0, 0, 7, 0x82]
    unitBytesOf ⟨.mark, true, x, 0x0102030405, [9, 8]⟩ = [4, 1] ++ stamp ++ [1, 2, 3, 4, 5, 0, 2, 0, 0, 0, 0, 0, 0, 9, 8] ∧
    markBytes ⟨.timeStep, at_ 1, none, 259, some x, 0⟩ = [2, 0, 0, 1, 3] ++ stamp ++ [0, 0] ∧
    markBytes ⟨.restart, at_ 1, none, 0, none, 0⟩ = 3 :: List.replicate 15 0 := by decide +kernel

theorem test_Transactions :
    goes (.unknownRequest 0x23) running (fun t => t.evidence.txn = some ⟨[], 0xFF, .nothing⟩) = true ∧
    idle .readSummary (evidence { EvidencePort.reset with txn := some ⟨[], 0, .nothing⟩ }) = true ∧
    idle .readingRequestCommit running = true := by decide +kernel

theorem test_Transactions_requests :
    readRequest? (0x22 :: (beBytes 2 1001 ++ [9])) = some (.logAck 1001) ∧ readRequest? [0x22, 3] = none ∧
    readRequest? (0x41 :: (beBytes 4 1 ++ beBytes 4 2 ++ beBytes 4 3 ++ beBytes 4 4)) = some (.holdPlace 1 2 3 4) ∧
    readRequest? (0x50 :: 31 :: (beBytes 4 5 ++ beBytes 4 6)) = some (.unitSeek 31 5 6) ∧
    readRequest? (0x50 :: 31 :: (beBytes 4 5 ++ [0, 0, 0])) = none ∧ readRequest? [0x42, 7] = some (.holdRelease 7) ∧
    readRequest? [0x23] = some (.unknownRequest 0x23) ∧
    bytesOfBits [false, true, true, true, true, true, true, false, true] = [0x7E] ∧
    (List.range 4).map (Transaction.dataOut ⟨[7, 8], 0xFF, .nothing⟩) = [0, 7, 8, 0xFF] ∧
    (List.range 16).map (Transaction.dataOutBit ⟨[0x81], 0, .nothing⟩)
      = List.replicate 8 false ++ [true] ++ List.replicate 6 false ++ [true] := by decide +kernel

/-! ### Breach Log and alarm lines -/

/-- The station with records in its log. -/
def logged (records : List BreachRecord) : State :=
  running.setLog { BreachLog.reset with records := records, nextNumber := 200, nextSerial := 500 }

theorem test_Acknowledge :
    goes (.logAck 2) (logged [record 0 1 true false, record 1 2 false false, record 2 3 false false]) (fun t =>
      t.log.records.map (fun r => r.acked) = [true, true, false] ∧ t.log.ackPoint = 2 ∧
      t.evidence.txn = some ⟨[0, 0], 0, .nothing⟩) = true ∧
    goes (.logAck 9) (logged [record 0 1 true false]) (fun t => t.log.records = [record 0 1 true false]) = true ∧
    (config.line 0).pulse = false ∧ (config.line 0).mask.getLsbD (Category.peakExcess.code - 1) = true ∧
    (logged [record 0 1 true true]).lineAsserted 0 = true := by decide +kernel

theorem test_LevelLines : (config.line 3).pulse = false ∧ (config.line 2).pulse = true ∧
    (logged [record 0 1 false false]).lineAsserted 0 = true ∧ (logged [record 0 1 false true]).lineAsserted 0 = false ∧
    (logged []).lineDrivenLow 0 = false ∧ (stationIn .loading).lineDrivenLow 3 = false ∧
    ((logged []).setLog { BreachLog.reset with full := true }).lineAsserted 3 = true := by decide +kernel

theorem test_PulseLines :
    let pulsing := fun (e : Nat) => running.setAlarms ⟨[none, none, some e, none]⟩
    (config.line 2).mask.getLsbD (Category.timeStep.code - 1) = true ∧
    (running.raise { category := .timeStep, startStamp := at_ 0, endStamp := some (at_ 0) }).alarms.pulseEnds
      = [none, none, some 100100000, none] ∧
    goes (.pulseEnd 2) (pulsing 100000000) (fun t => t.alarms.pulseEnds = [none, none, none, none]) = true ∧
    idle (.pulseEnd 2) (pulsing 100000001) = true ∧ idle (.pulseEnd 3) (pulsing 100000000) = true ∧
    (pulsing 100000001).lineAsserted 2 = true := by decide +kernel

theorem test_CreationStoresRecord :
    let s := (logged [record 0 200 true false]).setRecorder (recording (hold true none))
    let t := (s.createBreach { category := .captionAbsent, startStamp := at_ 1 }).1
    s.log.records.length < 127 ∧ s.log.causes.length ≤ 10 ∧ s.log.nextNumber = 200 ∧
    t.log.records.map (fun r => (r.number, r.hold)) = [(200, none), (201, some ⟨1, 1⟩)] ∧
    t.log.causes.map (fun c => (c.number, c.hold)) = [(201, some ⟨1, 1⟩)] := by decide +kernel

/-- A shared category's BREACH notice and, for origin OWN alone, the upshift event that follows it (R169). -/
theorem test_CreationStoresRecord_notice :
    let s := (logged []).setLink { running.link with period := .quiet }
    let request : BreachRequest := { category := .contentDivergent, startStamp := at_ 5 }
    let made := fun (q : BreachRequest) => (s.createBreach q).1
    let kinds := fun (t : State) => (t.link.queue.map (fun q => q.notice.rank), t.link.period, t.log.nextNumber)
    kinds (made request) = ([1, 3], .alert, 201) ∧ kinds (made { request with origin := .peer 4 7 }) = ([1], .quiet, 201) ∧
    kinds (made { request with category := .inputOverrun }) = ([3], .alert, 201) ∧
    (made request).link.queue.head?.map (fun q => q.notice)
      = some (.breach ⟨200, .contentDivergent, ⟨false, false⟩, 0, .regional, at_ 5, none, none⟩) := by decide +kernel

theorem test_BreachNumbers :
    let l := { BreachLog.reset with
      records := [record 0 65535 true false, record 1 1 true false], nextNumber := 65535 }
    1 ≤ l.nextNumber ∧ l.records.length ≤ 128 ∧ l.causes.length ≤ 10 ∧ l.drawn = 2 := by decide +kernel

/-- A full log whose records are OPEN but for one. -/
def fullLog (odd : BreachRecord) : State :=
  logged ((List.range 127).map (fun n => record n (n + 1) true false) ++ [odd])

theorem test_FullLog :
    (fullLog (record 127 128 false true)).log.records.length = 128 ∧
    ((fullLog (record 127 128 false true)).log.records.map (fun r => r.serial)).Nodup ∧
    ((fullLog (record 127 128 false true)).storeRecord (record 0 9 true false)).2 = true ∧
    ((fullLog (record 127 128 false false)).storeRecord (record 0 9 true false)).2 = true ∧
    ((fullLog (record 127 128 true false)).storeRecord (record 0 9 true false)).2 = false ∧
    ((fullLog (record 127 128 true false)).storeRecord (record 0 9 true false)).1.log.full = true := by decide +kernel

theorem test_LogCursor_store :
    let stored := fun (odd : BreachRecord) (c : Option Nat) =>
      (((fullLog odd).setEvidence { EvidencePort.reset with logCursor := c }).storeRecord (record 0 9 true false)).1.evidence.logCursor
    let odd := record 127 128 false true
    (fullLog odd).log.records.Pairwise (fun a b => a.serial < b.serial) ∧ (fullLog odd).log.discardable = some odd ∧
    stored odd none = some 500 ∧ stored odd (some 127) = some 500 ∧ stored odd (some 5) = some 5 ∧
    stored (record 127 128 true false) none = none ∧
    (((running.storeRecord (record 0 9 true false)).1).evidence.logCursor = some 0) := by decide +kernel

/-- LOG_FULL coming to stand pulses a PULSE line that includes it, and no other. -/
theorem test_PulseLines_logFull :
    let line : LineConfig := ⟨0, true, true, false⟩
    let s := fun (c : WorkingCopy) => (fullLog (record 127 128 true false)).setStartup { running.startup with config := c }
    let pulses := fun (c : WorkingCopy) => ((s c).storeRecord (record 0 9 true false)).1.alarms.pulseEnds
    pulses { config with line2 := line } = [none, some 100100000, none, none] ∧
    pulses { config with line2 := { line with logFull := false } } = [none, none, none, none] := by decide +kernel

theorem test_CloseRequest :
    let s := running.raise { category := .peakExcess, startStamp := at_ 98000000 }
    let t := s.closeBreach .peakExcess (at_ 99000000) (some 7) true
    s.log.causes.map (fun c => (c.category, c.stored)) = [(.peakExcess, true)] ∧ t.log.causes = [] ∧
    t.log.records.map (fun r => (r.isOpen, r.figure, r.flags.impaired)) = [(false, some 7, true)] ∧
    s.closeBreach .inputOverrun (at_ 99000000) none false = s := by decide +kernel

/-- A cause whose record was not stored, and one with a hold. -/
theorem test_CloseRequest_rows :
    let full := (fullLog (record 127 128 true false)).raise { category := .peakExcess, startStamp := at_ 98000000 }
    let held := (running.setRecorder (recording (hold true none))).raise { category := .captionAbsent, startStamp := at_ 1 }
    full.log.causes.map (fun c => c.stored) = [false] ∧
    (full.closeBreach .peakExcess (at_ 99000000) none true).log.causes = [] ∧
    (full.closeBreach .peakExcess (at_ 99000000) none true).log.records = full.log.records ∧
    (full.closeBreach .peakExcess (at_ 99000000) none true).link.queue.map (fun q => match q.notice with
      | .breach b => (b.flags.impaired, b.endStamp.map (fun t => t.time))
      | _ => (false, none)) = [(false, none), (true, some 99000000)] ∧
    ((held.closeBreach .captionAbsent (at_ 99000000) none false).recorder.hold? 1).map (fun h => h.stop)
      = some (some 109000000) ∧ Category.inputOverrun.shared = false := by decide +kernel

/-! ### Media Port -/

/-- A unit header of a kind code and length. -/
def header (code : Byte) (length : Nat) : List Byte :=
  [0xB4, 0x4B, code, 1] ++ beBytes 2 length ++ beBytes 5 4800 ++ [0, 0, 0, 0, 0]

/-- The station framed. -/
def framed (s : State) : State := s.setPort { s.port with framing := .framed }

theorem test_FramingCheck :
    (header 4 16).length = 16 ∧ running.atHeader = true ∧ running.port.framing = .hunting ∧
    goes (.unitHeaderComplete (header 4 17)) (framed running) (fun t =>
      t.port.framingErrors = 1 ∧ t.port.framing = .framed) = true ∧
    goes (.unitHeaderComplete (header 9 16385)) (framed running) (fun t =>
      t.port.framingErrors = 1 ∧ t.port.framing = .hunting) = true ∧
    goes (.unitHeaderComplete ([0xB4, 0xB4] ++ header 2 16384)) running (fun t =>
      t.port.framing = .framed ∧ t.port.framingErrors = 0 ∧ t.port.queue.length = 1) = true ∧
    goes (.missingDelimiter 0 0xB4) (framed running) (fun t =>
      t.port.framing = .hunting ∧ t.port.huntByte = some 0xB4) = true := by decide +kernel

theorem test_Admission : UnitKind.ofCode? 2 = some .payload ∧ lengthPermitted .payload 16384 = true ∧
    idle (.unitHeaderComplete (header 2 16384)) (framed (stationIn .fault)) = true ∧
    goes (.unitHeaderComplete (header 2 1)) (framed (stationIn .loading)) (fun t => t.port.startDiscards = 1) = true ∧
    goes (.unitHeaderComplete (header 2 1)) (framed (queued (List.replicate 63 (unit .payload [1])))) (fun t =>
      t.port.queue.length = 64 ∧ t.port.inputDrops = 0) = true ∧
    goes (.unitHeaderComplete (header 2 1)) (framed (queued (List.replicate 64 (unit .payload [1])))) (fun t =>
      t.port.queue.length = 64 ∧ t.port.inputDrops = 1 ∧ t.port.overrun = some ⟨t.nowStamp, 1⟩) = true ∧
    goes (.unitHeaderComplete (header 2 16384))
      (framed (queued (List.replicate 15 { unit .payload [] with length := 16384 }))) (fun t =>
        t.port.held = 262144 ∧ t.port.inputDrops = 0) = true := by decide +kernel

/-- A unit found while hunting, behind bytes that hold no delimiter, leaves the port framed. -/
theorem test_Admission_hunting :
    let sought := fun (s : State) => s.setPort { s.port with framing := .hunting, huntByte := some 0xB4 }
    let arrives := Instr.unitHeaderComplete ([0xB4, 7] ++ header 2 1)
    let kept := fun (t : State) => (t.port.framing, t.port.queue.length, t.port.startDiscards, t.port.inputDrops)
    goes arrives (sought running) (fun t => kept t = (.framed, 1, 0, 0)) = true ∧
    goes arrives (sought (stationIn .checking)) (fun t => kept t = (.framed, 0, 1, 0)) = true ∧
    goes arrives (sought (queued (List.replicate 64 (unit .payload [1])))) (fun t => kept t = (.framed, 64, 0, 1)) = true ∧
    idle arrives (sought (stationIn .fault)) = true := by decide +kernel

theorem test_PayloadCheck :
    let waiting := fun (k : UnitKind) (n : Nat) => queued [{ unit k [] with payload := none, length := n }]
    goes (.payloadComplete [1, 0, 0, 1, 0, 0, 9]) (waiting .audio 7) (fun t => t.port.framingErrors = 0) = true ∧
    goes (.payloadComplete [3, 0, 0, 1, 0, 0, 9]) (waiting .audio 7) (fun t => t.port.framingErrors = 1) = true ∧
    goes (.payloadComplete [0, 0, 0, 0, 0x03, 0xE7]) (waiting .time 6) (fun t => t.port.framingErrors = 0) = true ∧
    goes (.payloadComplete [0, 0, 0, 0, 0x03, 0xE8]) (waiting .time 6) (fun t => t.port.queue = []) = true ∧
    goes (.payloadComplete [100, 1]) (waiting .quality 2) (fun t => t.port.framingErrors = 0) = true ∧
    goes (.payloadComplete [101, 1]) (waiting .quality 2) (fun t => t.port.framingErrors = 1) = true ∧
    goes (.payloadComplete [0, 0, 0, 0, 0, 0, 0, 0, 4, 2, 0, 0, 0, 0, 0, 0]) (waiting .cue 16) (fun t =>
      t.port.framingErrors = 0) = true ∧
    goes (.payloadComplete [0, 0, 0, 0, 0, 0, 0, 0, 5, 2, 0, 0, 0, 0, 0, 0]) (waiting .cue 16) (fun t =>
      t.port.framingErrors = 1) = true ∧
    goes (.payloadComplete [0, 0, 0, 0, 0, 0, 0, 0, 0, 0, 0, 1]) (waiting .caption 12) (fun t =>
      t.port.framingErrors = 1) = true := by decide +kernel

theorem test_MediaDeadlines :
    let run := fun (last : Nat) => running.setPort { running.port with overrun := some ⟨at_ last, 3⟩ }
    let absent := fun (r : Nat) => running.setPort { running.port with audioRef := some (at_ r) }
    goes .overrunExpiry (run 99000000) (fun t => t.port.overrun = none) = true ∧
    idle .overrunExpiry (run 99000001) = true ∧
    goes .audioAbsentDeadline (absent 99500000) (fun t => t.port.audioAbsentOpen = true ∧
      t.log.records.map (fun r => r.startStamp.time) = [99500000]) = true ∧
    idle .audioAbsentDeadline (absent 99500001) = true := by decide +kernel

theorem test_Delivery :
    idle .unitDelivery (queued [{ unit .cue [] with payload := none }]) = true ∧
    goes .unitDelivery (queued [{ unit .cue [] with damaged := true }]) (fun t => t.port.damaged = 1) = true ∧
    goes .unitDelivery (queued [{ unit .quality [80, 1] with damaged := true }]) (fun t =>
      t.port.queue = [] ∧ t.reception.reported = 0) = true ∧
    goes .unitDelivery (queued [unit .quality [80, 1]]) (fun t => t.reception.reported = 80) = true ∧
    goes .unitDelivery (queued [unit .time [0, 0, 0, 1, 0, 0]]) (fun t => t.time.history.length = 1) = true ∧
    goes .unitDelivery (queued [unit .payload [1, 2]]) (fun t =>
      t.recorder.writing.map (fun u => u.kind) = some .payload ∧ t.port.queue.length = 1) = true ∧
    goes .unitDelivery (queued [unit .caption (List.replicate 12 0)]) (fun t =>
      t.captions.timeline.length = 1 ∧ t.recorder.writing.isSome) = true := by decide +kernel

/-- An accepted QUALITY unit is evaluated; a CUE payload is read field by field. -/
theorem test_Delivery_fields :
    goes .unitDelivery (queued [unit .quality [49, 1]]) (fun t => t.reception.state = .impaired ∧ !t.reception.grace ∧
      t.reception.silenceDeadline = some 101000000) = true ∧
    goes .unitDelivery (queued [unit .quality [49, 0]]) (fun t => t.reception.reported = 0) = true ∧
    readCue [0, 0, 1, 2, 0, 0, 3, 4, 2, 1, 1, 1, 2, 3, 4, 5] (at_ 6) =
      ⟨0x0102, 0x0304, .advert, .national, true, 0x0102030405, at_ 6⟩ := by decide +kernel

/-- An AUDIO unit of one channel and one sample at a media time. -/
def audio (t : MediaTime) : QueuedUnit := { unit .audio [1, 0, 0, 1, 0, 0, 9] with mediaTime := t }

theorem test_AudioContinuity :
    let expecting := fun (e : MediaTime) (c : Nat) =>
      (queued [audio 4801]).setPort { running.port with queue := [audio 4801], expected := some e, channels := some c }
    let marks := fun (t : State) => t.recorder.marks.length
    goes .unitDelivery (queued [audio 4800]) (fun t => t.port.expected = some 4801 ∧ t.segments.begun = true) = true ∧
    goes .unitDelivery (expecting 4801 1) (fun t => t.port.damaged = 0 ∧ marks t = 0) = true ∧
    goes .unitDelivery (expecting 4800 1) (fun t => t.port.damaged = 1 ∧ t.port.expected = some 4802) = true ∧
    goes .unitDelivery (expecting 4321 1) (fun t => t.port.damaged = 1 ∧ marks t = 0) = true ∧
    goes .unitDelivery (expecting 4320 1) (fun t => t.port.damaged = 0 ∧ marks t = 1) = true ∧
    goes .unitDelivery (expecting 4802 1) (fun t => t.port.damaged = 1 ∧ t.port.expected = some 4802) = true ∧
    goes .unitDelivery (expecting 4801 2) (fun t => marks t = 1 ∧ t.port.channels = some 1) = true := by decide +kernel

theorem test_AudioContinuity_positions :
    let aligning := running.setPort { running.port with aligning := some 4800 }
    let absent := running.setPort { running.port with audioAbsentOpen := true }
    let r : ReceptionMonitor := { ReceptionMonitor.resetAt 1000 with tally := ⟨5, 1⟩ :: List.replicate 9 ⟨1, 0⟩ }
    let counts := fun (r : ReceptionMonitor) => r.tally.map (fun b => (b.accepted, b.damaged))
    aligning.handOn 4799 [1] (at_ 1) = aligning ∧ (aligning.handOn 4800 [1] (at_ 1)).port.aligning = none ∧
    (aligning.handOn 4800 [1] (at_ 1)).loudness.inProgress.isSome = true ∧
    (running.handOn 4799 [1] (at_ 1)).loudness.inProgress = none ∧
    gridPointFrom 4800 = 4800 ∧ gridPointFrom 4801 = 9600 ∧ gridPointFrom 0xFFFFFFFFFF = 0 ∧
    (absent.refreshAudio (at_ 9)).port.audioAbsentOpen = false ∧ (running.refreshAudio (at_ 9)).port.audioRef = some (at_ 9) ∧
    r.tally.length = 10 ∧ (counts (r.countAudio 100099999 true)).head? = some (6, 2) ∧
    (counts (r.countAudio 99999999 false)).take 2 = [(5, 1), (2, 0)] ∧
    (counts (r.countAudio 100200000 true)).take 4 = [(1, 1), (0, 0), (5, 1), (1, 0)] := by decide +kernel

theorem test_AudioContinuity_samples :
    let p : List Byte := [2, 0, 0, 1, 0xFF, 0xFF, 0xFE, 0, 1, 0]
    natAt p 2 2 = 1 ∧ (byteAt p 0).toNat = 2 ∧ readAudio p = [[-2, 256]] := by decide +kernel

/-! ### Reception, segments -/

/-- The station with a reported quality, past the grace. -/
def quality (reported : Nat) (x : Reception) : State :=
  running.setReception { running.reception with
    reported := reported, grace := false, state := x, silenceDeadline := some 100000000, tallyInterval := 999
    lowest := some 60 }

theorem test_Evaluation : (quality 50 .normal).evaluate.reception.state = .normal ∧
    (quality 49 .normal).evaluate.reception.state = .impaired ∧
    (quality 60 .impaired).evaluate.reception.recoveryStart = some 100000000 ∧
    (quality 59 .impaired).evaluate.reception.recoveryStart = none ∧
    running.evaluate.reception.state = .normal := by decide +kernel

theorem test_ReceptionDeadlines :
    let s := quality 60 .impaired
    let recovering := fun (start : Nat) => s.setReception { s.reception with recoveryStart := some start }
    goes .qualitySilenceExpiry s (fun t => t.reception.reported = 0 ∧ t.reception.silenceDeadline = none) = true ∧
    idle .qualitySilenceExpiry (s.setReception { s.reception with silenceDeadline := some 100000001 }) = true ∧
    s.reception.tally.length = 10 ∧ s.reception.tallyInterval + 1 = s.now / 100000 ∧
    goes .tallyBucketBoundary s (fun t => t.reception.tallyInterval = 1000) = true ∧
    idle .tallyBucketBoundary (s.setReception { s.reception with tallyInterval := 1000 }) = true ∧
    goes .recoveryExpiry (recovering 95000000) (fun t => t.reception.state = .normal) = true ∧
    idle .recoveryExpiry (recovering 95000001) = true := by decide +kernel

/-- A pending cue. -/
def cue (id : Word32) (start : MediaTime) : PendingCue := ⟨id, 0, .advert, .national, true, start, at_ 1⟩

/-- The tracker with pending cues, its current segment number 50. -/
def tracker (l : List PendingCue) : SegmentTracker :=
  { SegmentTracker.reset with pending := l, begun := true, current := { SegmentRecord.unannounced with segmentId := 50 } }

theorem test_CuePlacement :
    let four := [cue 1 10, cue 2 20, cue 3 30, cue 4 40]
    (tracker four).takeCue (cue 2 40) = tracker [cue 1 10, cue 3 30, cue 4 40, cue 2 40] ∧
    (tracker []).takeCue (cue 50 5) = tracker [] ∧
    (tracker [cue 1 10]).takeCue (cue 2 10) = tracker [cue 1 10, cue 2 10] ∧
    (tracker four).takeCue (cue 5 41) = { tracker four with cueDrops := 1 } ∧
    (tracker four).takeCue (cue 5 40) = { tracker [cue 1 10, cue 2 20, cue 3 30, cue 5 40] with cueDrops := 1 } := by
  decide +kernel

/-- Starts X, X − 2^39 − 10 and X − 2^39 + 5, whose pairwise comparisons run in a circle (log 39). -/
theorem test_CuePlacement_circle :
    let x : MediaTime := 0xC000000000
    let c := cue 1 x
    let d1 := cue 2 (x - 0x8000000000 - 10)
    let d2 := cue 3 (x - 0x8000000000 + 5)
    let l := (((tracker []).takeCue c).takeCue d1).takeCue d2
    (c.start - d1.start).toInt < 0 ∧ (d1.start - d2.start).toInt < 0 ∧ (d2.start - c.start).toInt < 0 ∧
    l.pending = [d1, d2, c] ∧
    l.takeCue { c with start := d2.start + 1000 } = tracker [d1, d2, { c with start := d2.start + 1000 }] := by
  decide +kernel

theorem test_GridPointEvent :
    let s := running.setSegments (tracker [cue 1 4800, cue 2 9600, cue 3 9601])
    (s.gridPointEvent 4799 (at_ 9)).segments.current.segmentId = 50 ∧
    (s.gridPointEvent 9600 (at_ 9)).segments.current.segmentId = 2 ∧
    (s.gridPointEvent 9600 (at_ 9)).segments.pending = [cue 3 9601] ∧
    (s.gridPointEvent 9600 (at_ 9)).segments.cueDrops = 1 := by decide +kernel

/-- At the grid point the later of two due cues is applied, wherever a cue more than half the range away stands. -/
theorem test_GridPointEvent_circle :
    let g : MediaTime := 0xC000000000
    let t := (((tracker []).takeCue (cue 1 (g + 0x7FFFFFFFF6))).takeCue (cue 2 (g - 20))).takeCue (cue 3 (g - 5))
    let s := (running.setSegments t).gridPointEvent g (at_ 9)
    s.segments.current.segmentId = 3 ∧ s.segments.cueDrops = 1 ∧ s.segments.pending = [cue 1 (g + 0x7FFFFFFFF6)] := by
  decide +kernel

/-- A context with loudness, of an opening. -/
def context (opening : Nat) : Context := ⟨opening, [⟨470, 10, 1000000⟩], 10, some (-2200), some (-2210), [5], at_ 1, none, false⟩

/-- A segment change from an open advert segment to a segment, with a programme open or not. -/
def changed (programme : Option Programme) (r : SegmentRecord) : State :=
  ((running.setSegments { tracker [] with
      programme := programme, current := { SegmentRecord.unannounced with cls := .advert, startStamp := some (at_ 1) }
      nextOpening := 7 }).setLoudness
    { running.loudness with segmentCtx := some (context 0), programmeCtx := some (context 0) }).changeSegment r (at_ 9)

theorem test_GridPointEvent_programmes :
    let p : Programme := ⟨6, at_ 1, some (at_ 2), .national, false, 3⟩
    let r := fun (cls : SegClass) (id : Word32) => { SegmentRecord.unannounced with cls := cls, programmeId := id, segmentId := 8 }
    let kinds := fun (s : State) => s.verdicts.history.map (fun v => (v.kind, v.id))
    (changed none (r .junction 0)).segments.current.opening = ⟨7, none⟩ ∧
    (changed none (r .programme 6)).segments.current.opening = ⟨8, some 7⟩ ∧
    (changed (some p) (r .programme 6)).segments.current.opening = ⟨7, some 3⟩ ∧
    (changed (some p) (r .programme 6)).segments.programme = some { p with scope := .regional } ∧
    (changed (some p) (r .programme 9)).segments.current.opening = ⟨8, some 7⟩ ∧
    kinds (changed (some p) (r .programme 6)) = [(.segment, 0)] ∧
    kinds (changed (some p) (r .programme 9)) = [(.segment, 0), (.programme, 6)] ∧
    (running.changeSegment (r .programme 0) (at_ 9)).segments.current.opening = ⟨1, some 0⟩ := by decide +kernel

/-! ### Time Base -/

/-- The peer table as stations and states. -/
def stations (s : State) : List (Byte × Bool) := s.peers.table.map (fun e => (e.station, e.heard))

theorem test_OscillatorTick :
    let ticking := fun (shelf : Nat) (adjust : Bool) (remaining : Int) =>
      running.setTime { running.time with shelf := shelf, adjustNext := adjust, remaining := remaining }
    goes .oscillatorTick (ticking 9999 false 5) (fun t => t.now = 10000 ∧ t.time.adjustNext = true) = true ∧
    goes .oscillatorTick (ticking 10000 true 5) (fun t => t.now = 10002 ∧ t.time.remaining = 4) = true ∧
    goes .oscillatorTick (ticking 10000 true (-5)) (fun t => t.now = 10000 ∧ t.time.remaining = -4 ∧
      t.time.adjustNext = false) = true ∧
    goes .oscillatorTick (ticking 10000 true 0) (fun t => t.now = 10001) = true := by decide +kernel

/-- The station with its Time Base in a source state, a peer of class LOCKED heard where asked. -/
def sourced (c : TimeClass) (deadline : Nat) (table : List PeerEntry) : State :=
  (running.setTime { running.time with
    source := c, silenceDeadline := some deadline, holdoverDeadline := some deadline }).setPeers
    { PeerMonitor.reset with table := table }

theorem test_TimeDeadlines :
    goes .historyEntryExpiry (running.setTime { running.time with history := [⟨1, at_ 70000000⟩, ⟨1, at_ 70000001⟩] }) (fun t =>
      t.time.history.length = 1) = true ∧
    goes .referenceSilenceExpiry (sourced .locked 100000000 []) (fun t => t.time.source = .holdover ∧
      t.time.holdoverDeadline = some 700000000 ∧ t.log.records.length = 1) = true ∧
    idle .referenceSilenceExpiry (sourced .locked 100000001 []) = true ∧
    goes .holdoverExpiry (sourced .holdover 100000000 []) (fun t => t.time.source = .free) = true ∧
    goes .holdoverExpiry (sourced .holdover 100000000 [peer 3 .unknown 0 [], peer 9 .unknown 0 []]) (fun t =>
      t.time.source = .peer ∧ t.time.followed = some 3) = true := by decide +kernel

/-- A peer in a time class. -/
def clocked (station : Byte) (c : TimeClass) : PeerEntry :=
  { peer station .unknown 0 [] with status := some ⟨7, 2, c, .normal, .alert, .programme, .regional, 1⟩ }

/-- The station following peer 9, or in another source state, with peers in its table. -/
def following (c : TimeClass) (table : List PeerEntry) : State :=
  (running.setTime { running.time with source := c, followed := if c = .peer then some 9 else none }).setPeers
    { PeerMonitor.reset with table := table }

theorem test_TimeDeadlines_peers :
    let followed := fun (s : State) => (s.time.source, s.time.followed)
    let held := [clocked 9 .holdover, clocked 3 .free]
    followed (following .free (clocked 4 .locked :: held)).considerPeers = (.peer, some 4) ∧
    (following .free [clocked 3 .free]).considerPeers = following .free [clocked 3 .free] ∧
    followed (following .peer (clocked 4 .locked :: held)).considerPeers = (.peer, some 4) ∧
    (following .peer (clocked 4 .holdover :: held)).considerPeers = following .peer (clocked 4 .holdover :: held) ∧
    (following .locked held).considerPeers = following .locked held ∧
    (following .peer held).loseFollowed 3 = following .peer held ∧
    followed ((following .peer [clocked 4 .locked]).loseFollowed 9) = (.peer, some 4) ∧
    followed ((following .peer [clocked 3 .free]).loseFollowed 9) = (.free, none) ∧
    ((following .peer [clocked 3 .free]).loseFollowed 9).log.records.map (fun r => r.category) = [.timeDegraded] := by
  decide +kernel

theorem test_TimeDeadlines_checking :
    let s := fun (c : TimeClass) => (stationIn .checking).setTime { running.time with
      source := c, silenceDeadline := some 100000000, holdoverDeadline := some 100000000 }
    goes .referenceSilenceExpiry (s .locked) (fun t => t.time.source = .holdover ∧ t.log.records = []) = true ∧
    goes .holdoverExpiry (s .holdover) (fun t => t.time.source = .free ∧ t.log.records = []) = true := by decide +kernel

/-- The station with two history entries 20,000 µs apart. -/
def agreeing : State :=
  running.setTime { running.time with history := [⟨-99000000, at_ 80000000⟩, ⟨-98980000, at_ 90000000⟩] }

theorem test_Correction :
    (running.correct 5000).time.shelf = 100005000 ∧ (running.correct 4999).time.shelf = 100000000 ∧
    (running.correct 4999).time.remaining = 4999 ∧ (running.correct 5000).recorder.marks.map (fun m => m.stepMs) = [5] ∧
    (agreeing.takeTime (unit .time [0, 0, 0, 0, 0, 0]) [0, 0, 0, 0, 0, 10]).time.source = .locked ∧
    (running.takeTime (unit .time [0, 0, 0, 0, 0, 0]) [0, 0, 0, 0, 0, 0]).time.source = .free ∧
    ((running.setTime { running.time with source := .peer, followed := some 3 }).takePeerTime 3 .holdover 99000007
      99000000).time.remaining = 7 := by decide +kernel

/-- A forward step of 1 s expires at once what it passes of the Media Port and the Reception Monitor. -/
theorem test_Correction_reception :
    let s := (quality 60 .impaired).setPort { running.port with
      overrun := some ⟨at_ 99500000, 3⟩, audioRef := some (at_ 99500000) }
    let due := s.setReception { s.reception with silenceDeadline := some 100500000, recoveryStart := some 95500000 }
    let kept := s.setReception { s.reception with silenceDeadline := some 101500000, recoveryStart := some 95500000 }
    let t := due.correct 1000000
    (t.port.overrun, t.port.audioAbsentOpen, t.reception.reported, t.reception.state) = (none, true, 0, .impaired) ∧
    (due.correct 4999).port = due.port ∧ t.reception.tallyInterval = 1010 ∧
    t.log.records.map (fun r => (r.category, r.startStamp.time)) = [(.timeStep, 100000000), (.audioAbsent, 99500000)] ∧
    (kept.correct 1000000).reception.state = .normal := by decide +kernel

/-- Pending verdicts go in list order, a peer goes STALE or is removed, a hold closes, listening ends. -/
theorem test_Correction_blocks :
    let waiting := fun (id : Word32) (deadline : Nat) => (⟨{ verdict 0 .national true none with id := id }, deadline⟩ : PendingVerdict)
    let s := (running.setPeers { PeerMonitor.reset with
      table := [{ peer 3 .unknown 0 [] with lastHeard := at_ 97000000 }, peer 9 .unknown 0 []]
      pendingVerdicts := [waiting 7 100000001, waiting 8 103000000, waiting 9 103000001] }).setRecorder
        (recording { hold true (some 101000000) with maxLength := 90000000 })
    let t := s.correct 3000000
    t.verdicts.history.map (fun v => (v.id, v.source)) = [(7, .unmeasured), (8, .unmeasured)] ∧
    t.peers.pendingVerdicts.map (fun e => e.verdict.id) = [9] ∧ stations t = [(9, false)] ∧
    (t.recorder.hold? 0).map (fun h => (h.isOpen, h.flags.truncated)) = some (false, false) ∧
    ((s.setRecorder (recording (hold true none))).correct 3000000).recorder.slots.map (fun x => x.hold.map (fun h =>
      (h.isOpen, h.flags.truncated))) = some (false, true) :: List.replicate 31 none ∧
    ((listened false).setStartup { (listened false).startup with listeningSince := some 98500000 }).startup.station
      = .listening ∧
    (((listened false).setStartup { (listened false).startup with listeningSince := some 98500000 }).correct
      600000).startup.station = .running := by decide +kernel

/-- The MARK unit's stamp before the step is the record's; a TIME unit's own step passes the deadline that it sets while
LOCKED, and not the one it sets on locking. -/
theorem test_Correction_deadlines :
    let locked := running.setTime { running.time with source := .locked, silenceDeadline := some 101000000 }
    let reference : List Byte := [0, 0, 0, 200, 0, 0]
    let far := running.setTime { running.time with history := [⟨101000000, at_ 98000000⟩, ⟨101000000, at_ 98500000⟩] }
    (locked.correct 5000).recorder.marks.map (fun m => m.before) = [some (at_ 100000000)] ∧
    (locked.takeTime (unit .time reference) reference).time.source = .holdover ∧
    (locked.takeTime (unit .time reference) reference).time.silenceDeadline = none ∧
    (locked.takeTime (unit .time reference) reference).time.shelf = 201000000 ∧
    (far.takeTime (unit .time reference) reference).time.source = .locked ∧
    (far.takeTime (unit .time reference) reference).time.silenceDeadline = some 129000000 := by decide +kernel

/-- The station LOCKED with a check window 60 s of ticks old, suspect or not. -/
def checking (suspect : Bool) : State :=
  running.setTime { running.time with
    source := .locked, suspect := suspect, largestDeviation := 201, window := some ⟨0, 40000000, at_ 40000000, 39000000⟩ }

/-- The window's end at local count 99,000,000 with a prediction: 60,000,000 ticks later. -/
def deviated (suspect : Bool) (prediction : Nat) : State := (checking suspect).checkOscillator (unit .time []) prediction

theorem test_Correction_oscillator :
    let suspects := fun (s : State) => (s.time.suspect, s.time.largestDeviation, s.log.records.map (fun r => r.category))
    running.checkOscillator (unit .time []) 5 = running ∧
    (checking false).checkOscillator { unit .time [] with noted := 98999999 } 5 = checking false ∧
    suspects (deviated false 40000000) = (false, 201, []) ∧ suspects (deviated false 100000000) = (false, 201, []) ∧
    suspects (deviated false 99987001) = (true, 216, [.clockSuspect]) ∧
    suspects (running.judgeDeviation 200 (at_ 1)) = (false, 0, []) ∧
    suspects (running.judgeDeviation 201 (at_ 1)) = (true, 201, [.clockSuspect]) ∧
    ((checking true).judgeDeviation 151 (at_ 1)).time = (checking true).time ∧
    ((checking true).judgeDeviation 150 (at_ 1)).time.suspect = false := by decide +kernel

theorem test_Correction_peer :
    let s := following .peer [clocked 9 .holdover, clocked 4 .locked]
    (s.takePeerTime 4 .locked 5 99000000).time.followed = some 4 ∧
    (s.takePeerTime 9 .free 5 99000000).time.followed = some 4 ∧
    (s.takePeerTime 9 .holdover 99000007 99000000).time.remaining = 7 ∧
    (s.takePeerTime 9 .holdover 99005000 99000000).time.shelf = 100005000 := by decide +kernel

/-! ### Verdicts, peaks and captions -/

/-- Full scale is 0.0 dB and the greatest midpoint estimate 1.9 dB; 0 is −99.9 (R66). -/
theorem test_PeakFigure : peakFigure (2 ^ 27) = 0 ∧ peakFigure 0 = -999 ∧ peakFigure 1 = -999 ∧
    peakFigure (20 * 2 ^ 23) = 19 := by decide +kernel

theorem test_PeakFigure_credits :
    creditedMagnitude [] (-3) = 48 ∧ creditedMagnitude [1, 2, 3] 4 = max 64 40 ∧ rememberSample [1, 2, 3] 4 = [2, 3, 4] ∧
    greatestOf [3, 9, 2] = 9 ∧ (context 1).figures = ⟨integratedLoudness [⟨470, 10, 1000000⟩], some (-2200), some (-2210),
      peakFigure 5, 10⟩ ∧
    ((context 1).creditPeaks [7, 2]).peaks = [7, 2] := by decide +kernel

theorem test_PeakFigure_histogram :
    let h : List Bin := [⟨470, 10, 1000⟩]
    h.Pairwise (fun x y => x.bin < y.bin) ∧ enterBlock 5 (-7001) h = h ∧
    enterBlock 5 (-2300) h = [⟨470, 11, 1005⟩] ∧ enterBlock 5 (-7000) h = [⟨0, 1, 5⟩, ⟨470, 10, 1000⟩] ∧
    enterBlock 5 (-2300) [⟨470, 4294967295, 1000⟩] = [⟨470, 4294967295, 1000⟩] ∧
    integratedLoudness [] = none ∧ (integratedLoudness h).isSome = true := by decide +kernel

/-- The station in an advert segment of opening 0, its ring of ten sub-blocks of an energy, with an excess run. -/
def excess (energy : Nat) (e : ExcessRun) : State :=
  (running.setSegments { tracker [] with current := { SegmentRecord.unannounced with cls := .advert } }).setLoudness
    { running.loudness with
      ring := List.replicate 10 ⟨0, energy, 0, ⟨0, none⟩, false, at_ 1⟩, segmentCtx := some (context 0), excess := e }

/-- A sub-block of opening 0. -/
def block (impaired : Bool) : SubBlock := ⟨4800, 0, 0, ⟨0, none⟩, impaired, at_ 5⟩

theorem test_PeakFigure_excess :
    let loud := 2 ^ 46
    let run := fun (n : Nat) (isOpen : Bool) => (⟨n, some (at_ 3), some (-1000), isOpen⟩ : ExcessRun)
    (excess loud (run 0 false)).stepExcess (block true) = excess loud (run 0 false) ∧
    ((excess loud (run 0 false)).stepExcess (block false)).loudness.excess = ⟨1, some (at_ 5), some (-671), false⟩ ∧
    ((excess loud (run 28 false)).stepExcess (block false)).loudness.excess = ⟨29, some (at_ 3), some (-671), false⟩ ∧
    ((excess loud (run 29 false)).stepExcess (block false)).log.records.map (fun r => (r.category, r.startStamp))
      = [(.shortTermExcess, at_ 3)] ∧
    ((excess loud (run 30 true)).stepExcess (block false)).loudness.excess = ⟨30, some (at_ 3), some (-671), true⟩ ∧
    ((excess 5 (run 9 false)).stepExcess (block false)).loudness.excess = ⟨0, none, none, false⟩ ∧
    (((excess loud (run 29 false)).stepExcess (block false)).setLoudness (excess 5 (run 30 true)).loudness |>.stepExcess
      (block false)).log.records.map (fun r => (r.isOpen, r.figure)) = [(false, some (-1000))] := by decide +kernel

theorem test_PeakFigure_peaks :
    let s := excess 5 ⟨0, none, none, false⟩
    let judged := fun (impaired : Bool) (m : Nat) => (s.judgePeak (block impaired) [m]).log.records.map (fun r => r.category)
    judged false (2 ^ 27) = [.peakExcess] ∧ judged true (2 ^ 27) = [] ∧ judged false 1 = [] ∧
    (((s.judgePeak (block false) [2 ^ 27]).closeSegmentContext s.segments.current (at_ 9)).1.log.records.map (fun r =>
      (r.isOpen, r.figure))) = [(false, some (peakFigure 5))] ∧
    (s.closeSegmentContext s.segments.current (at_ 9)).2 = some { context 0 with endStamp := some (at_ 9) } ∧
    (running.closeSegmentContext s.segments.current (at_ 9)).2 = none := by decide +kernel

/-! ### The Loudness Unit -/

/-- A sub-block in progress with square sums. -/
def sub (start : MediaTime) (sums : List Nat) : SubBlockInProgress := ⟨start, ⟨0, some 1⟩, sums, [6], at_ 99900000⟩

theorem test_SubBlockMeasures :
    let l := { LoudnessUnit.reset with inProgress := some (sub 0 []) }
    let unit := 4800 * 2 ^ 16
    LoudnessUnit.reset.takePosition [1] (at_ 1) = LoudnessUnit.reset ∧
    (({ l with inProgress := some { sub 0 [] with peaks := [] } }).takePosition [1, 2, 3, 9, -4, 5] (at_ 1)).inProgress.map
      (fun (b : SubBlockInProgress) => (b.sums.length, b.peaks, b.lastStamp)) = some (5, [16, 32, 48, 64, 80], at_ 1) ∧
    ((⟨⟨0, 0, 0, 0⟩, ⟨0, 0, 0, 0⟩⟩ : ChannelFilter).next 2).shelf.in1 = 1024 ∧
    ((sub 0 [7 * unit]).record false).energy = 7 ∧ ((sub 0 [7 * unit, unit]).record false).energy = 8 ∧
    ((sub 0 [7 * unit, 1, 2 * unit, unit, unit]).record true).energy = 11 ∧
    ((sub 0xFFFFFFF780 [2176 * 2 ^ 16]).record false).energy = 1 ∧ l.discontinue.inProgress = none ∧
    running.endSubBlock true 4800 = running ∧
    ((running.setLoudness l).endSubBlock true 4800).segments.current.impaired = true := by decide +kernel

/-- The station behind some completed sub-blocks, its own history ending with a second or empty. -/
def measured (chain ring : Nat) (history : List Signature) : State :=
  let b := (sub 0 [2 ^ 80]).record false
  running.setLoudness { running.loudness with
    chain := List.replicate chain b, ring := List.replicate ring b, ownHistory := history, segmentCtx := some (context 0)
    programmeCtx := some (context 1) }

theorem test_SubBlockMeasures_completion :
    let done := fun (chain ring : Nat) (history : List Signature) (g : MediaTime) =>
      (measured chain ring history).completeSubBlock (sub (g - 4800) [2 ^ 80]) false g
    ((done 2 8 [] 4800).loudness.momentary, (done 2 8 [] 4800).loudness.shortTerm) = (none, none) ∧
    ((done 3 9 [] 4800).loudness.momentary.isSome, (done 3 9 [] 4800).loudness.shortTerm.isSome) = (true, true) ∧
    (done 3 9 [] 4800).loudness.signature.map (fun a => a.second) = some 0 ∧
    (done 4 30 [] 48000).loudness.ownHistory.map (fun g => (g.second, g.impaired)) = [(99, false)] ∧
    (done 4 30 [⟨98, 0, 0, false⟩] 48000).loudness.ownHistory.length = 2 ∧
    (done 4 30 [⟨99, 0, 0, false⟩] 48000).loudness.ownHistory.length = 1 ∧
    (done 4 30 [] 48000).link.unsent.length = 1 ∧
    (done 3 9 [] 4800).loudness.segmentCtx.map (fun c => (c.offered, c.peaks)) = some (11, [6]) ∧
    (done 3 9 [] 4800).loudness.programmeCtx.map (fun c => (c.offered, c.peaks)) = some (11, [6]) := by decide +kernel

theorem test_LoudnessOfEnergy : (0 : Nat) < 2 ^ 48 ∧ loudnessOfQuotient 0 1 = -20000 ∧ loudnessOfQuotient 1 1 = -69 ∧
    loudnessOf (2 ^ 48) = -69 ∧ loudnessOfQuotient 100 1 = 999 := by decide +kernel

/-- A cache entry of a peer with a loudness. -/
def cached (sender : Byte) (integrated : Int) : CacheEntry :=
  ⟨sender, ⟨.segment, 8301, .advert, .national, at_ 1, at_ 2, ⟨some integrated, none, none, -23, 147⟩, none, false⟩, at_ 3⟩

/-- The station with two COMMON peers and their verdicts cached. -/
def proxied (cache : List CacheEntry) : State :=
  running.setPeers { PeerMonitor.reset with
    table := [peer 4 (.common (-1)) 0 [], peer 11 .apart 3 []], cache := cache }

theorem test_VerdictRouting :
    ((running.deal (verdict 0 .national false (some (-2200)))).log.records = []) ∧
    ((running.deal (verdict 0 .national false (some (-2199)))).log.records.map (fun r => r.category)) = [.loudnessHigh] ∧
    ((running.deal (verdict 0 .national false (some (-2400)))).log.records = []) ∧
    ((running.deal (verdict 0 .national false (some (-2401)))).log.records.map (fun r => r.category)) = [.loudnessLow] ∧
    ((running.deal (verdict 0 .regional true none)).log.records.map (fun r => r.category)) = [.measurementLost] ∧
    ((proxied [cached 11 (-2240)]).deal (verdict 0 .national true none)).peers.pendingVerdicts.map (fun e => e.deadline)
      = [129000000] ∧
    ((proxied [cached 11 (-2240), cached 4 (-1985)]).deal (verdict 0 .national true none)).verdicts.history.map
      (fun v => (v.source, v.figures.integrated)) = [(.proxy 4, some (-1985))] ∧
    ((proxied [cached 4 (-1985)]).deal (verdict 0 .national true none)).log.records.map
      (fun r => (r.category, r.flags.proxy)) = [(.loudnessHigh, true)] := by decide +kernel

/-- Pending verdicts that no cached verdict answers, and a verdict notice of a peer. -/
theorem test_VerdictRouting_pending :
    let waiting := fun (n : Nat) => (proxied []).setPeers { (proxied []).peers with
      pendingVerdicts := (List.range n).map (fun i => ⟨{ verdict 0 .national true none with id := BitVec.ofNat 32 i }, 1⟩) }
    let v := verdict 0 .national true none
    let ids := fun (s : State) => s.peers.pendingVerdicts.map (fun e => e.verdict.id)
    let rx : FrameRx := ⟨at_ 99000000, 99000000, false⟩
    let notice := fun (id : Word32) => { (cached 4 (-2300)).verdict with id := id }
    ids ((waiting 3).deal v) = [0, 1, 2, 8301] ∧ ids ((waiting 4).deal v) = [1, 2, 3, 8301] ∧
    ((waiting 4).deal v).verdicts.history.map (fun v => (v.id, v.source)) = [(0, .unmeasured)] ∧
    (waiting 3).takeVerdict 8 rx (notice 1) = waiting 3 ∧
    ids ((waiting 3).takeVerdict 4 rx (notice 1)) = [0, 2] ∧ ids ((waiting 3).takeVerdict 11 rx (notice 1)) = [0, 1, 2] ∧
    ((waiting 3).takeVerdict 4 rx (notice 1)).peers.cache.length = 1 ∧
    (((proxied (List.replicate 8 (cached 11 0))).takeVerdict 4 rx (notice 1)).peers.cache.length = 8) ∧
    ((waiting 3).checkEntry { cached 4 (-2300) with verdict := notice 2 }).verdicts.history.map (fun v => v.source)
      = [.proxy 4] ∧
    (((running.deal (verdict 0 .national false none)).link.queue.map (fun q => q.notice))
      = [(verdict 0 .national false none).notice]) := by decide +kernel

/-- An impaired NATIONAL verdict whose deadline lies behind shelf time is resolved at once; a peer's cached verdicts are
checked oldest first. -/
theorem test_VerdictRouting_overdue :
    let late := (proxied []).setTime { running.time with shelf := 129000001 }
    let v := verdict 0 .national true none
    let pending := fun (id : Word32) => (⟨{ v with id := id }, 129000000⟩ : PendingVerdict)
    let answered := fun (id : Word32) => { cached 4 (-2300) with verdict := { (cached 4 (-2300)).verdict with id := id } }
    let full := late.setPeers { late.peers with pendingVerdicts := [1, 2, 3, 4].map pending }
    let ids := fun (s : State) => s.verdicts.history.map (fun v => v.id)
    ((late.deal v).peers.pendingVerdicts, ids (late.deal v)) = ([], [8301]) ∧
    ids (full.deal v) = [1, 8301] ∧ (full.deal v).peers.pendingVerdicts = [2, 3, 4].map pending ∧
    ids (((proxied [answered 2, answered 1]).setPeers { (proxied [answered 2, answered 1]).peers with
      pendingVerdicts := [pending 1, pending 2] }).checkPeerCache 4) = [2, 1] := by decide +kernel

/-- A caption payload: presentation, duration in ms, two characters of text or none. -/
def caption (t : Nat) (duration : Nat) (text : List Byte) : List Byte :=
  beBytes 5 t ++ beBytes 2 duration ++ [0x65, 0x6E, 0x67] ++ beBytes 2 text.length ++ text

/-- The timeline of captions taken in order. -/
def timelineOf (l : List (List Byte)) : CaptionChecker := l.foldl (fun c p => c.takeCaption p) CaptionChecker.reset

theorem test_CaptionTimeline :
    (timelineOf [caption 100 0 [1], caption 100 0 [2]]).timeline.length = 2 ∧
    (timelineOf [caption 100 0 [1], caption 99 0 [2]]).lateCount = 1 ∧
    (timelineOf (List.replicate 17 (caption 100 0 [1]))).timeline.length = 16 ∧
    (shownIdentity (timelineOf [caption 100 1 [1]]).timeline 99).isSome = false ∧
    (shownIdentity (timelineOf [caption 100 1 [1]]).timeline 100).isSome = true ∧
    (shownIdentity (timelineOf [caption 100 1 [1]]).timeline 147).isSome = true ∧
    (shownIdentity (timelineOf [caption 100 1 [1]]).timeline 148).isSome = false ∧
    (shownIdentity (timelineOf [caption 100 0 []]).timeline 100).isSome = false ∧
    readCaption (caption 100 2 [1, 2]) = ⟨100, some 196, 2, some (crc16 [1, 2]), 0x656E67⟩ ∧
    readCaption (caption 100 0 []) = ⟨100, none, 0, none, 0x656E67⟩ := by decide +kernel

theorem test_CaptionTimers :
    let r : CheckingRecord := ⟨⟨0, none⟩, 9, .advert, .national, true⟩
    let j : Judgement := ⟨0, true, false, at_ 5⟩
    let gap := fun (n : Nat) => running.setCaptions { CaptionChecker.reset with gap := ⟨n, some (at_ 1), false⟩ }
    let stuck := fun (n : Nat) => running.setCaptions { CaptionChecker.reset with
      stuck := ⟨some ⟨1, 2⟩, n, some (at_ 1), false⟩ }
    ((gap 0).gapStep r j none).captions.gap = ⟨1, some (at_ 5), false⟩ ∧
    ((gap 118).gapStep r j none).captions.gap = ⟨119, some (at_ 1), false⟩ ∧
    ((gap 119).gapStep r j none).captions.gap = ⟨120, some (at_ 1), true⟩ ∧
    ((gap 119).gapStep r { j with sound := false } none) = gap 119 ∧
    ((gap 119).gapStep r j (some ⟨1, 2⟩)).captions.gap = ⟨0, none, false⟩ ∧
    ((stuck 299).stuckStep r j (some ⟨1, 2⟩)).captions.stuck.recordOpen = true ∧
    ((stuck 299).stuckStep r j (some ⟨1, 3⟩)).captions.stuck = ⟨some ⟨1, 3⟩, 1, some (at_ 5), false⟩ ∧
    ((stuck 299).stuckStep r { j with sound := false } (some ⟨1, 2⟩)) = stuck 299 ∧
    ((stuck 299).stuckStep r j none).captions.stuck = ⟨none, 0, none, false⟩ := by decide +kernel

/-- The station checking a segment's captions, both records opened by the timers themselves. -/
def captioned (checked : Bool) : State :=
  let r : CheckingRecord := ⟨⟨0, some 3⟩, 9, .advert, .national, checked⟩
  let j : Judgement := ⟨0, true, false, at_ 5⟩
  let s := running.setCaptions { CaptionChecker.reset with
    checking := some r, gap := ⟨119, some (at_ 1), false⟩, stuck := ⟨some ⟨1, 2⟩, 299, some (at_ 2), false⟩
    soundCount := 8, coveredCount := 2, progSound := 4, progCovered := 4 }
  (s.stuckStep r j (some ⟨1, 2⟩)).gapStep r j none

theorem test_CaptionTimers_closing :
    let s := captioned true
    let r : CheckingRecord := ⟨⟨0, some 3⟩, 9, .advert, .national, true⟩
    let j : Judgement := ⟨0, true, false, at_ 7⟩
    let records := fun (t : State) => t.log.records.map (fun x => (x.category, x.endStamp))
    records s = [(.captionStuck, none), (.captionAbsent, none)] ∧
    records (s.gapStep r j (some ⟨1, 2⟩)) = [(.captionStuck, none), (.captionAbsent, some (at_ 7))] ∧
    records (s.stuckStep r j none) = [(.captionStuck, some (at_ 7)), (.captionAbsent, none)] ∧
    records (s.stuckStep r j (some ⟨1, 3⟩)) = [(.captionStuck, some (at_ 7)), (.captionAbsent, none)] ∧
    records (s.closeCaptions (at_ 8) (some 3)).1 = [(.captionStuck, some (at_ 8)), (.captionAbsent, some (at_ 8))] ∧
    ((s.closeCaptions (at_ 8) (some 3)).1.captions.progSound, (s.closeCaptions (at_ 8) (some 3)).1.captions.progCovered,
      (s.closeCaptions (at_ 8) (some 3)).2) = (12, 6, some 250) ∧
    (s.closeCaptions (at_ 8) none).1.captions.progSound = 4 ∧ ((captioned false).closeCaptions (at_ 8) none).2 = none := by
  decide +kernel

theorem test_CaptionTimers_evaluation :
    let j : Judgement := ⟨0, true, true, at_ 7⟩
    let shows := fun (checked : Bool) => (captioned checked).setCaptions { (captioned checked).captions with
      timeline := (timelineOf [caption 100 0 [1]]).timeline }
    let t := ((shows true).judgeCaptions j).captions
    (t.pairShown, t.pairDigest, t.soundCount, t.coveredCount, t.stuckNote, t.gap.count) = (true, crc16 [1], 9, 3, false, 0) ∧
    ((shows false).judgeCaptions j).captions.soundCount = 8 ∧ ((shows false).judgeCaptions j).captions.pairShown = true ∧
    ((captioned true).judgeCaptions { j with sound := false }).captions.coveredCount = 2 ∧
    (running.captions.openSegment config (cue 1 1 |>.record 1 (at_ 1))).checking.map (fun r => r.checked) = some true := by
  decide +kernel

/-! ### Recorder -/

/-- The station with a recorded unit of a length in its current page, and a unit being written or MARK units waiting. -/
def writing (fill : Nat) (u : Option RecordedUnit) (marks : List MarkRequest) : State :=
  let r := recording (hold true none)
  (queued [unit .payload [1]]).setRecorder { r with
    pages := r.pages.map (fun p => { p with units := [⟨.payload, false, at_ 1, 0, List.replicate (fill - 24) 0⟩] })
    writing := u
    marks := marks }

/-- A MARK request with a place. -/
def mark (place : Nat) : MarkRequest := ⟨.discontinuity, at_ 99000000, some 7, 0, none, place⟩

theorem test_RecorderWriting :
    let u : RecordedUnit := ⟨.cue, false, at_ 99000000, 5, [1, 2, 3]⟩
    goes .recorderWriteComplete (writing 100 (some u) []) (fun t =>
      (t.recorder.page? 0).map (fun p => (p.fill, p.unitCount)) = some (127, 2) ∧ t.port.queue = []) = true ∧
    idle .recorderWriteComplete (writing 100 none []) = true ∧
    goes .markUnitWrite (writing 100 none [mark 3]) (fun t =>
      (t.recorder.page? 0).map (fun p => (p.fill, p.unitCount)) = some (140, 2) ∧ t.recorder.marks = []) = true ∧
    idle .markUnitWrite (writing 100 none [mark 4]) = true ∧
    idle .markUnitWrite (writing 100 (some u) [mark 3]) = true ∧
    ((writing 100 none []).recordUnit u).recorder.current = some 0 ∧ running.recorder.currentPage = none ∧
    (running.recordUnit u).recorder.current = some 0 := by decide +kernel

/-- A page of a given fill, of 24 bytes or more. -/
def pageOf (fill : Nat) : Page := ⟨0, 1, some (at_ 1), some (at_ 1), [⟨.mark, false, at_ 1, 0, List.replicate (fill - 24) 0⟩], 0⟩

/-- A page can have any fill of 24 bytes or more, so a unit may just fit or just not fit. -/
theorem test_RecorderWriting_fill (n : Nat) (h : 24 ≤ n) : (pageOf n).fill = n := by
  simp only [pageOf, Page.fill, RecordedUnit.size, List.map_cons, List.map_nil, List.sum_cons, List.sum_nil,
    List.length_replicate]
  omega

theorem test_PageBegun :
    let s := running.setRecorder (recording (hold true none))
    let full := s.setRecorder { s.recorder with pinnedTotal := 61440 }
    s.recorder.chosenPage = some 1 ∧ (s.beginPage (at_ 9)).recorder.pinnedTotal = 2 ∧
    ((s.beginPage (at_ 9)).recorder.page? 1).map (fun p => (p.seq, p.pins)) = some (2, 1) ∧
    (full.beginPage (at_ 9)).recorder.pinnedTotal = 61440 ∧
    ((full.beginPage (at_ 9)).recorder.hold? 0).map (fun h => (h.isOpen, h.last, h.flags.truncated))
      = some (false, some 1, true) ∧
    running.recorder.chosenPage = some 0 ∧ running.recorder.openHolds = [] := by decide +kernel

/-- The full budget with an OPEN hold: two CLOSED holds of lower priority over one page, or none. -/
def pressed (p : Priority) : State :=
  let r := recording (hold true none)
  let closed : Hold := { hold false (some 82000000) with priority := p, breach := some 3 }
  running.setRecorder { r with
    pages := [⟨0, 1, some (at_ 70000000), some (at_ 80000000), [], 2⟩, ⟨1, 2, some (at_ 81000000), some (at_ 99000000), [], 1⟩]
    current := some 1
    counter := 3
    slots := ⟨1, some closed⟩ :: ⟨1, some closed⟩ :: ⟨1, some { hold true none with first := 2 }⟩ :: List.replicate 29 ⟨0, none⟩
    pinnedTotal := 61440 }

theorem test_PageBegun_budget :
    let begun := fun (p : Priority) => ((pressed p).setLog { BreachLog.reset with
      records := [{ record 0 3 false false with hold := some ⟨0, 1⟩ }, record 1 1 true false] }).beginPage (at_ 9)
    let s := begun .sympathetic
    (pressed .sympathetic).recorder.evictable 2 = [0, 1] ∧ (pressed .own).recorder.evictable 2 = [] ∧
    s.recorder.slots.map (fun x => x.hold.map (fun h => (h.isOpen, h.pinned, h.flags.evictedOthers)))
      = none :: none :: some (true, 2, true) :: List.replicate 29 none ∧
    s.recorder.pinnedTotal = 61440 ∧ s.log.records.map (fun r => (r.hold, r.flags.holdEvicted, r.flags.holdTruncated))
      = [(none, true, false), (none, false, false)] ∧
    ((begun .own).recorder.hold? 2).map (fun h => (h.isOpen, h.stop, h.last, h.flags.truncated))
      = some (false, some 9, some 2, true) ∧
    (begun .own).log.records.map (fun r => r.flags.holdTruncated) = [false, true] := by decide +kernel

theorem test_HoldEnds :
    let held := fun (stop : Option Nat) => running.setRecorder (recording (hold true stop))
    goes (.holdIntervalClose 0) (held (some 99999999)) (fun t =>
      (t.recorder.hold? 0).map (fun h => (h.isOpen, h.last)) = some (false, some 1)) = true ∧
    idle (.holdIntervalClose 0) (held (some 100000000)) = true ∧
    idle (.holdIntervalClose 0) ((held (some 99000000)).setPort (queued [unit .cue []]).port) = true ∧
    goes (.holdIntervalClose 0) ((held (some 98999999)).setPort (queued [unit .cue []]).port) (fun t =>
      t.recorder.openHolds = []) = true ∧
    goes (.holdMaxLengthExpiry 0) (held (some 100000001)) (fun t =>
      (t.recorder.hold? 0).map (fun h => (h.isOpen, h.stop)) = some (false, some 100000000)) = true ∧
    idle (.holdMaxLengthExpiry 0) (held (some 100000000)) = true ∧
    idle (.holdMaxLengthExpiry 0) ((held none).setTime { running.time with shelf := 99999999 }) = true ∧
    idle (.holdIntervalClose 31) (held none) = true ∧
    (((held none).setEnd ⟨0, 1⟩ 99000000).recorder.hold? 0).map (fun h => h.stop) = some (some 109000000) ∧
    (held none).setEnd ⟨0, 2⟩ 99000000 = held none ∧ (held (some 5)).setEnd ⟨0, 1⟩ 99000000 = held (some 5) := by
  decide +kernel

/-- In FAULT a MARK unit still waiting goes on holding back the close of a hold that ends at or after its stamp (log 23). -/
theorem test_HoldEnds_fault :
    let s := fun (stop : Nat) (marks : List MarkRequest) =>
      (stationIn .fault).setRecorder { recording (hold true (some stop)) with marks := marks }
    let m : MarkRequest := ⟨.restart, at_ 99000000, none, 0, none, 0⟩
    idle (.holdIntervalClose 0) (s 99000000 [m]) = true ∧ idle .markUnitWrite (s 99000000 [m]) = true ∧
    goes (.holdIntervalClose 0) (s 98999999 [m]) (fun t => t.recorder.openHolds = []) = true ∧
    goes (.holdIntervalClose 0) (s 99000000 []) (fun t => t.recorder.openHolds = []) = true := by decide +kernel

/-- The station at the full budget, slots 0 and 1 CLOSED over the same page. -/
def crowded (p : Priority) : State :=
  let r := recording (hold true none)
  let closed : Hold := { hold false (some 82000000) with priority := p, breach := none }
  running.setRecorder { r with
    pages := [⟨0, 1, some (at_ 70000000), some (at_ 80000000), [], 2⟩, ⟨1, 2, some (at_ 81000000), some (at_ 99000000), [], 0⟩]
    current := some 1
    counter := 3
    slots := ⟨1, some closed⟩ :: ⟨1, some closed⟩ :: List.replicate 30 ⟨0, none⟩
    pinnedTotal := 61440 }

theorem test_HoldPlacement :
    let s := running.setRecorder (recording (hold true none))
    let placed := s.placeHold .own 100000000 none (some 9)
    placed.2 = some ⟨1, 1⟩ ∧ (placed.1.recorder.hold? 1).map (fun h => (h.start, h.stop, h.first, h.isOpen))
      = some (80000000, none, 1, true) ∧ placed.1.recorder.pinnedTotal = 1 ∧
    (s.placeHold .controller 90 (some 89) none).2 = none ∧ (s.placeHold .controller 90 (some 90) none).2 = some ⟨1, 1⟩ ∧
    ((s.placeHold .controller 10 (some 1800000011) none).1.recorder.hold? 1).map (fun h => (h.start, h.flags.truncated))
      = some (11, true) ∧
    ((s.placeHold .controller 10 (some 1800000010) none).1.recorder.hold? 1).map (fun h => (h.start, h.flags.truncated))
      = some (10, false) ∧
    ((crowded .own).placeHold .own 101000000 none none).2 = none ∧
    ((crowded .sympathetic).placeHold .own 101000000 none none).2 = some ⟨0, 2⟩ ∧
    ((crowded .own).placeHold .controller 79000000 (some 80000000) none).2 = some ⟨2, 1⟩ ∧
    ((running.placeHold .own 100000000 none none).1.recorder.hold? 0).map (fun h => (h.first, h.flags.prerollShort))
      = some (1, true) := by decide +kernel

/-- A creation whose hold evicts another record's, and one whose hold is refused. -/
theorem test_CreationStoresRecord_holds :
    let created := fun (p : Priority) => ((((crowded p).setRecorder { (crowded p).recorder with
      slots := (crowded p).recorder.slots.map (fun x => { x with hold := x.hold.map (fun h => { h with breach := some 9 }) }) })
      ).setLog { BreachLog.reset with records := [{ record 0 9 false false with hold := some ⟨0, 1⟩ }] }).createBreach
        { category := .captionAbsent, startStamp := at_ 101000000 }
    ((created .sympathetic).1.log.records.map (fun r => (r.category, r.hold, r.flags.holdEvicted)))
      = [(.peakExcess, none, true), (.captionAbsent, some ⟨0, 2⟩, false)] ∧
    (((created .sympathetic).1.recorder.hold? 0).map (fun h => h.flags.evictedOthers)) = some true ∧
    ((created .own).1.log.records.map (fun r => (r.category, r.figure)))
      = [(.peakExcess, some (-23)), (.captionAbsent, none), (.holdRefused, some 1)] := by decide +kernel

theorem test_HoldPlacement_range :
    let r := (crowded .own).recorder
    let formed := fun (start : Nat) (stop : Option Nat) => r.formHold 100000000 .own ⟨start, stop, false⟩ none 5
    ((formed 80000000 (some 80500000)).first, (formed 80000000 (some 80500000)).last) = (1, some 1) ∧
    (formed 80000000 (some 81000000)).last = some 2 ∧ (formed 99000001 (some 99000002)).first = 2 ∧
    (formed 99000001 (some 5)).last = some 1 ∧ (formed 90000000 (some 100000000)).isOpen = true ∧
    (formed 60000000 none).flags.prerollShort = true ∧ r.roomFor (formed 80000000 none) = false ∧
    ((crowded .own).placeSympathetic 80000000 none (some 4)).2 = none ∧
    ((crowded .own).createHoldRefused (some 4)).log.records.map (fun x => x.figure) = [some 4] := by decide +kernel

/-! ### Shelf link -/

/-- The station with its link changed. -/
def linked (f : ShelfLink → ShelfLink) : State := running.setLink (f running.link)

/-- A queued notice with attempts made. -/
def queuedNotice (n : Notice) (attempts : Nat) : QueuedNotice := ⟨50, n, attempts, [7]⟩

/-- The link with a notice in hand in a transmitter state, the line quiet for some ticks. -/
def inHand (n : Notice) (attempts quiet : Nat) (x : Transmitter) : State :=
  linked (fun l => { l with queue := [queuedNotice n attempts], transmitter := x, quietCount := quiet })

theorem test_LineAndTransmitter_line :
    let busy := fun (rx : Option FrameRx) => linked (fun l => { l with busy := true, rx := rx })
    let header := fun (length : Nat) => [1, 1] ++ beBytes 2 length ++ List.replicate 8 (0 : Byte)
    goes .lineBusy running (fun t => t.link.busy) = true ∧ idle (.lineQuiet []) running = true ∧
    idle (.lineQuiet []) (linked (fun l => { l with busy := true, transmitter := .committed })) = true ∧
    goes (.lineQuiet (header 257)) (busy (some ⟨at_ 1, 0, false⟩)) (fun t => t.link.crcErrors = 1) = true ∧
    goes (.lineQuiet (header 256)) (busy (some ⟨at_ 1, 0, false⟩)) (fun t => t.link.crcErrors = 0) = true ∧
    goes (.lineQuiet ((header 257).take 11)) (busy (some ⟨at_ 1, 0, false⟩)) (fun t => t.link.crcErrors = 0) = true ∧
    goes (.lineQuiet []) (busy (some ⟨at_ 1, 0, true⟩)) (fun t => t.link.crcErrors = 1 ∧ !t.link.busy) = true ∧
    goes .frameStart (busy none) (fun t => t.link.rx = some ⟨t.nowStamp, 100000000, false⟩) = true ∧
    idle .frameStart (stationIn .fault) = true := by decide +kernel

theorem test_LineAndTransmitter_sending :
    goes .attemptStart (inHand .withdraw 0 2 .waiting) (fun t => t.link.transmitter = .contending ∧
      t.link.sendTime = 100000000) = true ∧
    idle .attemptStart (inHand .withdraw 0 1 .waiting) = true ∧
    goes .attemptStart (inHand .withdraw 3 7 .waiting) (fun t => t.link.busy) = true ∧
    idle .attemptStart (inHand .withdraw 1 6 .waiting) = true ∧ idle .attemptStart running = true ∧
    goes .collision (inHand .withdraw 2 0 .contending) (fun t =>
      t.link.queue.map (fun q => q.attempts) = [3] ∧ t.link.noticeDrops = 0) = true ∧
    goes .collision (inHand .withdraw 3 0 .contending) (fun t =>
      t.link.queue = [] ∧ t.link.noticeDrops = 1 ∧ t.startup.withdrawReported ∧ t.link.transmitter = .idle) = true ∧
    idle .collision (inHand .withdraw 3 0 .waiting) = true ∧
    goes .noticeCommitted (inHand .withdraw 3 0 .contending) (fun t =>
      t.link.queue = [] ∧ t.link.transmitter = .committed) = true ∧
    goes .frameSent (linked (fun l => { l with
      transmitter := .committed, committed := some (queuedNotice .withdraw 0)
      unsent := [⟨7, ⟨1, 0, 0, false⟩⟩, ⟨8, ⟨2, 0, 0, false⟩⟩] })) (fun t =>
        t.link.unsent.map (fun e => e.uid) = [8] ∧ t.link.transmitter = .idle) = true ∧
    idle .frameSent running = true := by decide +kernel

/-- A breach notice of a record. -/
def breachNotice (number : Nat) (stop : Option Stamp) : BreachNotice :=
  ⟨number, .loudnessHigh, ⟨false, true⟩, 8301, .national, at_ 95000000, stop, stop.map (fun _ => -2300)⟩

/-- A STATUS notice of station 5, with signatures. -/
def statusNotice (signatures : List Signature) : Notice :=
  .status running.statusHead (if signatures.isEmpty then none else some ⟨some (-2300), true, 0xBEEF, signatures⟩)

/-- The example of section 7.6: a verdict before a STATUS, a newer STATUS in the place of the old with its attempts, a
full queue that loses its STATUS, and a refusal. -/
theorem test_QueueOffers :
    let v : Notice := (verdict 0 .national false none).notice
    let b : Notice := .breach (breachNotice 1 none)
    let start := linked (fun l => { l with queue := [queuedNotice (statusNotice []) 1], transmitter := .waiting })
    let offered := [v, b, statusNotice [], b, b, v, v, b].foldl (fun s n => s.offer n []) start
    let ranks := fun (s : State) => s.link.queue.map (fun q => q.notice.rank)
    ranks offered = [1, 1, 1, 1, 2, 2, 2, 3] ∧ (offered.link.queue.map (fun q => q.attempts)).getLast? = some 1 ∧
    ranks (offered.offer v []) = [1, 1, 1, 1, 2, 2, 2, 2] ∧ (offered.offer v []).link.noticeDrops = 0 ∧
    ((offered.offer v []).offer b []).link.noticeDrops = 1 ∧ ranks ((offered.offer v []).offer b []) = ranks (offered.offer v []) ∧
    (stationIn .listening).offer b [] = stationIn .listening ∧
    ((inHand (statusNotice []) 0 9 .contending).offer b []).link.transmitter = .waiting ∧
    ((inHand b 0 9 .contending).offer v []).link.transmitter = .contending := by decide +kernel

theorem test_LinkTimers :
    let timed := fun (c : PeriodClass) (d : Nat) => linked (fun l => { l with
      period := c, statusNext := some d, downshift := some d
      unsent := [⟨1, ⟨1, 0, 0, false⟩⟩, ⟨2, ⟨2, 0, 0, false⟩⟩, ⟨3, ⟨3, 0, 0, false⟩⟩]
      occupancy := [d % 100000, 0, 0, 0, 0, 0, 0, 0, 0, 0] })
    goes .statusTimerExpiry (timed .steady 100000000) (fun t =>
      t.link.statusNext = some 104000000 ∧ t.link.queue.map (fun q => q.carried) = [[1, 2, 3]]) = true ∧
    goes .statusTimerExpiry (timed .quiet 99960000) (fun t =>
      t.link.statusNext = some 116000000 ∧ t.link.queue.map (fun q => q.carried) = [[2, 3]]) = true ∧
    idle .statusTimerExpiry (timed .alert 100000001) = true ∧
    goes .downshiftDeadline (timed .alert 100000000) (fun t => t.link.period = .steady ∧
      t.link.downshift = some 700000000) = true ∧
    goes .downshiftDeadline (timed .steady 100000000) (fun t => t.link.period = .quiet ∧ t.link.downshift = none) = true ∧
    idle .downshiftDeadline (timed .steady 100000001) = true ∧
    (timed .quiet 1).upshift.link.statusNext = some 101000000 ∧ (timed .quiet 1).upshift.link.queue.length = 1 ∧
    (timed .alert 1).upshift.link.queue = [] ∧ (timed .alert 1).upshift.link.downshift = some 160000000 ∧
    (stationIn .listenOnly).upshift = stationIn .listenOnly ∧
    goes .occupancyBucketEnd (linked (fun l => { l with bucketTicks := 10000, occupancy := [5, 4] })) (fun t =>
      t.link.occupancy = [0, 5, 4] ∧ t.link.bucketTicks = 0) = true ∧
    idle .occupancyBucketEnd (linked (fun l => { l with bucketTicks := 9999 })) = true := by decide +kernel

/-- The head of a STATUS notice (R132), and the order of the kinds (R130). -/
theorem test_LinkTimers_head :
    let s := (following .peer [peer 3 (.common 0) 0 [], peer 9 .apart 3 []]).setLog
      { BreachLog.reset with records := [record 0 1 true false, record 1 2 false false] }
    s.statusHead = ⟨7, 2, .peer, false, .normal, 0, .alert, 0, .programme, .regional, 1, 1⟩ ∧
    [Notice.withdraw, .breach (breachNotice 1 none), (verdict 0 .national false none).notice, statusNotice []].map
      (fun n => n.rank) = [0, 1, 2, 3] := by decide +kernel

/-- A frame of each kind, at the ends of the fields' ranges, read as sent. -/
theorem test_FrameRoundTrip :
    let sent := fun (sender : Nat) (n : Notice) =>
      readFrame? (frameBody sender shelfMax n) = some ⟨BitVec.ofNat 8 sender, shelfMax, n⟩
    sent 1 .withdraw ∧ sent 255 (.breach (breachNotice 65535 none)) ∧
    sent 3 (.breach (breachNotice 1 (some ⟨shelfMax, .free, true⟩))) ∧
    sent 3 (statusNotice []) ∧ sent 3 (statusNotice (peerSignatures.take 2)) ∧
    sent 3 (statusNotice [⟨0xFFFFFFFF, 0x3FF, -128, true⟩]) ∧
    sent 3 (verdict 0 .national false (some (-32767))).notice ∧ sent 3 (verdict 0 .regional true none).notice := by
  decide +kernel

/-- A frame's bytes and bits: delimiter, sender, kind, length, time, payload and CRC, each byte most significant bit first. -/
theorem test_FrameRoundTrip_line :
    let b := frameBytes 3 5000006 .withdraw
    b.take 14 = [0x96, 0x69, 3, 4, 0, 0, 0, 0, 0, 5, 0, 0, 0, 6] ∧
    beBytes 2 (crc16 [3, 4, 0, 0, 0, 0, 0, 5, 0, 0, 0, 6]).toNat = b.drop 14 ∧
    bitsOfBytes [0x96, 1] = [true, false, false, true, false, true, true, false] ++ List.replicate 7 false ++ [true] ∧
    frameOfBits? (bitsOfBytes b) = some (b.drop 2) ∧ frameOfBits? (bitsOfBytes (b.drop 1)) = none ∧
    (inHand .withdraw 0 0 .contending).transmittedBits = some (bitsOfBytes (frameBytes 5 0 .withdraw)) ∧
    (inHand .withdraw 0 0 .waiting).transmittedBits = none := by decide +kernel

theorem test_FrameRoundTrip_fields :
    let b := (Notice.breach (breachNotice 258 (some ⟨7, .free, true⟩))).payload
    let v := (verdict 0 .national false (some (-2300))).notice.payload
    let p := (statusNotice [⟨5, 0x301, -23, true⟩]).payload
    b.take 9 = [1, 2, 1, 11, 0, 0, 0x20, 0x6D, 1] ∧ b.drop 18 = [0, 0, 0, 0, 0, 0, 0, 7, 0x84, 0xF7, 0x04] ∧
    v.take 7 = [1, 0, 0, 0x20, 0x6D, 2, 1] ∧ v.drop 25 = [0xF7, 0x04, 0x80, 0, 0x80, 0, 0xFF, 0xBC, 0, 0, 0, 147, 3, 0xCC, 1, 0] ∧
    p.take 8 = [0, 7, 2, 4, 1, 0, 1, 0] ∧ p.drop 15 = [0xF7, 0x04, 1, 0xBE, 0xEF, 1, 0, 0, 0, 5, 3, 1, 0xE9, 1] := by
  decide +kernel

theorem test_FrameRoundTrip_sendable : (Notice.breach (breachNotice 65535 (some (at_ 1)))).Sendable ∧
    (statusNotice [⟨0xFFFFFFFF, 0x3FF, -128, true⟩]).Sendable ∧ (verdict 0 .national false none).notice.Sendable := by
  simp [Notice.Sendable, breachNotice, statusNotice, verdict, Verdict.notice, loudnessFits, at_, shelfMax, Category.shared]

/-! ### Peer Monitor -/

/-- The station with a frame being received, peers in its table. -/
def receiving (x : StationState) (table : List PeerEntry) : State :=
  let s := stationIn x
  (s.setLink { s.link with busy := true, rx := some ⟨at_ 99999000, 99999000, false⟩ }).setPeers
    { PeerMonitor.reset with table := table }

/-- A frame received. -/
def frame (sender : Nat) (n : Notice) : Instr := .frameComplete (frameBody sender 99998000 n)

theorem test_FrameTaken_link :
    goes (.frameComplete ([1, 4, 1, 1] ++ List.replicate 8 0)) (receiving .running []) (fun t =>
      t.link.rx.map (fun r => r.overlong) = some true) = true ∧
    goes (.frameComplete ((frameBody 3 0 .withdraw).dropLast ++ [0])) (receiving .running []) (fun t =>
      t.link.crcErrors = 1 ∧ t.link.rx = none) = true ∧
    goes (frame 5 .withdraw) (receiving .running [peer 3 .unknown 0 []]) (fun t => t.startup.station = .listenOnly ∧
      t.startup.listenOnlyMark ∧ t.log.records.map (fun r => r.category) = [.duplicateStation] ∧
      stations t = [(3, true)]) = true ∧
    goes (frame 5 .withdraw) (receiving .listenOnly []) (fun t => t.log.records = [] ∧ t.link.rx = none) = true := by
  decide +kernel

/-- A frame with its CRC of a sender, kind and payload, its length field as given. -/
def framed? (sender kind : Byte) (length : Nat) (payload : List Byte) : Option ReceivedFrame :=
  let b := [sender, kind] ++ beBytes 2 length ++ List.replicate 8 0 ++ payload
  readFrame? (b ++ beBytes 2 (crc16 b).toNat)

/-- One failing check at a time. -/
theorem test_FrameTaken_checks :
    let payload := fun (n : Notice) => n.payload
    let status := payload (statusNotice [])
    let long := payload (statusNotice (ownSignatures.take 2))
    let breach := payload (.breach (breachNotice 1 none))
    let verdict := payload (verdict 0 .national false none).notice
    let alone := fun (kind : Byte) (l : List Byte) => (framed? 3 kind l.length l).isSome
    alone 1 status ∧ alone 1 long ∧ alone 2 breach ∧ alone 3 verdict ∧ alone 4 [] ∧ alone 4 [1, 2] ∧
    !(alone 5 []) ∧ !(framed? 0 4 0 []).isSome ∧ !(alone 1 (status ++ [0])) ∧ !(alone 1 (long.take 30)) ∧
    !(alone 1 (status.set 3 0)) ∧ !(alone 1 (status.set 4 3)) ∧ !(alone 1 (status.set 6 0)) ∧ !(alone 1 (long.set 20 9)) ∧
    !(alone 2 (breach.take 28)) ∧ !(alone 2 (breach.set 2 6)) ∧ !(alone 2 ((breach.set 0 0).set 1 0)) ∧
    !(alone 2 (breach.set 17 5)) ∧ !(alone 3 (verdict.take 40)) ∧ !(alone 3 (verdict.set 39 2)) ∧
    !(alone 3 ((verdict.set 37 3).set 38 0xE9)) ∧ crc16 [] = 0xFFFF := by decide +kernel

theorem test_FrameTaken_peers :
    let full := (List.range 15).map (fun n => peer (BitVec.ofNat 8 (20 + n)) .unknown 0 [])
    goes (frame 3 (statusNotice [])) (receiving .running [peer 9 .unknown 0 []]) (fun t =>
      stations t = [(3, true), (9, true)]) = true ∧
    goes (frame 3 (.breach (breachNotice 1 none))) (receiving .running []) (fun t =>
      t.peers.table = [⟨3, true, at_ 99999000, none, [], .unknown, 0⟩]) = true ∧
    goes (frame 9 (statusNotice (ownSignatures.take 2))) (receiving .running [{ peer 9 .unknown 0 [] with heard := false }]) (fun t =>
      stations t = [(9, true)] ∧ t.peers.table.map (fun e => e.store.length) = [2]) = true ∧
    goes (frame 3 (statusNotice [])) (receiving .running full) (fun t => t.peers.overflow = 1) = true ∧
    goes (frame 3 (statusNotice [])) (receiving .running (full.take 14)) (fun t => t.peers.table.length = 15) = true ∧
    goes (frame 3 .withdraw) (receiving .running []) (fun t => t.peers.table = []) = true ∧
    goes (frame 9 .withdraw) (receiving .running [peer 3 .unknown 0 [], peer 9 .unknown 0 []]) (fun t =>
      stations t = [(3, true)]) = true := by decide +kernel

/-- A notice is taken behind its sender's entry, whether heard, stale or new. -/
theorem test_FrameTaken_notices :
    let v := (verdict 0 .national false none).notice
    let stale := { peer 9 (.common 0) 0 [] with heard := false }
    let cache := fun (t : State) => t.peers.cache.map (fun e => e.sender)
    goes (frame 9 v) (receiving .running [peer 9 (.common 0) 0 []]) (fun t => cache t = [9]) = true ∧
    goes (frame 9 v) (receiving .running [stale]) (fun t => cache t = [9] ∧ stations t = [(9, true)]) = true ∧
    goes (frame 9 v) (receiving .running []) (fun t => cache t = [] ∧ stations t = [(9, true)]) = true ∧
    goes (frame 9 (statusNotice [])) (receiving .running []) (fun t =>
      t.peers.table.map (fun e => e.status.map (fun x => x.serviceId)) = [some 7]) = true ∧
    goes (frame 9 (statusNotice [])) (receiving .running [stale]) (fun t =>
      t.peers.table.map (fun e => e.status.map (fun x => x.regionGroup)) = [some 2]) = true := by decide +kernel

/-- A STATUS notice of the followed peer that steps shelf time by 6 s removes the peers last heard before. -/
theorem test_FrameTaken_steps :
    let s := receiving .running [peer 3 .unknown 0 [], clocked 9 .locked]
    let follows := s.setTime { s.time with source := .peer, followed := some 9 }
    let stepping := Instr.frameComplete (frameBody 9 105999000
      (.status { running.statusHead with timeClass := .locked } none))
    goes (frame 9 (statusNotice [])) follows (fun t => stations t = [(3, true), (9, true)]) = true ∧
    goes stepping follows (fun t => t.now = 106000000 ∧ stations t = []) = true := by decide +kernel

/-- The station with a COMMON peer and noted breaches. -/
def noting (noted : List NotedBreach) : State :=
  (receiving .running [peer 4 (.common (-1)) 0 [], peer 9 .apart 3 []]).setPeers
    { PeerMonitor.reset with table := [peer 4 (.common (-1)) 0 [], peer 9 .apart 3 []], noted := noted }

theorem test_NotedBreaches :
    let opened := (noting []).takeBreach 4 (breachNotice 7 none)
    let closing := breachNotice 7 (some (at_ 99000000))
    opened.peers.noted.map (fun e => (e.peer, e.peerBreach, e.offset, e.ownBreach)) = [(4, 7, -1, some 1)] ∧
    opened.log.records.map (fun r => (r.category, r.startStamp.time, r.isOpen)) = [(.peerNoted, 94000000, true)] ∧
    opened.takeBreach 4 (breachNotice 7 none) = opened ∧
    (opened.takeBreach 4 closing).peers.noted = [] ∧
    (opened.takeBreach 4 closing).log.records.map (fun r => (r.endStamp.map (fun t => t.time), r.isOpen))
      = [(some 98000000, false)] ∧
    ((noting []).takeBreach 4 closing).peers.noted = [] ∧
    ((noting []).takeBreach 4 closing).log.records.map (fun r => r.isOpen) = [false] ∧
    (noting []).takeBreach 9 closing = noting [] ∧
    (noting []).takeBreach 4 { closing with scope := .regional } = noting [] ∧
    ((noting (List.replicate 32 ⟨4, 1, 0, none, none⟩)).takeBreach 4 (breachNotice 7 none)).peers.overflow = 1 ∧
    ((noting (List.replicate 31 ⟨4, 1, 0, none, none⟩)).takeBreach 4 (breachNotice 7 none)).peers.noted.length = 32 ∧
    goes (frame 4 (.breach closing)) (noting []) (fun t => t.log.records.length = 1) = true := by decide +kernel

theorem test_PeerDeadlines :
    let s := fun (shelf : Nat) => (running.setTime { running.time with shelf := shelf }).setPeers
      { PeerMonitor.reset with table := [peer 3 .unknown 0 []] }
    let waiting := fun (deadline : Nat) => running.setPeers { PeerMonitor.reset with
      pendingVerdicts := [⟨verdict 0 .national true none, 100000001⟩, ⟨verdict 0 .national true none, deadline⟩] }
    let diverging := fun (start : Nat) => running.setPeers { PeerMonitor.reset with divergence := some (at_ start) }
    idle (.peerStaleDeadline 3) (s 101999999) = true ∧
    goes (.peerStaleDeadline 3) (s 102000000) (fun t => stations t = [(3, false)]) = true ∧
    idle (.peerRemovalDeadline 3) (s 104999999) = true ∧
    goes (.peerRemovalDeadline 3) (s 105000000) (fun t => stations t = []) = true ∧
    idle (.peerRemovalDeadline 4) (s 105000000) = true ∧
    goes .divergenceExpiry (diverging 90000000) (fun t => t.peers.divergentOpen ∧
      t.log.records.map (fun r => (r.category, r.startStamp.time)) = [(.contentDivergent, 90000000)]) = true ∧
    idle .divergenceExpiry (diverging 90000001) = true ∧ idle .divergenceExpiry running = true ∧
    goes .proxyDeadline (waiting 100000000) (fun t => t.peers.pendingVerdicts.length = 1 ∧
      t.verdicts.history.map (fun v => v.source) = [.unmeasured] ∧
      t.log.records.map (fun r => r.category) = [.measurementLost]) = true ∧
    idle .proxyDeadline (waiting 100000001) = true := by decide +kernel

/-- In FAULT the Peer Monitor's deadlines do nothing, due or not. -/
theorem test_PeerDeadlines_fault :
    let s := ((stationIn .fault).setTime { running.time with shelf := 200000000 }).setPeers { PeerMonitor.reset with
      table := [peer 3 .unknown 0 []], divergence := some (at_ 1), pendingVerdicts := [⟨verdict 0 .national true none, 1⟩] }
    idle .divergenceExpiry s = true ∧ idle .proxyDeadline s = true ∧ idle (.peerStaleDeadline 3) s = true ∧
    idle (.peerRemovalDeadline 3) s = true := by decide +kernel

/-- A station removed while HEARD becomes STALE first; its noted breach is closed with PEER_LOST. -/
theorem test_PeerDeadlines_removal :
    let s := noting [⟨4, 1, 0, some 77, none⟩]
    let late := (s.setTime { s.time with shelf := 110000000 }).setLog { BreachLog.reset with
      records := [{ record 0 77 true false with category := .peerNoted, origin := .peer 4 1 }] }
    goes (.peerRemovalDeadline 4) late (fun t => stations t = [(9, true)] ∧ t.peers.noted = [] ∧
      t.log.records.map (fun r => (r.isOpen, r.flags.peerLost, r.endStamp.map (fun x => x.time)))
        = [(false, true, some 110000000)]) = true ∧
    (late.becomeStale 4).peers.table.map (fun e => e.heard) = [false, true] := by decide +kernel

theorem test_PeerDeadlines_judge :
    let apart := [peer 3 .apart 3 [], peer 9 .apart 3 []]
    let s := fun (table : List PeerEntry) (x : Option Stamp) (isOpen : Bool) => running.setPeers { PeerMonitor.reset with
      table := table, divergence := x, divergentOpen := isOpen }
    let judged := fun (table : List PeerEntry) (x : Option Stamp) (isOpen : Bool) =>
      ((s table x isOpen).judge.peers.divergence, (s table x isOpen).judge.peers.divergentOpen)
    judged apart none false = (some ⟨100000000, .free, false⟩, false) ∧
    judged apart (some (at_ 5)) false = (some (at_ 5), false) ∧ judged apart none true = (none, true) ∧
    judged (apart.take 1) (some (at_ 5)) false = (none, false) ∧
    judged (peer 4 (.common 0) 0 [] :: apart) none true = (none, false) ∧
    ((s apart none true).enterImpaired 40).peers.divergentOpen = false ∧
    ((s apart none false).enterImpaired 40).log.records.map (fun r => r.category) = [.receptionImpaired] := by
  decide +kernel

theorem test_Comparison_store :
    let g := fun (n : Word32) (level : Int) => (⟨n, 0, level, false⟩ : Signature)
    let full := (List.range 16).map (fun n => g (BitVec.ofNat 32 (n + 10)) 0)
    placeSignature (g 12 9) full = full.map (fun y => if y.second = 12 then g 12 9 else y) ∧
    placeSignature (g 9 9) full = full ∧ placeSignature (g 30 9) full = full.drop 1 ++ [g 30 9] ∧
    placeSignature (g 9 9) (full.take 15) = g 9 9 :: full.take 15 := by decide +kernel

/-- Whether a STATUS notice of peer 3 makes an evaluation run, and what a changed relation brings. -/
theorem test_Comparison_evaluation :
    let s := (running.setPeers { PeerMonitor.reset with
      table := [peer 3 .unknown 1 (peerSignatures.dropLast)], cache := [cached 3 (-2300)]
      pendingVerdicts := [⟨verdict 0 .national true none, 129000000⟩] }).setLoudness
        { running.loudness with ownHistory := ownSignatures }
    let rx : FrameRx := ⟨at_ 99000000, 99000000, false⟩
    let tail : StatusTail := ⟨none, false, 0, peerSignatures.drop 8⟩
    let head := { running.statusHead with reception := .normal }
    let relation := fun (t : State) => t.peers.table.map (fun e => e.relation)
    relation (s.takeStatus 3 rx 5 head (some tail)) = [.common 2] ∧
    (s.takeStatus 3 rx 5 head (some tail)).peers.pendingVerdicts = [] ∧
    relation (s.takeStatus 3 rx 5 head none) = [.unknown] ∧
    relation (s.takeStatus 3 rx 5 { head with serviceId := 8 } (some tail)) = [.unknown] ∧
    relation ((s.setReception { s.reception with state := .impaired }).takeStatus 3 rx 5 head (some tail)) = [.unknown] ∧
    s.compare 4 = s ∧ running.compare 3 = running := by decide +kernel

end Sys2Proof.Tests
end

section
/-! PROOF. O3: every command keeps the limits of the queues, lists and tables. Where a command only runs an operation that
`Proceeds`, the limits come from there; the lemmas below are for the commands that do more. -/

namespace Sys2Proof.Machine

/-- A state reached by an outcome is within the limits when the state before was. -/
def KeepsLimits (s : State) (o : Host.Outcome State Fault Refusal) : Prop := ∀ t, o = .next t → s.Within → t.Within

namespace KeepsLimits

variable {s t : State}

theorem next (h : s.Within → t.Within) : KeepsLimits s (.next t) := fun _ e w => Host.Outcome.next.inj e ▸ h w

theorem idle (s : State) : KeepsLimits s (.next s) := next id

theorem proceeds (h : Proceeds s t) : KeepsLimits s (.next t) := next h.limits

/-- A request keeps the limits when what it serves does (R181). -/
theorem request (serve : State → State) (h : s.Within → (serve s).Within) : KeepsLimits s (s.request serve) := by
  unfold State.request
  split
  · exact next h
  · exact idle s

end KeepsLimits

open KeepsLimits

/-! ### One block changed -/

namespace State.Within

variable {s : State}

theorem setStartup (w : s.Within) (x : Startup) : (s.setStartup x).Within := { w with }

theorem setEvidence (w : s.Within) (x : EvidencePort) : (s.setEvidence x).Within := { w with }

theorem setRecorder (w : s.Within) (x : Recorder) : (s.setRecorder x).Within := { w with }

theorem setPort (w : s.Within) {x : MediaPort} (h : x.Within) : (s.setPort x).Within := { w with port := h }

theorem setReception (w : s.Within) {x : ReceptionMonitor} (h : x.tally.length = 10) : (s.setReception x).Within :=
  { w with tally := h }

theorem setSegments (w : s.Within) {x : SegmentTracker} (h : x.pending.length ≤ 4) : (s.setSegments x).Within :=
  { w with cues := h }

theorem setLoudness (w : s.Within) {x : LoudnessUnit} (h : x.Within) : (s.setLoudness x).Within := { w with loudness := h }

theorem setCaptions (w : s.Within) {x : CaptionChecker} (h : x.Within) : (s.setCaptions x).Within := { w with captions := h }

theorem setLink (w : s.Within) {x : ShelfLink} (h : x.Within) : (s.setLink x).Within := { w with link := h }

theorem setPeers (w : s.Within) {x : PeerMonitor} (h : x.Within) : (s.setPeers x).Within := { w with peers := h }

theorem setLog (w : s.Within) {x : BreachLog} (h : x.Within) : (s.setLog x).Within := { w with log := h }

theorem setAlarms (w : s.Within) {x : AlarmDriver} (h : x.pulseEnds.length = 4) : (s.setAlarms x).Within :=
  { w with pulses := h }

theorem answer (w : s.Within) (response : List Byte) (commit : CommitEffect) : (s.answer response commit).Within :=
  w.setEvidence _

theorem reportWithdrawal (w : s.Within) : s.reportWithdrawal.Within := w.setStartup _

end State.Within

/-! ### The blocks' own states -/

theorem MediaPort.reset_within : MediaPort.reset.Within := ⟨by decide, by decide⟩

theorem LoudnessUnit.reset_within : LoudnessUnit.reset.Within := ⟨by decide, by decide, by decide⟩

theorem CaptionChecker.reset_within (n : Nat) : CaptionChecker.Within { CaptionChecker.reset with lateCount := n } :=
  ⟨Nat.zero_le _, Nat.le_refl _, Nat.le_refl _⟩

theorem ShelfLink.reset_within (b : Bool) : ShelfLink.Within { ShelfLink.reset with busy := b } :=
  ⟨Nat.zero_le _, Nat.zero_le _, rfl⟩

theorem BreachLog.reset_within : BreachLog.reset.Within := ⟨by decide, by decide⟩

theorem PeerMonitor.reset_within (n : Nat) : PeerMonitor.Within { PeerMonitor.reset with overflow := n } :=
  ⟨Nat.zero_le _, List.nodup_nil, fun _ h => absurd h List.not_mem_nil, Nat.zero_le _, Nat.zero_le _, Nat.zero_le _⟩

/-- The machine after full reset is within the limits, whatever waits and whatever the line does. -/
theorem State.reset_within (pending : List Instr) (busy : Bool) :
    ((State.reset.setPending pending).setLink { ShelfLink.reset with busy := busy }).Within where
  port := MediaPort.reset_within
  tally := rfl
  cues := Nat.zero_le _
  references := Nat.zero_le _
  loudness := LoudnessUnit.reset_within
  verdicts := Nat.zero_le _
  captions := CaptionChecker.reset_within 0
  link := ShelfLink.reset_within busy
  log := BreachLog.reset_within
  pulses := rfl
  peers := PeerMonitor.reset_within 0

/-- The transmitter's state, the line's measures and the timers are no limit of the link's. -/
theorem ShelfLink.Within.of_lists {l m : ShelfLink} (w : l.Within) (queue : m.queue.length ≤ l.queue.length)
    (unsent : m.unsent.length ≤ l.unsent.length) (occupancy : m.occupancy.length = l.occupancy.length) : m.Within :=
  ⟨queue.trans w.notices, unsent.trans w.unsent, occupancy.trans w.occupancy⟩

/-- A port that differs in its counts, its stage and the framing alone has the same queue. -/
theorem MediaPort.Within.of_queue {p q : MediaPort} (w : p.Within) (queue : q.queue = p.queue) : q.Within :=
  ⟨queue ▸ w.units, by have := w.bytes; unfold MediaPort.held at this ⊢; rwa [queue]⟩

theorem sum_take_le (l : List Nat) (n : Nat) : (l.take n).sum ≤ l.sum := by
  have := congrArg List.sum (List.take_append_drop n l)
  rw [List.sum_append] at this
  omega

/-- The first units of the queue alone. -/
theorem MediaPort.Within.take {p q : MediaPort} (w : p.Within) (n : Nat) (queue : q.queue = p.queue.take n) : q.Within where
  units := by rw [queue]; exact (List.length_take_le' ..).trans w.units
  bytes := by
    refine Nat.le_trans ?_ w.bytes
    unfold MediaPort.held
    rw [queue, List.map_take]
    exact sum_take_le _ _

/-! ### Start-up -/

theorem execFullReset_keepsLimits (s : State) : KeepsLimits s (execFullReset s) := next fun _ => State.reset_within _ _

theorem execConfigLoaded_keepsLimits (bytes : List Byte) (s : State) : KeepsLimits s (execConfigLoaded bytes s) := by
  unfold execConfigLoaded
  split
  · refine next fun w => State.Within.setStartup ?_ _
    split
    · exact (raise_proceeds _ _).limits (w.setStartup _)
    · exact w.setStartup _
  · exact idle s

theorem execMemoryCheckDone_keepsLimits (failed : CheckReport) (s : State) :
    KeepsLimits s (execMemoryCheckDone failed s) := by
  unfold execMemoryCheckDone
  split
  · refine next fun w => ?_
    split
    · exact (settleTimeRecords_proceeds _).limits (((w.setStartup _).setStartup _ |>.setPort
        (w.port.of_queue (by rfl))).setReception (by exact w.tally))
    · exact ((w.setStartup _).setStartup _).setAlarms (by rfl)
  · exact idle s

theorem beginWithdrawal_within {s : State} (w : s.Within) : s.beginWithdrawal.Within := by
  unfold State.beginWithdrawal
  dsimp only
  have emptied : ShelfLink.Within { s.link with queue := [] } := ⟨Nat.zero_le _, w.link.unsent, w.link.occupancy⟩
  have withdrawing : ShelfLink.Within
      { s.link with queue := [⟨s.link.nextUid, .withdraw, 0, []⟩], nextUid := s.link.nextUid + 1 } :=
    ⟨by simp, w.link.unsent, w.link.occupancy⟩
  split
  · exact w.setLink (withdrawing.settle _)
  all_goals exact (w.setLink (emptied.settle _)).reportWithdrawal

theorem BreachLog.Within.cut {l : BreachLog} (w : l.Within) (f : BreachRecord → BreachRecord) :
    BreachLog.Within { l with records := l.records.map f, causes := [] } := ⟨by simpa using w.records, by simp⟩

theorem cutRecords_within {s : State} (w : s.Within) : s.cutRecords.Within := w.setLog (w.log.cut _)

theorem cutHolds_within {s : State} (w : s.Within) : s.cutHolds.Within :=
  (Proceeds.foldl (fun t h => changeRecord_proceeds t (Hold.breach h) _) _ _).limits (w.setRecorder _)

theorem execRestart_keepsLimits (s : State) : KeepsLimits s (execRestart s) := by
  refine request _ fun w => ?_
  split
  · exact w.answer _ _
  · exact w.answer _ _
  · exact (cutHolds_within (cutRecords_within w)).answer _ _
  all_goals
    split
    · exact w.answer _ _
    · exact (beginWithdrawal_within (w.setStartup _)).answer _ _

theorem forgetFollowed_proceeds (s : State) : Proceeds s s.forgetFollowed := by
  unfold State.forgetFollowed
  split
  · exact Proceeds.refl s
  · exact loseFollowed_proceeds s _

theorem MediaPort.Within.restarted {p : MediaPort} (w : p.Within) (writing : Bool) : (p.restarted writing).Within := by
  cases writing
  · exact w.take 0 (by rfl)
  · exact w.take 1 (by rfl)

theorem clearForRestart_within {s : State} (w : s.Within) : s.clearForRestart.Within :=
  (forgetFollowed_proceeds _).limits ((((((((w.setStartup _).setPort (w.port.restarted _)).setReception (by rfl)).setSegments
    (by exact Nat.zero_le _)).setLoudness LoudnessUnit.reset_within).setCaptions (CaptionChecker.reset_within _)).setPeers
    (PeerMonitor.reset_within _)).setLink ⟨Nat.zero_le _, Nat.zero_le _, w.link.occupancy⟩)

theorem resolveAll_proceeds (s : State) : Proceeds s s.resolveAll :=
  Proceeds.foldl (fun t e => resolveUnmeasured_proceeds t e) _ s

theorem execRestartSequence_keepsLimits (s : State) : KeepsLimits s (execRestartSequence s) := by
  unfold execRestartSequence
  split
  · exact next fun w => clearForRestart_within
      ((resolveAll_proceeds _).trans (requestMark_proceeds _ _) |>.limits (cutHolds_within (cutRecords_within w)))
  · exact idle s

/-! ### Time and the Media Port -/

theorem execOscillatorTick_keepsLimits (s : State) : KeepsLimits s (execOscillatorTick s) := by
  refine next fun w => ?_
  have link : (s.link.tick s.live).Within := by
    refine w.link.of_lists (Nat.le_refl _) (Nat.le_refl _) ?_
    simp only [ShelfLink.tick]
    split
    · exact changeAt_length ..
    · rfl
  exact { w with references := w.references, link := link }

/-- A unit for which there is room joins the queue within its limits (R5). -/
theorem enqueue_within {s : State} (w : s.Within) (k : UnitKind) (h : UnitHeader) (room : s.port.hasRoom h.length = true) :
    (s.enqueue k h).Within := by
  unfold MediaPort.hasRoom at room
  rw [Bool.and_eq_true, decide_eq_true_eq, decide_eq_true_eq] at room
  obtain ⟨units, bytes⟩ := room
  refine w.setPort ⟨?_, ?_⟩
  · rw [List.length_append]
    exact units
  · simpa [MediaPort.held] using show s.port.held + h.length ≤ 262144 from bytes

theorem dropUnit_within {s : State} (w : s.Within) : s.dropUnit.Within := by
  unfold State.dropUnit
  dsimp only
  split
  · exact w.setPort (w.port.of_queue (by rfl))
  · exact (raise_proceeds _ _).limits (w.setPort (w.port.of_queue (by rfl)))

theorem arrive_within {s : State} (w : s.Within) (k : UnitKind) (h : UnitHeader) : (s.arrive k h).Within := by
  have admitted : (if s.port.hasRoom h.length then s.enqueue k h else s.dropUnit).Within := by
    split
    · rename_i room
      exact enqueue_within w k h room
    · exact dropUnit_within w
  unfold State.arrive
  split
  · exact w.setPort (w.port.of_queue (by rfl))
  · exact w.setPort (w.port.of_queue (by rfl))
  · exact admitted
  · exact admitted
  · exact admitted
  · exact w

theorem execUnitHeaderComplete_keepsLimits (bytes : List Byte) (s : State) :
    KeepsLimits s (execUnitHeaderComplete bytes s) := by
  unfold execUnitHeaderComplete
  split
  · exact idle s
  · dsimp only
    split
    · exact next fun w => w.setPort (w.port.of_queue (by rfl))
    · exact next fun w => arrive_within (w.setPort (w.port.of_queue (by rfl))) _ _

theorem execMissingDelimiter_keepsLimits (a b : Byte) (s : State) : KeepsLimits s (execMissingDelimiter a b s) := by
  unfold execMissingDelimiter
  split
  · exact next fun w => w.setPort (w.port.of_queue (by rfl))
  · exact idle s

theorem execPayloadComplete_keepsLimits (payload : List Byte) (s : State) :
    KeepsLimits s (execPayloadComplete payload s) := by
  unfold execPayloadComplete
  split
  · exact idle s
  · rename_i u hu
    have queue : s.port.queue = s.port.queue.dropLast ++ [u] := (List.dropLast_append_getLast? u hu).symm
    split
    · split
      · refine next fun w => w.setPort ⟨?_, ?_⟩
        · have := w.port.units
          rw [queue] at this
          simpa using this
        · have := w.port.bytes
          unfold MediaPort.held at this ⊢
          rw [queue] at this
          simpa using this
      · exact next fun w => w.setPort (w.port.take (s.port.queue.length - 1) (List.dropLast_eq_take ..))
    · exact idle s

theorem execUnitDelivery_keepsLimits (s : State) : KeepsLimits s (execUnitDelivery s) := by
  unfold execUnitDelivery
  split
  · exact idle s
  · split
    · exact idle s
    · split
      · exact proceeds (deliver_proceeds s _ _)
      · exact idle s

/-! ### Recorder: none of its own lists are among these limits -/

theorem execRecorderWriteComplete_keepsLimits (s : State) : KeepsLimits s (execRecorderWriteComplete s) := by
  unfold execRecorderWriteComplete
  split
  · exact idle s
  · exact next fun w => (w.setRecorder _).setPort (w.port.drop 1)

theorem readyPage_proceeds {s t : State} {u : RecordedUnit} (h : s.readyPage u = some t) : Proceeds s t := by
  unfold State.readyPage at h
  split at h
  · split at h
    · exact Option.some.inj h ▸ beginPage_proceeds s _
    · cases h
  · exact Option.some.inj h ▸ Proceeds.refl s

theorem execMarkUnitWrite_keepsLimits (s : State) : KeepsLimits s (execMarkUnitWrite s) := by
  unfold execMarkUnitWrite
  split
  · exact idle s
  · split
    · dsimp only
      split
      · rename_i ready
        exact next fun w => ((readyPage_proceeds ready).limits (w.setRecorder _)).setRecorder _
      · exact next fun w => w.setRecorder _
    · exact idle s

/-! ### Shelf link and peers -/

theorem execLineQuiet_keepsLimits (received : List Byte) (s : State) : KeepsLimits s (execLineQuiet received s) := by
  unfold execLineQuiet
  split
  · exact idle s
  · dsimp only
    split
    · exact next fun w => w.setLink ⟨w.link.notices, w.link.unsent, w.link.occupancy⟩
    · split <;> exact next fun w => w.setLink ⟨w.link.notices, w.link.unsent, w.link.occupancy⟩

theorem execFrameStart_keepsLimits (s : State) : KeepsLimits s (execFrameStart s) := by
  unfold execFrameStart
  split
  · exact next fun w => w.setLink ⟨w.link.notices, w.link.unsent, w.link.occupancy⟩
  · exact idle s

theorem duplicateHeard_within {s : State} (w : s.Within) (rx : FrameRx) : (s.duplicateHeard rx).Within := by
  unfold State.duplicateHeard State.enterListenOnly
  dsimp only
  have raised := fun q => (raise_proceeds s q).limits w
  split <;> try exact w
  all_goals
    split
    · exact ((raised _).setStartup _).setStartup _
    · exact (((raised _).setStartup _).setStartup _).setLink
        ⟨Nat.zero_le _, (raised _).link.unsent, (raised _).link.occupancy⟩

theorem judgeFrame_within {s : State} (w : s.Within) (bytes : List Byte) (rx : FrameRx) : (s.judgeFrame bytes rx).Within := by
  unfold State.judgeFrame
  split
  · exact w.setLink ⟨w.link.notices, w.link.unsent, w.link.occupancy⟩
  · split
    · exact duplicateHeard_within w rx
    · exact (takeFrame_proceeds s _ rx).limits w

theorem execFrameComplete_keepsLimits (bytes : List Byte) (s : State) : KeepsLimits s (execFrameComplete bytes s) := by
  unfold execFrameComplete
  split
  · exact idle s
  · split
    · split
      · exact next fun w => w.setLink ⟨w.link.notices, w.link.unsent, w.link.occupancy⟩
      · split
        · exact next fun w => judgeFrame_within (s := s.setLink { s.link with rx := none })
            (w.setLink ⟨w.link.notices, w.link.unsent, w.link.occupancy⟩) _ _
        · exact idle s
    · exact idle s

theorem execAttemptStart_keepsLimits (s : State) : KeepsLimits s (execAttemptStart s) := by
  unfold execAttemptStart
  split
  · exact idle s
  · split
    · exact next fun w => w.setLink ⟨w.link.notices, w.link.unsent, w.link.occupancy⟩
    · exact idle s

theorem execCollision_keepsLimits (s : State) : KeepsLimits s (execCollision s) := by
  unfold execCollision
  split
  · rename_i q rest _ queue
    have length : s.link.queue.length = rest.length + 1 := by rw [queue]; rfl
    split
    · exact next fun w => w.setLink (w.link.of_lists (by simp [length]) (by rfl) (by rfl))
    · refine next fun w => ?_
      have dropped : (s.setLink ({ s.link with
          queue := rest, quietCount := 0, noticeDrops := addCount s.link.noticeDrops 1 }).atRest).Within :=
        w.setLink (w.link.of_lists (by simp [ShelfLink.atRest, length]) (by rfl) (by rfl))
      split
      · exact dropped.reportWithdrawal
      · exact dropped
  · exact idle s

theorem execNoticeCommitted_keepsLimits (s : State) : KeepsLimits s (execNoticeCommitted s) := by
  unfold execNoticeCommitted
  split
  · rename_i q rest _ queue
    exact next fun w => w.setLink (w.link.of_lists (by simp [queue]) (by rfl) (by rfl))
  · exact idle s

theorem execFrameSent_keepsLimits (s : State) : KeepsLimits s (execFrameSent s) := by
  unfold execFrameSent
  split
  · rename_i q _ _
    refine next fun w => ?_
    have sent : (s.setLink ({ s.link with
        unsent := s.link.unsent.filter (fun e => !q.carried.contains e.uid), committed := none }).atRest).Within :=
      w.setLink (w.link.of_lists (by rfl) (List.length_filter_le ..) (by rfl))
    split
    · exact sent.reportWithdrawal
    · exact sent
  · exact idle s

theorem execOccupancyBucketEnd_keepsLimits (s : State) : KeepsLimits s (execOccupancyBucketEnd s) := by
  unfold execOccupancyBucketEnd
  split
  · refine next fun w => w.setLink ⟨w.link.notices, w.link.unsent, ?_⟩
    have := w.link.occupancy
    simp [this]
  · exact idle s

/-! ### Evidence port -/

/-- The ten counts are no limit (R183). -/
theorem reduceCounts_within {s : State} (w : s.Within) (reported : List Nat) : (s.reduceCounts reported).Within where
  port := w.port.of_queue (by rfl)
  tally := w.tally
  cues := w.cues
  references := w.references
  loudness := w.loudness
  verdicts := w.verdicts
  captions := ⟨w.captions.timeline, w.captions.covered, w.captions.progCovered⟩
  link := ⟨w.link.notices, w.link.unsent, w.link.occupancy⟩
  log := ⟨w.log.records, w.log.causes⟩
  pulses := w.pulses
  peers := ⟨w.peers.peers, w.peers.stations, w.peers.stores, w.peers.noted, w.peers.cache, w.peers.proxies⟩

theorem commit_within {s : State} (w : s.Within) (e : CommitEffect) : (s.commit e).Within := by
  unfold State.commit
  split
  · exact w
  · exact reduceCounts_within w _
  all_goals exact w.setEvidence _

theorem execReadingRequestCommit_keepsLimits (s : State) : KeepsLimits s (execReadingRequestCommit s) := by
  unfold execReadingRequestCommit
  split
  · exact idle s
  · exact next fun w => commit_within (w.setEvidence _) _

theorem ackThrough_length (n : Nat) : ∀ l : List BreachRecord, (ackThrough n l).length = l.length
  | [] => rfl
  | r :: rest => by
    unfold ackThrough
    split
    · rfl
    · simp [ackThrough_length n rest]

theorem BreachLog.Within.acknowledge {l : BreachLog} (w : l.Within) (n : Nat) : (l.acknowledge n).Within := by
  unfold BreachLog.acknowledge
  split
  · exact w
  · exact ⟨(ackThrough_length _ _).le.trans w.records, w.causes⟩

theorem execUnknownRequest_keepsLimits (code : Byte) (s : State) : KeepsLimits s (execUnknownRequest code s) :=
  request _ fun w => w.setEvidence _

theorem execReadSummary_keepsLimits (s : State) : KeepsLimits s (execReadSummary s) := request _ fun w => w.answer _ _

theorem execLogRewind_keepsLimits (s : State) : KeepsLimits s (execLogRewind s) := request _ fun w => w.answer _ _

theorem execLogAck_keepsLimits (number : BitVec 16) (s : State) : KeepsLimits s (execLogAck number s) :=
  request _ fun w => (w.setLog (w.log.acknowledge number.toNat)).answer _ _

theorem execVerdictRewind_keepsLimits (s : State) : KeepsLimits s (execVerdictRewind s) :=
  request _ fun w => w.answer _ _

theorem execHoldList_keepsLimits (s : State) : KeepsLimits s (execHoldList s) := request _ fun w => w.answer _ _

theorem execLogNext_keepsLimits (s : State) : KeepsLimits s (execLogNext s) :=
  request _ fun w => by split <;> exact w.answer _ _

theorem execVerdictNext_keepsLimits (s : State) : KeepsLimits s (execVerdictNext s) :=
  request _ fun w => by split <;> exact w.answer _ _

theorem placeController_proceeds (s : State) (a b : Option Nat) : Proceeds s (s.placeController a b).1 := by
  unfold State.placeController
  split
  · exact placeHold_proceeds s _ _ _ _
  · exact Proceeds.refl s

theorem execHoldPlace_keepsLimits (a b c d : Word32) (s : State) : KeepsLimits s (execHoldPlace a b c d s) :=
  request _ fun w => ((placeController_proceeds s _ _).limits w).answer _ _

theorem execHoldRelease_keepsLimits (slot : Byte) (s : State) : KeepsLimits s (execHoldRelease slot s) := by
  refine request _ fun w => ?_
  split
  · exact w.answer _ _
  · exact ((releaseHold_proceeds s _).limits w).answer _ _

theorem execUnitSeek_keepsLimits (slot : Byte) (a b : Word32) (s : State) : KeepsLimits s (execUnitSeek slot a b s) :=
  request _ fun w => by split <;> exact w.answer _ _

theorem execUnitRead_keepsLimits (s : State) : KeepsLimits s (execUnitRead s) := by
  refine request _ fun w => ?_
  split
  · exact w.answer _ _
  · split
    · exact w.answer _ _
    · split <;> exact w.answer _ _

/-! ### Every command -/

/-- Every command keeps the limits. -/
theorem exec_keepsLimits (c : Instr) (s : State) : KeepsLimits s (exec c s) := by
  cases c with
  | fullReset => exact execFullReset_keepsLimits s
  | configLoaded bytes => exact execConfigLoaded_keepsLimits bytes s
  | memoryCheckDone failed => exact execMemoryCheckDone_keepsLimits failed s
  | listeningEnd => exact proceeds (listeningEnd_proceeds s)
  | oscillatorTick => exact execOscillatorTick_keepsLimits s
  | unitHeaderComplete bytes => exact execUnitHeaderComplete_keepsLimits bytes s
  | payloadComplete payload => exact execPayloadComplete_keepsLimits payload s
  | unitDelivery => exact execUnitDelivery_keepsLimits s
  | recorderWriteComplete => exact execRecorderWriteComplete_keepsLimits s
  | markUnitWrite => exact execMarkUnitWrite_keepsLimits s
  | overrunExpiry => exact proceeds (overrunExpiry_proceeds s)
  | audioAbsentDeadline => exact proceeds (audioAbsentDeadline_proceeds s)
  | qualitySilenceExpiry => exact proceeds (qualitySilenceExpiry_proceeds s)
  | tallyBucketBoundary => exact proceeds (tallyBucketBoundary_proceeds s)
  | recoveryExpiry => exact proceeds (recoveryExpiry_proceeds s)
  | historyEntryExpiry => exact proceeds (historyEntryExpiry_proceeds s)
  | referenceSilenceExpiry => exact proceeds (referenceSilenceExpiry_proceeds s)
  | holdoverExpiry => exact proceeds (holdoverExpiry_proceeds s)
  | lineBusy => exact next fun w => w.setLink ⟨w.link.notices, w.link.unsent, w.link.occupancy⟩
  | lineQuiet received => exact execLineQuiet_keepsLimits received s
  | frameStart => exact execFrameStart_keepsLimits s
  | frameComplete bytes => exact execFrameComplete_keepsLimits bytes s
  | attemptStart => exact execAttemptStart_keepsLimits s
  | collision => exact execCollision_keepsLimits s
  | noticeCommitted => exact execNoticeCommitted_keepsLimits s
  | frameSent => exact execFrameSent_keepsLimits s
  | occupancyBucketEnd => exact execOccupancyBucketEnd_keepsLimits s
  | statusTimerExpiry => exact proceeds (statusTimerExpiry_proceeds s)
  | downshiftDeadline => exact proceeds (downshiftDeadline_proceeds s)
  | peerStaleDeadline station => exact proceeds (peerStaleDeadline_proceeds s station)
  | peerRemovalDeadline station => exact proceeds (peerRemovalDeadline_proceeds s station)
  | divergenceExpiry => exact proceeds (divergenceExpiry_proceeds s)
  | proxyDeadline => exact proceeds (proxyDeadline_proceeds s)
  | holdIntervalClose slot => exact proceeds (holdIntervalClose_proceeds s slot.toNat)
  | holdMaxLengthExpiry slot => exact proceeds (holdMaxLengthExpiry_proceeds s slot.toNat)
  | pulseEnd line => exact proceeds (endPulse_proceeds s line.toNat)
  | chipSelectRise => exact next fun w => w.setEvidence _
  | readingRequestCommit => exact execReadingRequestCommit_keepsLimits s
  | unknownRequest code => exact execUnknownRequest_keepsLimits code s
  | readSummary => exact execReadSummary_keepsLimits s
  | logNext => exact execLogNext_keepsLimits s
  | logRewind => exact execLogRewind_keepsLimits s
  | logAck number => exact execLogAck_keepsLimits number s
  | verdictNext => exact execVerdictNext_keepsLimits s
  | verdictRewind => exact execVerdictRewind_keepsLimits s
  | holdList => exact execHoldList_keepsLimits s
  | holdPlace a b c d => exact execHoldPlace_keepsLimits a b c d s
  | holdRelease slot => exact execHoldRelease_keepsLimits slot s
  | unitSeek slot seconds micros => exact execUnitSeek_keepsLimits slot seconds micros s
  | unitRead => exact execUnitRead_keepsLimits s
  | restart => exact execRestart_keepsLimits s
  | restartSequence => exact execRestartSequence_keepsLimits s
  | missingDelimiter first second => exact execMissingDelimiter_keepsLimits first second s

/-- Settles O3: a step idles, or runs the front command on the state with the queue's rest, which is no limit. -/
theorem everyStepKeepsLimits : Obligations.EveryStepKeepsLimits := by
  intro s t w h
  unfold step at h
  split at h
  · exact Host.Outcome.next.inj h ▸ w
  · exact exec_keepsLimits _ _ t h { w with }

end Sys2Proof.Machine
end

section
/-! PROOF. The Media Port: the header found (R1), the framing check and its recovery (R2), arrival and admission (R4, R5), the
payload check (R3), its deadlines (R6, R12). Settles O31, O32, O33 and O34. -/

namespace Sys2Proof.Machine

/-! ### The header found (R1) -/

/-- Hunting passes over bytes that hold no delimiter, up to the header behind them (R1). -/
theorem huntHeader_behind {h : List Byte} (length : h.length = 16) (first : byteAt h 0 = 0xB4)
    (second : byteAt h 1 = 0x4B) : ∀ junk : List Byte,
    (∀ i, i < junk.length → ¬ (byteAt (junk ++ h) i = 0xB4 ∧ byteAt (junk ++ h) (i + 1) = 0x4B)) →
    huntHeader (junk ++ h) = some h
  | [], _ => by
    match h, length with
    | b :: rest, length =>
      have fifteen : rest.length = 15 := Nat.succ.inj length
      have isFirst : b = 0xB4 := first
      have isSecond : byteAt rest 0 = 0x4B := second
      simp [huntHeader, isFirst, isSecond, fifteen]
  | b :: junk, clean => by
    have here := clean 0 (Nat.succ_pos _)
    have later := huntHeader_behind length first second junk fun i hi => clean (i + 1) (Nat.succ_lt_succ hi)
    rw [List.cons_append, huntHeader, if_neg, later]
    intro delimiter
    simp only [Bool.and_eq_true, beq_iff_eq] at delimiter
    exact here ⟨delimiter.1.1, delimiter.1.2⟩

/-- The bytes examined end in the header `h`: the bytes themselves when framed, behind bytes without a delimiter when
hunting (R1). -/
def MediaPort.EndsIn (p : MediaPort) (bytes h : List Byte) : Prop :=
  (p.framing = .framed ∧ bytes = h) ∨
    (p.framing = .hunting ∧ ∃ junk : List Byte, p.huntByte.toList ++ bytes = junk ++ h ∧
      ∀ i, i < junk.length → ¬ (byteAt (junk ++ h) i = 0xB4 ∧ byteAt (junk ++ h) (i + 1) = 0x4B))

theorem MediaPort.headerIn_of_endsIn {p : MediaPort} {bytes h : List Byte} (length : h.length = 16)
    (first : byteAt h 0 = 0xB4) (second : byteAt h 1 = 0x4B) (ends : p.EndsIn bytes h) :
    p.headerIn bytes = some h := by
  unfold MediaPort.headerIn
  rcases ends with ⟨framed, rfl⟩ | ⟨hunting, junk, examined, clean⟩
  · rw [framed]
    exact if_pos ⟨length, first, second⟩
  · rw [hunting]
    exact examined ▸ huntHeader_behind length first second junk clean

/-- What UNIT_HEADER_COMPLETE does with a header found (R2, R4). -/
theorem exec_unitHeaderComplete {s : State} {bytes h : List Byte} (at_ : s.atHeader = true)
    (found : s.port.headerIn bytes = some h) : exec (.unitHeaderComplete bytes) s =
      match framedKind (readUnitHeader h) with
      | none => .next (s.setPort (s.port.afterHeader (readUnitHeader h)))
      | some k => .next ((s.setPort (s.port.afterHeader (readUnitHeader h))).arrive k (readUnitHeader h)) := by
  show execUnitHeaderComplete bytes s = _
  unfold execUnitHeaderComplete
  rw [if_pos at_, found] <;> rfl

/-! ### The framing check (R2) -/

/-- A header passes the framing check exactly with a kind code and a length of the table (R2). -/
theorem framedKind_isSome_iff (h : UnitHeader) : (framedKind h).isSome = true ↔
    (h.kindCode = 1 ∧ 7 ≤ h.length ∧ h.length ≤ 34564) ∨ (h.kindCode = 2 ∧ 1 ≤ h.length ∧ h.length ≤ 16384) ∨
      (h.kindCode = 3 ∧ 12 ≤ h.length ∧ h.length ≤ 268) ∨ (h.kindCode = 4 ∧ h.length = 16) ∨
      (h.kindCode = 5 ∧ h.length = 6) ∨ (h.kindCode = 6 ∧ h.length = 2) := by
  unfold framedKind UnitKind.ofCode?
  split
  · rename_i none_
    split at none_ <;> simp_all
  · rename_i k some_
    split at some_ <;> simp_all [lengthPermitted] <;> obtain rfl := some_ <;> simp

/-- The port behind a header that passes the framing check (R1, R2). -/
theorem MediaPort.afterHeader_framed {p : MediaPort} {h : UnitHeader} {k : UnitKind} (passes : framedKind h = some k) :
    p.afterHeader h = { p with huntByte := none, framing := .framed } := by
  simp [MediaPort.afterHeader, passes]

/-- The port behind a header that fails the framing check (R2). -/
theorem MediaPort.afterHeader_rejected {p : MediaPort} {h : UnitHeader} (fails : framedKind h = none) :
    p.afterHeader h = { p with
      huntByte := none
      framing := if h.length ≤ 16384 then .framed else .hunting
      framingErrors := addCount p.framingErrors 1 } := by
  simp [MediaPort.afterHeader, fails]

/-- A drop keeps all of the port but the overrun run and the count of drops (R5, R6). -/
theorem dropUnit_port (s : State) : ∃ run, s.dropUnit.port =
    { s.port with inputDrops := addCount s.port.inputDrops 1, overrun := run } := by
  unfold State.dropUnit
  dsimp only
  split
  · exact ⟨_, rfl⟩
  · exact ⟨_, (raise_keeps _ _).port⟩

/-- Whatever becomes of a unit that arrives, the framing and its errors are as they were (R4, R5). -/
theorem arrive_framing (s : State) (k : UnitKind) (h : UnitHeader) :
    (s.arrive k h).port.framing = s.port.framing ∧ (s.arrive k h).port.framingErrors = s.port.framingErrors := by
  have admitted : ∀ t : State, t = (if s.port.hasRoom h.length then s.enqueue k h else s.dropUnit) →
      t.port.framing = s.port.framing ∧ t.port.framingErrors = s.port.framingErrors := by
    rintro t rfl
    split
    · exact ⟨rfl, rfl⟩
    · obtain ⟨run, port⟩ := dropUnit_port s
      rw [port]
      exact ⟨rfl, rfl⟩
  unfold State.arrive
  split
  · exact ⟨rfl, rfl⟩
  · exact ⟨rfl, rfl⟩
  · exact admitted _ rfl
  · exact admitted _ rfl
  · exact admitted _ rfl
  · exact ⟨rfl, rfl⟩

/-- Settles O31. -/
theorem framingCheck : Obligations.FramingCheck := by
  intro s at_
  refine ⟨fun bytes h length first second ends => ?_, fun a b framed missing => ?_⟩
  · have found := MediaPort.headerIn_of_endsIn length first second ends
    have table := framedKind_isSome_iff (readUnitHeader h)
    dsimp only
    rw [exec_unitHeaderComplete at_ found]
    cases kind : framedKind (readUnitHeader h) with
    | none =>
      rw [kind] at table
      refine ⟨fun _ => ?_, fun permitted => absurd (table.mpr permitted) (by simp)⟩
      dsimp only
      rw [MediaPort.afterHeader_rejected kind]
      rfl
    | some k =>
      rw [kind] at table
      refine ⟨fun rejected => absurd (table.mp rfl) rejected, fun _ => ⟨_, rfl, ?_⟩⟩
      rw [MediaPort.afterHeader_framed kind]
      exact arrive_framing _ _ _
  · show execMissingDelimiter a b s = _
    unfold execMissingDelimiter
    rw [if_pos]
    simpa [at_, framed, imp_iff_not_or] using missing

/-! ### Arrival and admission (R4, R5) -/

theorem MediaPort.hasRoom_iff (p : MediaPort) (n : Nat) : p.hasRoom n = true ↔
    p.queue.length < 64 ∧ (p.queue.map (fun u => u.length)).sum + n ≤ 262144 := by
  unfold MediaPort.hasRoom MediaPort.held
  rw [Bool.and_eq_true, decide_eq_true_eq, decide_eq_true_eq]
  exact Iff.rfl

/-- In the live states a unit is admitted where there is room, else dropped (R5). -/
theorem arrive_live {s : State} (live : s.live = true) (k : UnitKind) (h : UnitHeader) :
    s.arrive k h = if s.port.hasRoom h.length then s.enqueue k h else s.dropUnit := by
  unfold State.live at live
  unfold State.arrive
  split at live <;> simp_all

/-- What a drop does to the run of drops, and when INPUT_OVERRUN opens (R6). -/
theorem dropUnit_running {s : State} {run : OverrunRun} (running : s.port.overrun = some run) :
    s.dropUnit = s.setPort { s.port with
      inputDrops := addCount s.port.inputDrops 1, overrun := some ⟨s.nowStamp, addCount run.count 1⟩ } := by
  simp [State.dropUnit, running]

theorem dropUnit_first {s : State} (first : s.port.overrun = none) :
    s.dropUnit = (s.setPort { s.port with
      inputDrops := addCount s.port.inputDrops 1, overrun := some ⟨s.nowStamp, 1⟩ }).raise
        { category := .inputOverrun, startStamp := s.nowStamp } := by
  simp [State.dropUnit, first]

/-- Settles O32. -/
theorem admission : Obligations.Admission := by
  intro s bytes h k length first second code permitted ends
  have found := MediaPort.headerIn_of_endsIn length first second ends
  have kind : framedKind (readUnitHeader h) = some k := by
    unfold framedKind
    rw [show UnitKind.ofCode? (readUnitHeader h).kindCode = some k from code]
    exact if_pos permitted
  refine ⟨fun fault => ?_, fun at_ => ?_⟩
  · show execUnitHeaderComplete bytes s = _
    have away : s.atHeader = false := by simp [State.atHeader, fault]
    unfold execUnitHeaderComplete
    rw [away]
    rfl
  rw [exec_unitHeaderComplete at_ found, kind, MediaPort.afterHeader_framed kind]
  dsimp only
  let framed : State := s.setPort { s.port with huntByte := none, framing := .framed }
  refine ⟨fun starting => ?_, fun live units fits => ?_, fun live full => ?_⟩
  · show Host.Outcome.next (framed.arrive k (readUnitHeader h)) = _
    unfold State.arrive
    rcases starting with loading | checking
    · rw [show framed.startup.station = .loading from loading]
      rfl
    · rw [show framed.startup.station = .checking from checking]
      rfl
  · rw [arrive_live (show framed.live = true from live), if_pos]
    · rfl
    · exact (MediaPort.hasRoom_iff _ _).mpr ⟨units, fits⟩
  · rw [arrive_live (show framed.live = true from live), if_neg]
    · refine ⟨framed.dropUnit, rfl, ?_⟩
      obtain ⟨run, port⟩ := dropUnit_port framed
      rw [port]
      refine ⟨rfl, rfl, rfl, rfl, rfl, fun run running => ?_, fun none_ => ?_⟩
      · have dropped := dropUnit_running (s := framed) running
        refine ⟨?_, by rw [dropped]; rfl⟩
        rw [← port, dropped]
        rfl
      · have dropped := dropUnit_first (s := framed) none_
        have overrun : framed.dropUnit.port.overrun = some ⟨s.nowStamp, 1⟩ := by
          rw [dropped, (raise_keeps _ _).port]
          rfl
        rw [port] at overrun
        refine ⟨overrun, ?_⟩
        rw [dropped]
        obtain rfl := overrun
        rfl
    · intro room
      obtain ⟨units, fits⟩ := (MediaPort.hasRoom_iff _ _).mp room
      rcases full with full | full
      · exact absurd units (Nat.not_lt.mpr full)
      · exact absurd fits (Nat.not_le.mpr full)

/-! ### The payload check (R3) -/

theorem SegClass.ofCode?_isSome (n : Nat) : (SegClass.ofCode? n).isSome = true ↔ 1 ≤ n ∧ n ≤ 4 := by
  rcases n with _ | _ | _ | _ | _ | n <;> simp [SegClass.ofCode?]

theorem Scope.ofCode?_isSome (n : Nat) : (Scope.ofCode? n).isSome = true ↔ 1 ≤ n ∧ n ≤ 2 := by
  rcases n with _ | _ | _ | n <;> simp [Scope.ofCode?]

/-- A payload that R3 calls malformed for its kind. -/
def PayloadMalformed (k : UnitKind) (p : List Byte) : Prop :=
  match k with
  | .audio =>
    ¬ ((byteAt p 0).toNat = 1 ∨ (byteAt p 0).toNat = 2 ∨ (byteAt p 0).toNat = 6) ∨
      ¬ (1 ≤ natAt p 2 2 ∧ natAt p 2 2 ≤ 1920) ∨ p.length ≠ 4 + 3 * (byteAt p 0).toNat * natAt p 2 2
  | .payload => False
  | .caption => 256 < natAt p 10 2 ∨ p.length ≠ natAt p 10 2 + 12
  | .cue => ¬ (1 ≤ (byteAt p 8).toNat ∧ (byteAt p 8).toNat ≤ 4) ∨ ¬ (1 ≤ (byteAt p 9).toNat ∧ (byteAt p 9).toNat ≤ 2)
  | .time => 999 < natAt p 4 2
  | .quality => 100 < (byteAt p 0).toNat

theorem payloadWellFormed_iff (k : UnitKind) (p : List Byte) : payloadWellFormed k p = true ↔ ¬ PayloadMalformed k p := by
  cases k with
  | audio =>
    simp only [payloadWellFormed, PayloadMalformed, Bool.and_eq_true, Bool.or_eq_true, beq_iff_eq, decide_eq_true_eq,
      not_or, ne_eq, and_assoc, or_assoc, not_not]
    rw [← not_or, ← not_or, not_not]
    exact Iff.rfl
  | payload => simp [payloadWellFormed, PayloadMalformed]
  | caption =>
    simp only [payloadWellFormed, PayloadMalformed, Bool.and_eq_true, beq_iff_eq, decide_eq_true_eq, not_or, not_not,
      ne_eq, not_lt]
    exact and_congr_right fun _ => eq_comm
  | cue =>
    simp only [payloadWellFormed, PayloadMalformed, Bool.and_eq_true, SegClass.ofCode?_isSome, Scope.ofCode?_isSome,
      not_or, not_not]
  | time => simp [payloadWellFormed, PayloadMalformed]
  | quality => simp [payloadWellFormed, PayloadMalformed]

/-- Settles O33. -/
theorem payloadCheck : Obligations.PayloadCheck := by
  intro s older u p station queue arriving length
  have last : s.port.queue.getLast? = some u := by rw [queue, List.getLast?_concat]
  have front : s.port.queue.dropLast = older := by rw [queue, List.dropLast_concat]
  have run : exec (.payloadComplete p) s = if payloadWellFormed u.kind p then
      .next (s.setPort { s.port with queue := older ++ [{ u with payload := some p }] })
    else .next (s.setPort { s.port with queue := older, framingErrors := addCount s.port.framingErrors 1 }) := by
    show execPayloadComplete p s = _
    unfold execPayloadComplete
    rw [last]
    dsimp only
    rw [if_pos ⟨station, arriving, length⟩, front]
  rw [run]
  exact ⟨fun sound => if_pos ((payloadWellFormed_iff u.kind p).mpr sound),
    fun malformed => if_neg fun sound => (payloadWellFormed_iff u.kind p).mp sound malformed⟩

/-! ### Deadlines (R6, R12) -/

/-- Settles O34. -/
theorem mediaDeadlines : Obligations.MediaDeadlines := by
  intro s
  have overrun : exec .overrunExpiry s = .next s.overrunExpiry := rfl
  have absent : exec .audioAbsentDeadline s = .next s.audioAbsentDeadline := rfl
  rw [overrun, absent]
  unfold State.overrunExpiry State.audioAbsentDeadline
  refine ⟨fun run running => ?_, fun none_ => by rw [none_], fun r reference => ?_⟩
  · rw [running]
    dsimp only
    refine ⟨fun station due => by rw [if_pos ⟨station, due⟩], fun early => ?_⟩
    rw [if_neg fun due => absurd due.2 (Nat.not_le.mpr early)]
  · rw [reference]
    dsimp only
    refine ⟨fun live closed due => by rw [if_pos ⟨live, closed, due⟩], fun early => ?_⟩
    rw [if_neg]
    rintro ⟨-, closed, due⟩
    rcases early with isOpen | early
    · exact absurd isOpen (by simp [closed])
    · exact absurd due (Nat.not_le.mpr early)

end Sys2Proof.Machine
end

section
/-! PROOF. What a record of a category that retains no evidence does and leaves alone (R169, R172), and the statements that
turn on it: the evaluation and the deadlines of the Reception Monitor (R14 to R16), and the end of the memory check (R40,
R191). Settles O37, O38 and O12. -/

namespace Sys2Proof.Machine

/-! ### Reports: records, notices, pulses -/

/-- The second state differs from the first in the Breach Log, the alarm pulses, the log cursor and the shelf link alone. -/
structure OnlyReports (s t : State) : Prop where
  measured      : KeepsMeasured s t
  recorder      : t.recorder = s.recorder
  peers         : t.peers = s.peers
  txn           : t.evidence.txn = s.evidence.txn
  unitCursor    : t.evidence.unitCursor = s.evidence.unitCursor
  verdictCursor : t.evidence.verdictCursor = s.evidence.verdictCursor

namespace OnlyReports

variable {s t u : State}

theorem refl (s : State) : OnlyReports s s := ⟨.refl s, rfl, rfl, rfl, rfl, rfl⟩

theorem trans (a : OnlyReports s t) (b : OnlyReports t u) : OnlyReports s u :=
  ⟨a.measured.trans b.measured, b.recorder.trans a.recorder, b.peers.trans a.peers, b.txn.trans a.txn,
    b.unitCursor.trans a.unitCursor, b.verdictCursor.trans a.verdictCursor⟩

theorem setLog (h : OnlyReports s t) (x : BreachLog) : OnlyReports s (t.setLog x) :=
  ⟨h.measured.setLog x, h.recorder, h.peers, h.txn, h.unitCursor, h.verdictCursor⟩

theorem setAlarms (h : OnlyReports s t) (x : AlarmDriver) : OnlyReports s (t.setAlarms x) :=
  ⟨h.measured.setAlarms x, h.recorder, h.peers, h.txn, h.unitCursor, h.verdictCursor⟩

theorem setLink (h : OnlyReports s t) (x : ShelfLink) : OnlyReports s (t.setLink x) :=
  ⟨h.measured.setLink x, h.recorder, h.peers, h.txn, h.unitCursor, h.verdictCursor⟩

theorem setLogCursor (h : OnlyReports s t) (c : Option Nat) :
    OnlyReports s (t.setEvidence { t.evidence with logCursor := c }) :=
  ⟨h.measured.setEvidence _, h.recorder, h.peers, h.txn, h.unitCursor, h.verdictCursor⟩

end OnlyReports

theorem triggerPulses_reports (s : State) (w : LineConfig → Bool) : OnlyReports s (s.triggerPulses w) := by
  unfold State.triggerPulses
  split
  · exact .refl s
  · exact (OnlyReports.refl s).setAlarms _

theorem appendRecord_reports (s : State) (r : BreachRecord) : OnlyReports s (s.appendRecord r) := by
  unfold State.appendRecord
  split
  · exact ((OnlyReports.refl s).setLog _).setLogCursor _
  · exact (OnlyReports.refl s).setLog _

theorem discardRecord_reports (s : State) (r : BreachRecord) : OnlyReports s (s.discardRecord r) := by
  unfold State.discardRecord
  split
  · exact ((OnlyReports.refl s).setLog _).setLogCursor _
  · exact (OnlyReports.refl s).setLog _

theorem storeRecord_reports (s : State) (r : BreachRecord) : OnlyReports s (s.storeRecord r).1 := by
  unfold State.storeRecord State.refuseRecord
  split
  · exact appendRecord_reports s r
  · split
    · exact (discardRecord_reports s _).trans (appendRecord_reports _ r)
    · split
      · exact (OnlyReports.refl s).setLog _
      · exact ((OnlyReports.refl s).setLog _).trans (triggerPulses_reports _ _)

theorem offer_reports (s : State) (n : Notice) (c : List Nat) : OnlyReports s (s.offer n c) := by
  unfold State.offer
  split
  · exact (OnlyReports.refl s).setLink _
  · exact .refl s

theorem upshift_reports (s : State) : OnlyReports s s.upshift := by
  unfold State.upshift
  split
  · dsimp only
    split
    · exact (OnlyReports.refl s).setLink _
    · exact ((((OnlyReports.refl s).setLink _).setLink _).trans (offer_reports _ _ _)).setLink _
  · exact .refl s

theorem announce_reports (s : State) (q : BreachRequest) (n : Notice) : OnlyReports s (s.announce q n) := by
  have offered : OnlyReports s (if q.category.shared then s.offer n [] else s) := by
    split
    · exact offer_reports s n []
    · exact .refl s
  unfold State.announce
  dsimp only
  split
  · exact offered.trans (upshift_reports _)
  · exact offered

theorem enterRecord_reports (s : State) (q : BreachRequest) : OnlyReports s (s.enterRecord q).1 := by
  unfold State.enterRecord
  dsimp only
  have stored := ((((OnlyReports.refl s).setLog { s.log with nextNumber := numberAfter s.log.drawn }).trans
    (triggerPulses_reports _ (fun l => l.watches q.category))).trans (storeRecord_reports _ (s.recordOf q s.log.drawn)))
  split
  · exact stored.setLog _
  · exact stored

/-- A category that retains no evidence places no hold: its creation is steps 1 to 3 and 5 to 7 of R169. -/
theorem raise_plain {q : BreachRequest} (plain : q.category.retains = false) (s : State) :
    s.raise q = (s.enterRecord q).1.announce q (s.noticeOf q (s.enterRecord q).2.1) := by
  unfold State.raise State.createBreach State.holdForRecord
  simp [plain]

theorem raise_reports {q : BreachRequest} (plain : q.category.retains = false) (s : State) :
    OnlyReports s (s.raise q) :=
  raise_plain plain s ▸ (enterRecord_reports s q).trans (announce_reports _ _ _)

/-! ### The log behind a report -/

@[simp] theorem triggerPulses_log (s : State) (w : LineConfig → Bool) : (s.triggerPulses w).log = s.log := by
  unfold State.triggerPulses
  split <;> rfl

@[simp] theorem offer_log (s : State) (n : Notice) (c : List Nat) : (s.offer n c).log = s.log := by
  unfold State.offer
  split <;> rfl

@[simp] theorem upshift_log (s : State) : s.upshift.log = s.log := by
  unfold State.upshift State.offerStatus
  split
  · dsimp only
    split
    · rfl
    · exact offer_log _ _ _
  · rfl

@[simp] theorem announce_log (s : State) (q : BreachRequest) (n : Notice) : (s.announce q n).log = s.log := by
  unfold State.announce
  dsimp only
  split <;> split <;> simp

theorem appendRecord_log (s : State) (r : BreachRecord) : (s.appendRecord r).log = { s.log with
    records := s.log.records ++ [{ r with serial := s.log.nextSerial }], nextSerial := s.log.nextSerial + 1 } := by
  unfold State.appendRecord
  split <;> rfl

/-- What storing leaves of the records: the old ones that stay, and the new one last where there was room (R172). -/
theorem storeRecord_log (s : State) (r : BreachRecord) :
    (s.storeRecord r).1.log.causes = s.log.causes ∧
    (s.log.records.length < 128 →
      (s.storeRecord r).1.log.records = s.log.records ++ [{ r with serial := s.log.nextSerial }]) ∧
    ∀ x ∈ (s.storeRecord r).1.log.records, x ∈ s.log.records ∨ ∃ k, x = { r with serial := k } := by
  unfold State.storeRecord
  split
  · rw [appendRecord_log]
    refine ⟨rfl, fun _ => rfl, fun x hx => ?_⟩
    rcases List.mem_append.mp hx with old | new
    · exact .inl old
    · exact .inr ⟨_, List.mem_singleton.mp new⟩
  · rename_i full
    refine ⟨?_, fun room => absurd room full, ?_⟩
    all_goals split
    · rw [appendRecord_log]
      unfold State.discardRecord
      split <;> rfl
    · unfold State.refuseRecord State.pulseForLogFull
      split <;> simp
    · rename_i old _
      have left : (s.discardRecord old).log.records = s.log.records.filter (fun x => x.serial != old.serial) := by
        unfold State.discardRecord
        split <;> rfl
      intro x hx
      rw [appendRecord_log, left] at hx
      rcases List.mem_append.mp hx with kept | new
      · exact .inl (List.mem_of_mem_filter kept)
      · exact .inr ⟨_, List.mem_singleton.mp new⟩
    · have left : s.refuseRecord.log.records = s.log.records := by
        unfold State.refuseRecord State.pulseForLogFull
        split <;> simp
      exact fun x hx => .inl (left ▸ hx)

/-- The causes and records behind a creation that retains no evidence (R169, R170, R172). -/
theorem raise_log {q : BreachRequest} (plain : q.category.retains = false) (s : State) :
    (q.category.hasCause = false → (s.raise q).log.causes = s.log.causes) ∧
    (s.log.records.length < 128 →
      (s.raise q).log.records = s.log.records ++ [{ s.recordOf q s.log.drawn with serial := s.log.nextSerial }]) ∧
    ∀ x ∈ (s.raise q).log.records, x ∈ s.log.records ∨ ∃ n k, x = { s.recordOf q n with serial := k } := by
  rw [raise_plain plain, announce_log]
  unfold State.enterRecord State.pulseForCategory
  obtain ⟨causes, stored, old⟩ := storeRecord_log
    ((s.setLog { s.log with nextNumber := numberAfter s.log.drawn }).triggerPulses (fun l => l.watches q.category))
    (s.recordOf q s.log.drawn)
  rw [triggerPulses_log] at causes stored old
  dsimp only
  have named : ∀ x, (∃ k, x = { s.recordOf q s.log.drawn with serial := k }) →
    ∃ n k, x = { s.recordOf q n with serial := k } := fun x ⟨k, h⟩ => ⟨_, k, h⟩
  split
  · rename_i cause
    rw [Bool.and_eq_true] at cause
    exact ⟨fun noCause => absurd cause.1 (by simp [noCause]), stored, fun x hx => (old x hx).imp_right (named x)⟩
  · exact ⟨fun _ => causes, stored, fun x hx => (old x hx).imp_right (named x)⟩

theorem raise_records {q : BreachRequest} (plain : q.category.retains = false) {s : State}
    (room : s.log.records.length < 128) :
    (s.raise q).log.records = s.log.records ++ [{ s.recordOf q s.log.drawn with serial := s.log.nextSerial }] :=
  (raise_log plain s).2.1 room

/-! ### Judgement without an open CONTENT_DIVERGENT record -/

theorem closeDivergent_closed {s : State} (closed : s.peers.divergentOpen = false) : s.closeDivergent = s := by
  simp [State.closeDivergent, closed]

/-- A judgement with no CONTENT_DIVERGENT record open drives the timer alone (R154, R155). -/
theorem judge_closed {s : State} (closed : s.peers.divergentOpen = false) :
    s.judge = s.setPeers { s.peers with divergence := s.divergenceTimer } := by
  have same := closeDivergent_closed (s := s.setPeers { s.peers with divergence := s.divergenceTimer }) closed
  unfold State.judge
  dsimp only
  rw [same, ite_self]

theorem closeDivergent_judge_log {s : State} (closed : s.peers.divergentOpen = false) :
    s.closeDivergent.judge.log = s.log := by
  rw [closeDivergent_closed closed, judge_closed closed]
  rfl

/-! ### The Reception Monitor (R15, R16) -/

theorem enterImpaired_reception (s : State) (q : Nat) : (s.enterImpaired q).reception =
    { s.reception with state := .impaired, lowest := some q, recoveryStart := none, latch := true } := by
  unfold State.enterImpaired
  dsimp only
  rw [(judge_keeps _).reception, (closeDivergent_keeps _).reception, State.setCaptions_reception, (raise_keeps _ _).reception]
  rfl

/-- RECEPTION_IMPAIRED stands in the log behind an entry to IMPAIRED (R16). -/
theorem enterImpaired_record {s : State} (room : s.log.records.length < 128) (closed : s.peers.divergentOpen = false)
    (q : Nat) : ∃ r ∈ (s.enterImpaired q).log.records,
      r.category = .receptionImpaired ∧ r.isOpen = true ∧ r.startStamp = s.nowStamp := by
  let entered : State := s.setReception { s.reception with
    state := .impaired, lowest := some q, recoveryStart := none, latch := true }
  let request : BreachRequest := { category := .receptionImpaired, startStamp := s.nowStamp }
  have still : (entered.raise request).peers.divergentOpen = false :=
    (raise_reports (q := request) rfl entered).peers ▸ closed
  have same : (s.enterImpaired q).log = (entered.raise request).log :=
    closeDivergent_judge_log (s := (entered.raise request).setCaptions (entered.raise request).captions.noteImpaired) still
  have records := raise_records (q := request) rfl (s := entered) room
  rw [same, records]
  exact ⟨_, List.mem_append_right _ (List.mem_singleton_self _), rfl, rfl, rfl⟩

/-- The reception with its effective quality computed, before it is judged (R15). -/
def ReceptionMonitor.assessed (r : ReceptionMonitor) : ReceptionMonitor := { r with effective := r.quality }

/-- In the grace, and in NORMAL with a quality of Tq or more, nothing is judged (R16). -/
theorem evaluate_unjudged {s : State}
    (still : s.reception.grace = true ∨ (s.reception.state = .normal ∧ s.config.tq ≤ s.reception.quality)) :
    s.evaluate = s.setReception s.reception.assessed := by
  unfold State.evaluate
  dsimp only
  rcases still with grace | ⟨normal, high⟩
  · exact if_pos grace
  · split
    · rfl
    · split
      · exact if_neg (Nat.not_lt.mpr high)
      · rename_i impaired
        exact absurd (normal.symm.trans impaired) (by simp)

theorem evaluate_low {s : State} (grace : s.reception.grace = false) (normal : s.reception.state = .normal)
    (low : s.reception.quality < s.config.tq) :
    s.evaluate = (s.setReception s.reception.assessed).enterImpaired s.reception.quality := by
  unfold State.evaluate
  simp only [State.setReception_reception, grace, normal, low, if_true, Bool.false_eq_true, if_false,
    ReceptionMonitor.assessed]

theorem evaluate_impaired {s : State} (grace : s.reception.grace = false) (impaired : s.reception.state = .impaired) :
    s.evaluate = s.setReception { s.reception with
      effective := s.reception.quality
      lowest := some (min (s.reception.lowest.getD s.reception.quality) s.reception.quality)
      recoveryStart := s.reception.recovering s.config.tq s.reception.quality s.now } := by
  unfold State.evaluate ReceptionMonitor.recovering
  simp only [State.setReception_reception, grace, impaired, Bool.false_eq_true, if_false]
  rfl

/-- An evaluation computes the effective quality from a reported quality and a tally that it leaves alone, as it does the
grace and the silence deadline (R14, R15). -/
theorem evaluate_kept (s : State) : ∃ state recoveryStart lowest latch, s.evaluate.reception =
    { s.reception with
      effective := s.reception.quality
      state := state, recoveryStart := recoveryStart, lowest := lowest, latch := latch } := by
  cases grace : s.reception.grace with
  | true => exact ⟨_, _, _, _, congrArg State.reception (evaluate_unjudged (.inl grace))⟩
  | false =>
    cases state : s.reception.state with
    | impaired => exact ⟨_, _, _, _, congrArg State.reception (evaluate_impaired grace state)⟩
    | normal =>
      rcases Nat.lt_or_ge s.reception.quality s.config.tq with low | high
      · rw [evaluate_low grace state low, enterImpaired_reception]
        exact ⟨_, _, _, _, rfl⟩
      · exact ⟨_, _, _, _, congrArg State.reception (evaluate_unjudged (.inr ⟨state, high⟩))⟩

/-- Settles O37. -/
theorem evaluation : Obligations.Evaluation := by
  intro s
  have quality : s.reception.quality = if (s.reception.tally.map (fun b => b.accepted)).sum <
      10 * (s.reception.tally.map (fun b => b.damaged)).sum then 0 else s.reception.reported := rfl
  dsimp only
  rw [← quality]
  obtain ⟨_, _, _, _, kept⟩ := evaluate_kept s
  refine ⟨by rw [kept], by rw [kept], by rw [kept], evaluate_unjudged, fun grace normal low => ?_, evaluate_impaired⟩
  · rw [evaluate_low grace normal low, enterImpaired_reception]
    exact ⟨rfl, fun room closed => enterImpaired_record (s := s.setReception s.reception.assessed) room closed _⟩

/-- The tally moved on by one interval (R15). -/
theorem ReceptionMonitor.advanceTo_next {r : ReceptionMonitor} {n : Nat} (next : r.tallyInterval + 1 = n) :
    r.advanceTo n = { r with tally := ⟨0, 0⟩ :: r.tally.take 9, tallyInterval := n } := by
  subst next
  unfold ReceptionMonitor.advanceTo
  simp

theorem not_fault_of_live {s : State} (live : s.live = true) : s.startup.station ≠ .fault := by
  intro fault
  simp [State.live, fault] at live

/-- Settles O38. -/
theorem receptionDeadlines : Obligations.ReceptionDeadlines := by
  intro s live
  refine ⟨fun d deadline due => ?_, fun d deadline early => ?_, fun _ next => ?_, fun within => ?_,
    fun start recovering impaired => ⟨fun due => ?_, fun early => ?_⟩⟩
  · show Host.Outcome.next s.qualitySilenceExpiry = _
    unfold State.qualitySilenceExpiry
    rw [if_pos ⟨live, by simpa [deadline, reached] using due⟩]
  · show Host.Outcome.next s.qualitySilenceExpiry = _
    unfold State.qualitySilenceExpiry
    rw [if_neg]
    simpa [deadline, reached] using fun _ => early
  · show Host.Outcome.next s.tallyBucketBoundary = _
    unfold State.tallyBucketBoundary tallyIntervalOf
    rw [if_pos ⟨not_fault_of_live live, by omega⟩, ReceptionMonitor.advanceTo_next next]
  · show Host.Outcome.next s.tallyBucketBoundary = _
    unfold State.tallyBucketBoundary tallyIntervalOf
    rw [if_neg fun crossed => absurd crossed.2 (by omega)]
  · show Host.Outcome.next s.recoveryExpiry = _
    unfold State.recoveryExpiry
    rw [recovering]
    dsimp only
    rw [if_pos ⟨live, impaired, due⟩]
  · show Host.Outcome.next s.recoveryExpiry = _
    unfold State.recoveryExpiry
    rw [recovering]
    dsimp only
    rw [if_neg fun due => absurd due.2.2 (Nat.not_le.mpr early)]

/-! ### The end of the memory check (R40, R191) -/

/-- The records deferred to the entry to LISTENING change nothing but the reports (R40). -/
theorem settleTimeRecords_reports (s : State) : OnlyReports s s.settleTimeRecords := by
  have degraded : Category.retains .timeDegraded = false := rfl
  have suspect : Category.retains .clockSuspect = false := rfl
  unfold State.settleTimeRecords
  dsimp only
  split <;> split
  · exact (raise_reports degraded s).trans (raise_reports suspect _)
  · exact raise_reports degraded s
  · exact raise_reports suspect s
  · exact .refl s

theorem TimeClass.degraded_iff (c : TimeClass) : c.degraded = true ↔ c = .holdover ∨ c = .free := by
  cases c <;> simp [TimeClass.degraded]

theorem TimeClass.not_degraded_iff (c : TimeClass) : c.degraded = false ↔ c = .locked ∨ c = .peer := by
  cases c <;> simp [TimeClass.degraded]

/-- A record of a category, OPEN from a moment. -/
def OpenedAs (category : Category) (start : Stamp) (r : BreachRecord) : Prop :=
  r.category = category ∧ r.isOpen = true ∧ r.startStamp = start

theorem raise_opened {category : Category} (plain : category.retains = false) {s : State} (start : Stamp)
    (room : s.log.records.length < 128) : ∃ r, OpenedAs category start r ∧
      (s.raise { category := category, startStamp := start }).log.records = s.log.records ++ [r] :=
  ⟨_, ⟨rfl, rfl, rfl⟩, raise_records plain room⟩

/-- The deferred records, one clause per case of R40. -/
theorem settleTimeRecords_log (s : State) :
    (s.log.records.length < 127 → s.time.source.degraded = true → s.time.suspect = false →
      ∃ a, s.settleTimeRecords.log.records = s.log.records ++ [a] ∧ OpenedAs .timeDegraded s.nowStamp a) ∧
    (s.log.records.length < 127 → s.time.source.degraded = true → s.time.suspect = true →
      ∃ a b, s.settleTimeRecords.log.records = s.log.records ++ [a, b] ∧ OpenedAs .timeDegraded s.nowStamp a ∧
        OpenedAs .clockSuspect s.nowStamp b) ∧
    (s.log.records.length < 127 → s.time.source.degraded = false → s.time.suspect = true →
      ∃ b, s.settleTimeRecords.log.records = s.log.records ++ [b] ∧ OpenedAs .clockSuspect s.nowStamp b) ∧
    (s.time.suspect = false → s.time.source.degraded = false → s.settleTimeRecords.log = s.log) := by
  unfold State.settleTimeRecords
  refine ⟨fun room degraded steady => ?_, fun room degraded suspect => ?_, fun room sound suspect => ?_,
    fun steady sound => by simp [steady, sound]⟩
  · obtain ⟨a, opened, records⟩ := raise_opened (category := .timeDegraded) rfl s.nowStamp (Nat.lt_succ_of_lt room)
    exact ⟨a, by simpa [degraded, steady] using records, opened⟩
  · obtain ⟨a, openedA, recordsA⟩ := raise_opened (category := .timeDegraded) rfl s.nowStamp (Nat.lt_succ_of_lt room)
    obtain ⟨b, openedB, recordsB⟩ := raise_opened (category := .clockSuspect) rfl s.nowStamp
      (s := s.raise { category := .timeDegraded, startStamp := s.nowStamp }) (by
        rw [recordsA, List.length_append]
        exact Nat.succ_lt_succ room)
    refine ⟨a, b, ?_, openedA, openedB⟩
    simp [degraded, suspect, recordsB, recordsA]
  · obtain ⟨b, opened, records⟩ := raise_opened (category := .clockSuspect) rfl s.nowStamp (Nat.lt_succ_of_lt room)
    exact ⟨b, by simpa [sound, suspect] using records, opened⟩

/-- What MEMORY_CHECK_DONE does in CHECKING (R190, R191). -/
theorem exec_memoryCheckDone {s : State} (checking : s.startup.station = .checking) (failed : CheckReport) :
    exec (.memoryCheckDone failed) s = .next (if firstFailed failed = 0 then
      (s.setStartup { s.startup with checkResult := firstFailed failed }).enterListening
    else (s.setStartup { s.startup with checkResult := firstFailed failed }).enterFault) := if_pos checking

/-- Settles O12: the deferred records are reports, so the rest is as the entry to LISTENING sets it. -/
theorem memoryCheckDone : Obligations.MemoryCheckDone := by
  intro failed s checking
  refine ⟨?_, fun code first failing => ?_, ?_, ?_, ?_, ?_, ?_⟩
  · rintro rfl
    rw [exec_memoryCheckDone checking]
    let entered : State := ((s.setStartup { s.startup with
      station := .listening, checkResult := 0, listeningSince := some s.now }).setPort
        { s.port with audioRef := some s.nowStamp }).setReception
          { s.reception with silenceDeadline := some (s.now + 2 * second) }
    refine ⟨entered.settleTimeRecords, rfl, ?_⟩
    have reports := settleTimeRecords_reports entered
    obtain ⟨degraded, both, suspect, neither⟩ := settleTimeRecords_log entered
    refine ⟨reports.measured.startup, reports.measured.port, reports.measured.reception, fun room source => ?_,
      fun room source => ?_, fun room source => ?_, fun steady source => ?_, reports.measured.segments,
      reports.measured.time, reports.measured.loudness, reports.measured.captions, reports.measured.verdicts,
      reports.recorder, reports.peers⟩
    · exact degraded room ((TimeClass.degraded_iff _).mpr source)
    · exact both room ((TimeClass.degraded_iff _).mpr source)
    · exact suspect room ((TimeClass.not_degraded_iff _).mpr source)
    · exact neither steady ((TimeClass.not_degraded_iff _).mpr source)
  · subst first
    rw [exec_memoryCheckDone checking, if_neg failing]
    exact ⟨_, rfl, rfl, fun i _ => rfl⟩
  · intro one
    simp [firstFailed, one]
  · intro one two
    simp [firstFailed, one, two]
  · intro report
    rw [report]
    rfl
  · intro report
    rw [report]
    rfl
  · rintro rfl
    rfl

end Sys2Proof.Machine
end

section
/-! PROOF. The pending cue list (R19): sorting by a key keeps the order of equal keys, and placing a cue in an ordered list
puts it after those whose start is not later. Settles O39. -/

namespace Sys2Proof.Machine

/-! ### Sorting -/

theorem mem_sortBy {α : Type} (key : α → Nat) {x : α} {l : List α} : x ∈ sortBy key l ↔ x ∈ l := (sortBy_perm key l).mem_iff

/-- An element placed before the first that is not smaller leaves an ordered list ordered. -/
theorem placeBefore_sorted {α : Type} (key : α → Nat) (x : α) : ∀ l : List α, l.Pairwise (fun a b => key a ≤ key b) →
    (placeBefore (fun y => key x ≤ key y) x l).Pairwise (fun a b => key a ≤ key b)
  | [], _ => List.pairwise_singleton _ x
  | y :: ys, h => by
    obtain ⟨first, rest⟩ := List.pairwise_cons.mp h
    unfold placeBefore
    split
    · rename_i before
      have before : key x ≤ key y := by simpa using before
      refine List.pairwise_cons.mpr ⟨fun z hz => ?_, h⟩
      rcases List.mem_cons.mp hz with rfl | hz
      · exact before
      · exact before.trans (first z hz)
    · rename_i behind
      have behind : key y < key x := by simpa using behind
      refine List.pairwise_cons.mpr ⟨fun z hz => ?_, placeBefore_sorted key x ys rest⟩
      rcases List.mem_cons.mp ((placeBefore_perm _ x ys).mem_iff.mp hz) with rfl | hz
      · exact behind.le
      · exact first z hz

theorem sortBy_sorted {α : Type} (key : α → Nat) : ∀ l : List α, (sortBy key l).Pairwise (fun a b => key a ≤ key b)
  | [] => List.Pairwise.nil
  | x :: xs => placeBefore_sorted key x _ (sortBy_sorted key xs)

/-- An element placed goes before those that a test picks together with it: none of equal key is passed over. -/
theorem placeBefore_filter {α : Type} (key : α → Nat) (test : α → Bool) (same : ∀ x y, test x = true → test y = true →
    key x = key y) (x : α) : ∀ l : List α,
    (placeBefore (fun y => key x ≤ key y) x l).filter test = (x :: l).filter test
  | [] => rfl
  | y :: ys => by
    unfold placeBefore
    split
    · rfl
    · rename_i behind
      have behind : key y < key x := by simpa using behind
      rw [List.filter_cons, placeBefore_filter key test same x ys]
      cases hx : test x <;> cases hy : test y
      · simp [hx, hy]
      · simp [hx, hy]
      · simp [hx, hy]
      · exact absurd (same x y hx hy) behind.ne'

/-- Sorting keeps the order of the elements that a test of one key picks. -/
theorem sortBy_filter {α : Type} (key : α → Nat) (test : α → Bool) (same : ∀ x y, test x = true → test y = true →
    key x = key y) : ∀ l : List α, (sortBy key l).filter test = l.filter test
  | [] => rfl
  | x :: xs => by
    rw [sortBy, placeBefore_filter key test same, List.filter_cons, List.filter_cons, sortBy_filter key test same xs]

/-- An element added at the end of an ordered list is sorted in after those whose key is not greater. -/
theorem sortBy_concat {α : Type} (key : α → Nat) (c : α) : ∀ l : List α, l.Pairwise (fun a b => key a ≤ key b) →
    ∃ ahead behind, l = ahead ++ behind ∧ sortBy key (l ++ [c]) = ahead ++ c :: behind ∧
      (∀ y ∈ ahead, key y ≤ key c) ∧ ∀ y ∈ behind, key c < key y
  | [], _ => ⟨[], [], rfl, rfl, by simp, by simp⟩
  | x :: xs, h => by
    obtain ⟨first, rest⟩ := List.pairwise_cons.mp h
    obtain ⟨ahead, behind, split_, sorted, early, late⟩ := sortBy_concat key c xs rest
    have placed : sortBy key (x :: xs ++ [c]) = placeBefore (fun y => key x ≤ key y) x (ahead ++ c :: behind) := by
      rw [List.cons_append, sortBy, sorted]
    by_cases before : key x ≤ key c
    · refine ⟨x :: ahead, behind, by rw [split_, List.cons_append], ?_, ?_, late⟩
      · rw [placed]
        cases ahead with
        | nil => simp [placeBefore, before]
        | cons y ys =>
          have : key x ≤ key y := first y (by simp [split_])
          simp [placeBefore, this]
      · intro y hy
        rcases List.mem_cons.mp hy with rfl | hy
        · exact before
        · exact early y hy
    · have before : key c < key x := Nat.lt_of_not_le before
      have none_ : ahead = [] := by
        refine List.eq_nil_iff_forall_not_mem.mpr fun y hy => ?_
        have := first y (by simp [split_, hy])
        have := early y hy
        omega
      subst none_
      refine ⟨[], x :: behind, by rw [split_, List.nil_append, List.nil_append], ?_, by simp, ?_⟩
      · rw [placed, List.nil_append, placeBefore, if_neg (by simpa using before)]
        cases behind with
        | nil => rfl
        | cons y ys =>
          have : key x ≤ key y := first y (by simp [split_])
          simp [placeBefore, this]
      · intro y hy
        rcases List.mem_cons.mp hy with rfl | hy
        · exact before
        · exact late y hy

/-! ### Cues in order of start (R19; log 39) -/

theorem mediaTime_toInt_ge (d : MediaTime) : -549755813888 ≤ d.toInt := by
  have := BitVec.le_toInt d
  norm_num at this
  exact this

theorem startFrom_le_iff (ref : MediaTime) (x y : PendingCue) :
    x.startFrom ref ≤ y.startFrom ref ↔ (x.start - ref).toInt ≤ (y.start - ref).toInt := by
  have hx := mediaTime_toInt_ge (x.start - ref)
  have hy := mediaTime_toInt_ge (y.start - ref)
  unfold PendingCue.startFrom mediaDiff
  omega

theorem startFrom_lt_iff (ref : MediaTime) (x y : PendingCue) :
    x.startFrom ref < y.startFrom ref ↔ (x.start - ref).toInt < (y.start - ref).toInt := by
  rw [← Nat.not_le, startFrom_le_iff, not_le]

/-- A list in order of start from a media time, holding the cues of another, those of equal start in their old order. -/
def OrderedFrom (ref : MediaTime) (l m : List PendingCue) : Prop :=
  m.Pairwise (fun x y => (x.start - ref).toInt ≤ (y.start - ref).toInt) ∧ m.Perm l ∧
    ∀ v, m.filter (fun x => x.start == v) = l.filter (fun x => x.start == v)

theorem orderCues_ordered (ref : MediaTime) (l : List PendingCue) : OrderedFrom ref l (orderCues ref l) := by
  refine ⟨(sortBy_sorted (PendingCue.startFrom ref) l).imp fun h => (startFrom_le_iff ref _ _).mp h,
    sortBy_perm _ l, fun v => ?_⟩
  refine sortBy_filter _ _ (fun x y hx hy => ?_) l
  simp only [beq_iff_eq] at hx hy
  simp only [PendingCue.startFrom, hx, hy]

/-- A cue placed: the list is in order, and where it was in order before, the cue stands after every cue whose start is not
later (R19). -/
theorem placeCue_placed (c : PendingCue) (l : List PendingCue) : OrderedFrom c.start (l ++ [c]) (placeCue c l) ∧
    (l.Pairwise (fun x y => (x.start - c.start).toInt ≤ (y.start - c.start).toInt) → ∃ ahead behind, l = ahead ++ behind ∧
      placeCue c l = ahead ++ c :: behind ∧ (∀ y ∈ ahead, (y.start - c.start).toInt ≤ 0) ∧
      (∀ y ∈ behind, 0 < (y.start - c.start).toInt)) := by
  refine ⟨orderCues_ordered _ _, fun ordered => ?_⟩
  have zero : (c.start - c.start).toInt = 0 := by simp
  obtain ⟨ahead, behind, split_, placed, early, late⟩ := sortBy_concat (PendingCue.startFrom c.start) c l
    (ordered.imp fun h => (startFrom_le_iff _ _ _).mpr h)
  refine ⟨ahead, behind, split_, placed, fun y hy => ?_, fun y hy => ?_⟩
  · exact zero ▸ (startFrom_le_iff _ _ _).mp (early y hy)
  · exact zero ▸ (startFrom_lt_iff _ _ _).mp (late y hy)

/-! ### The five cases (R19) -/

section Cases

variable {t : SegmentTracker} {c : PendingCue}

theorem takeCue_replaces (h : ∃ y ∈ t.pending, y.segmentId = c.segmentId) : t.takeCue c =
    { t with pending := placeCue c (t.pending.filter (fun y => y.segmentId != c.segmentId)) } := by
  unfold SegmentTracker.takeCue
  exact if_pos (by simpa using h)

theorem takeCue_new (h : ∀ y ∈ t.pending, y.segmentId ≠ c.segmentId) : t.takeCue c =
    if c.segmentId = t.current.segmentId then t
    else if t.pending.length < 4 then { t with pending := placeCue c t.pending }
    else if t.pending.all (fun y => 0 < mediaDiff c.start y.start) then { t with cueDrops := addCount t.cueDrops 1 }
    else { t with pending := placeCue c (dropLatest t.pending), cueDrops := addCount t.cueDrops 1 } := by
  unfold SegmentTracker.takeCue
  exact if_neg (by simpa using h)

end Cases

/-- A delivered cue changes the pending list and the drop count alone. -/
theorem takeCue_same (t : SegmentTracker) (c : PendingCue) : (t.takeCue c).current = t.current ∧
    (t.takeCue c).programme = t.programme ∧ (t.takeCue c).begun = t.begun ∧ (t.takeCue c).nextOpening = t.nextOpening := by
  unfold SegmentTracker.takeCue
  split
  · exact ⟨rfl, rfl, rfl, rfl⟩
  · split
    · exact ⟨rfl, rfl, rfl, rfl⟩
    · split
      · exact ⟨rfl, rfl, rfl, rfl⟩
      · split <;> exact ⟨rfl, rfl, rfl, rfl⟩

/-- The cue that leaves a full list is the last in order of start (R19, case 5; log 39). -/
theorem dropLatest_latest {first : PendingCue} (rest : List PendingCue) : ∃ latest,
    OrderedFrom first.start (first :: rest) (dropLatest (first :: rest) ++ [latest]) := by
  have ordered := orderCues_ordered first.start (first :: rest)
  have some_ : orderCues first.start (first :: rest) ≠ [] := List.ne_nil_of_length_eq_add_one (orderCues_length _ _)
  refine ⟨(orderCues first.start (first :: rest)).getLast some_, ?_⟩
  unfold dropLatest
  rwa [List.dropLast_append_getLast]

/-- Settles O39. -/
theorem cuePlacement : Obligations.CuePlacement := by
  intro t c
  refine ⟨takeCue_same t c, fun pending => ?_, fun new => ⟨fun current => ?_, fun other => ⟨fun room => ?_,
    fun full => ⟨fun latest => ?_, fun earlier => ?_⟩⟩⟩⟩
  · rw [takeCue_replaces pending]
    exact ⟨placeCue_placed c _, rfl⟩
  · rw [takeCue_new new, if_pos current]
  · rw [takeCue_new new, if_neg other, if_pos room]
    exact ⟨placeCue_placed c _, rfl⟩
  · rw [takeCue_new new, if_neg other, if_neg (Nat.not_lt.mpr full), if_pos (by simpa [mediaDiff] using latest)]
  · rw [takeCue_new new, if_neg other, if_neg (Nat.not_lt.mpr full), if_neg (by simpa [mediaDiff] using earlier)]
    refine ⟨rfl, ?_⟩
    cases pending : t.pending with
    | nil => simp [pending] at full
    | cons first rest =>
      obtain ⟨latest, ordered⟩ := dropLatest_latest (first := first) rest
      exact ⟨first, rest, dropLatest (first :: rest), latest, rfl, ordered, placeCue_placed c _⟩

end Sys2Proof.Machine
end

section
/-! PROOF. The Recorder's writing (R100 to R102) and the delivery of the head unit to its destinations (R7, R8). Settles O49
and O35. -/

namespace Sys2Proof.Machine

/-! ### Pages written (R100) -/

/-- A page with a unit written behind those it holds (R100). -/
def Page.written (p : Page) (u : RecordedUnit) : Page :=
  { p with
    units := p.units ++ [u]
    first := if p.units = [] then some u.arrival else p.first
    last := some u.arrival }

theorem Page.written_fill (p : Page) (u : RecordedUnit) : (p.written u).fill = p.fill + (24 + u.bytes.length) := by
  simp [Page.fill, Page.written, RecordedUnit.size]

theorem Page.written_unitCount (p : Page) (u : RecordedUnit) : (p.written u).unitCount = p.unitCount + 1 := by
  simp [Page.unitCount, Page.written]

/-- A unit written changes the current page and the last media time alone (R100). -/
theorem Recorder.append_eq {r : Recorder} {i : Nat} (current : r.current = some i) (u : RecordedUnit) :
    r.append u = { r with
      pages := r.pages.map (fun p => if p.index = i then p.written u else p), lastMedia := u.mediaTime } := by
  unfold Recorder.append Page.written
  rw [current]
  simp

/-- What the pages read as behind a change of the page at one index. -/
theorem find?_changed {i : Nat} {f : Page → Page} (index : ∀ p, (f p).index = p.index) (l : List Page) (j : Nat) :
    (l.map (fun p => if p.index = i then f p else p)).find? (fun p => p.index == j) =
      (l.find? (fun p => p.index == j)).map (fun p => if j = i then f p else p) := by
  induction l with
  | nil => rfl
  | cons p l ih =>
    have kept : (if p.index = i then f p else p).index = p.index := by
      split
      · exact index p
      · rfl
    rw [List.map_cons, List.find?_cons, List.find?_cons, kept, ih]
    by_cases here : p.index = j
    · rw [here, beq_self_eq_true, Option.map_some]
    · rw [beq_false_of_ne here]

/-- Where a written unit stands, and what the writing leaves alone (R100). -/
theorem Recorder.append_page? {r : Recorder} {i : Nat} {p : Page} (current : r.current = some i)
    (page : r.page? i = some p) (u : RecordedUnit) :
    (r.append u).page? i = some (p.written u) ∧ ∀ j, j ≠ i → (r.append u).page? j = r.page? j := by
  have read : ∀ j, (r.append u).page? j = (r.page? j).map (fun p => if j = i then p.written u else p) := fun j => by
    rw [Recorder.append_eq current]
    exact find?_changed (f := fun p => p.written u) (fun _ => rfl) r.pages j
  refine ⟨by rw [read, page]; simp, fun j other => ?_⟩
  rw [read]
  simp [other]

/-! ### Pages made ready (R100, R101) -/

theorem Recorder.needsPage_of_page {r : Recorder} {i : Nat} {p : Page} (current : r.current = some i)
    (page : r.page? i = some p) (u : RecordedUnit) : r.needsPage u = decide (65536 < p.fill + (24 + u.bytes.length)) := by
  unfold Recorder.needsPage Recorder.currentPage
  rw [current]
  dsimp only
  rw [page]
  rfl

theorem readyPage_fits {s : State} {u : RecordedUnit} (fits : s.recorder.needsPage u = false) :
    s.readyPage u = some s := by
  simp [State.readyPage, fits]

theorem readyPage_begins {s : State} {u : RecordedUnit} (needs : s.recorder.needsPage u = true)
    (room : s.recorder.counter < 2 ^ 48) : s.readyPage u = some (s.beginPage u.arrival) := by
  unfold State.readyPage
  rw [if_pos needs]
  exact if_pos room

theorem readyPage_ends {s : State} {u : RecordedUnit} (needs : s.recorder.needsPage u = true)
    (full : 2 ^ 48 ≤ s.recorder.counter) : s.readyPage u = none := by
  unfold State.readyPage
  rw [if_pos needs]
  exact if_neg (Nat.not_lt.mpr full)

theorem recordUnit_ready {s t : State} {u : RecordedUnit} (ready : s.readyPage u = some t) :
    s.recordUnit u = t.setRecorder { t.recorder with writing := some u } := by
  simp [State.recordUnit, ready]

theorem recordUnit_unwritten {s : State} {u : RecordedUnit} (ready : s.readyPage u = none) :
    s.recordUnit u = s.setPort { s.port with queue := s.port.queue.drop 1 } := by
  simp [State.recordUnit, ready]

/-! ### MARK units (R102) -/

@[simp] theorem beBytes_length : ∀ k n : Nat, (beBytes k n).length = k
  | 0, _ => rfl
  | k + 1, n => by rw [beBytes, List.length_cons, beBytes_length k n]

theorem stampBytes?_length (t : Option Stamp) : (stampBytes? t).length = 9 := by
  cases t <;> simp [stampBytes?, stampBytes, timeBytes]

theorem markBytes_length (m : MarkRequest) : (markBytes m).length = 16 := by
  simp [markBytes, stampBytes?_length]

/-- A MARK unit whose turn has come, with a page it fits in, is written there (R102). -/
theorem exec_markUnitWrite_fits {s : State} {m : MarkRequest} {rest : List MarkRequest} (marks : s.recorder.marks = m :: rest)
    (station : s.startup.station ≠ .fault) (free : s.recorder.writing = none)
    (due : ∀ u ∈ s.port.queue, m.place ≤ u.serial) (fits : s.recorder.needsPage (s.recorder.markUnit m) = false) :
    exec .markUnitWrite s = .next (s.setRecorder
      (({ s.recorder with marks := rest } : Recorder).append (s.recorder.markUnit m))) := by
  show execMarkUnitWrite s = _
  unfold execMarkUnitWrite
  rw [marks]
  dsimp only
  have turn : (s.startup.station != .fault && s.recorder.writing.isNone && s.markDue m) = true := by
    simpa [State.markDue, station, free] using due
  rw [if_pos turn, readyPage_fits (s := s.setRecorder { s.recorder with marks := rest }) fits]
  rfl

/-- A MARK unit that waits, for the Recorder or for a unit before it, or in FAULT, is not written (R102; log 23). -/
theorem exec_markUnitWrite_waits {s : State} {m : MarkRequest} {rest : List MarkRequest}
    (marks : s.recorder.marks = m :: rest)
    (waits : s.startup.station = .fault ∨ s.recorder.writing ≠ none ∨ ∃ u ∈ s.port.queue, u.serial < m.place) :
    exec .markUnitWrite s = .next s := by
  show execMarkUnitWrite s = _
  unfold execMarkUnitWrite
  rw [marks]
  dsimp only
  rw [if_neg]
  intro turn
  simp only [State.markDue, Bool.and_eq_true, bne_iff_ne, Option.isNone_iff_eq_none, List.all_eq_true,
    decide_eq_true_eq] at turn
  obtain ⟨⟨station, free⟩, due⟩ := turn
  rcases waits with fault | busy | ⟨u, hu, before⟩
  · exact station fault
  · exact busy free
  · exact absurd (due u hu) (Nat.not_le.mpr before)

/-- Settles O49. -/
theorem recorderWriting : Obligations.RecorderWriting := by
  intro s
  refine ⟨fun u i p writing current page => ?_, fun idle => ?_, fun m rest i p marks station free due current page fits => ?_,
    fun m rest marks waits => exec_markUnitWrite_waits marks waits, fun none_ => ?_, fun u i p current page => ?_,
    fun u none_ room => ?_⟩
  · let written : State := s.setRecorder { s.recorder.append u with writing := none }
    refine ⟨written.setPort { s.port with queue := s.port.queue.drop 1 }, ?_, ?_, rfl, ?_, rfl, rfl⟩
    · show execRecorderWriteComplete s = _
      unfold execRecorderWriteComplete
      rw [writing]
      rfl
    · obtain ⟨here, others⟩ := Recorder.append_page? current page u
      refine ⟨here, p.written_fill u, p.written_unitCount u, others, ?_⟩
      simp [written, Recorder.append_eq current]
    · simp [written, Recorder.append_eq current]
  · show execRecorderWriteComplete s = _
    unfold execRecorderWriteComplete
    rw [idle]
  · have length : (s.recorder.markUnit m).bytes.length = 16 := markBytes_length m
    have needs : s.recorder.needsPage (s.recorder.markUnit m) = false := by
      rw [Recorder.needsPage_of_page current page, length]
      exact decide_eq_false (Nat.not_lt.mpr fits)
    refine ⟨_, s.recorder.markUnit m, exec_markUnitWrite_fits marks station free due needs, ?_, ?_, rfl, length, ?_, rfl⟩
    · obtain ⟨here, others⟩ := Recorder.append_page? (r := { s.recorder with marks := rest }) current page
        (s.recorder.markUnit m)
      refine ⟨here, p.written_fill _, p.written_unitCount _, others, ?_⟩
      simp [Recorder.append_eq (r := { s.recorder with marks := rest }) current]
    · simp [Recorder.append_eq (r := { s.recorder with marks := rest }) current]
    · exact (congrArg Recorder.writing (Recorder.append_eq (r := { s.recorder with marks := rest }) current _)).trans free
  · show execMarkUnitWrite s = _
    unfold execMarkUnitWrite
    rw [none_]
  · have needs := Recorder.needsPage_of_page current page u
    refine ⟨fun fits => ?_, fun larger room => ?_, fun larger full => ?_⟩
    · exact recordUnit_ready (readyPage_fits (needs.trans (decide_eq_false (Nat.not_lt.mpr fits))))
    · exact recordUnit_ready (readyPage_begins (needs.trans (decide_eq_true larger)) room)
    · exact recordUnit_unwritten (readyPage_ends (needs.trans (decide_eq_true larger)) full)
  · have needs : s.recorder.needsPage u = true := by
      unfold Recorder.needsPage
      rw [none_]
    exact recordUnit_ready (readyPage_begins needs room)

/-! ### What beginning a page leaves alone -/

theorem truncateOpen_keeps (s : State) (n t : Nat) : KeepsMeasured s (s.truncateOpen n t) :=
  ((KeepsMeasured.refl s).setRecorder _).trans (KeepsMeasured.foldl (fun s h => changeRecord_keeps s (Hold.breach h) _) _ _)

theorem beginPage_keeps (s : State) (stamp : Stamp) : KeepsMeasured s (s.beginPage stamp) := by
  unfold State.beginPage
  split
  · exact .refl s
  · rename_i index _
    dsimp only
    have begun := (KeepsMeasured.refl s).setRecorder (s.recorder.beginUnpinned index)
    split
    · exact begun.setRecorder _
    · split
      · exact (begun.trans (evictAll_keeps _ _)).setRecorder _
      · exact begun.trans (truncateOpen_keeps _ _ _)

@[simp] theorem changeRecord_link (s : State) (n : Option Nat) (f : BreachRecord → BreachRecord) :
    (s.changeRecord n f).link = s.link := by
  unfold State.changeRecord
  split <;> rfl

theorem foldl_link {α : Type} {f : State → α → State} (h : ∀ s x, (f s x).link = s.link) (l : List α) (s : State) :
    (l.foldl f s).link = s.link := by
  induction l generalizing s with
  | nil => rfl
  | cons x xs ih => exact (ih (f s x)).trans (h s x)

@[simp] theorem evictHold_link (s : State) (slot : Nat) : (s.evictHold slot).link = s.link := by
  unfold State.evictHold
  split
  · rfl
  · split <;> simp [State.reportEvicted, State.unlinkHold]

theorem beginPage_link (s : State) (stamp : Stamp) : (s.beginPage stamp).link = s.link := by
  unfold State.beginPage
  split
  · rfl
  · dsimp only
    split
    · rfl
    · split
      · exact foldl_link (fun s slot => evictHold_link s slot) _ _
      · exact foldl_link (fun s h => changeRecord_link s (Hold.breach h) _) _ _

/-- A unit given to the Recorder while pages can be begun is being written, and the measuring blocks and the link are as
they were (R100). -/
theorem recordUnit_writes {s : State} (room : s.recorder.counter < 2 ^ 48) (u : RecordedUnit) :
    KeepsMeasured s (s.recordUnit u) ∧ (s.recordUnit u).link = s.link ∧ (s.recordUnit u).recorder.writing = some u := by
  cases needs : s.recorder.needsPage u with
  | false =>
    rw [recordUnit_ready (readyPage_fits needs)]
    exact ⟨(KeepsMeasured.refl s).setRecorder _, rfl, rfl⟩
  | true =>
    rw [recordUnit_ready (readyPage_begins needs room)]
    exact ⟨(beginPage_keeps s _).setRecorder _, beginPage_link s _, rfl⟩

/-! ### Numbers in bytes -/

theorem beNat_append_lt : ∀ (l : List Byte) (acc : Nat),
    l.foldl (fun acc b => acc * 256 + b.toNat) acc < (acc + 1) * 256 ^ l.length
  | [], acc => by simp
  | b :: l, acc => by
    have byte := b.isLt
    have rest := beNat_append_lt l (acc * 256 + b.toNat)
    refine Nat.lt_of_lt_of_le rest ?_
    rw [List.length_cons, Nat.pow_succ', ← Nat.mul_assoc]
    exact Nat.mul_le_mul_right _ (by omega)

/-- `k` bytes spell a number below 256^k. -/
theorem natAt_lt (p : List Byte) (a k : Nat) : natAt p a k < 256 ^ k := by
  have spelt := beNat_append_lt ((p.drop a).take k) 0
  rw [Nat.zero_add, Nat.one_mul] at spelt
  exact Nat.lt_of_lt_of_le spelt (Nat.pow_le_pow_right (by decide) (List.length_take_le ..))

theorem natAt_one (p : List Byte) (a : Nat) : natAt p a 1 = (byteAt p a).toNat := by
  unfold natAt byteAt beNat
  rw [List.getD_eq_getElem?_getD, ← List.head?_drop]
  cases p.drop a <;> simp

/-- The pending cue that a CUE payload spells (R3, R19). -/
theorem readCue_fields (p : List Byte) (arrival : Stamp) :
    let c := readCue p arrival
    c.segmentId.toNat = natAt p 0 4 ∧ c.programmeId.toNat = natAt p 4 4 ∧
    (1 ≤ natAt p 8 1 → natAt p 8 1 ≤ 4 → c.cls.code = natAt p 8 1) ∧
    (1 ≤ natAt p 9 1 → natAt p 9 1 ≤ 2 → c.scope.code = natAt p 9 1) ∧
    c.captions = (byteAt p 10).getLsbD 0 ∧ c.start.toNat = natAt p 11 5 ∧ c.arrival = arrival := by
  refine ⟨Nat.mod_eq_of_lt (natAt_lt p 0 4), Nat.mod_eq_of_lt (natAt_lt p 4 4), fun low high => ?_, fun low high => ?_, rfl,
    Nat.mod_eq_of_lt (natAt_lt p 11 5), rfl⟩
  · show ((SegClass.ofCode? (byteAt p 8).toNat).getD .programme).code = _
    rw [← natAt_one]
    generalize natAt p 8 1 = n at low high
    interval_cases n <;> rfl
  · show ((Scope.ofCode? (byteAt p 9).toNat).getD .national).code = _
    rw [← natAt_one]
    generalize natAt p 9 1 = n at low high
    interval_cases n <;> rfl

/-! ### Delivery (R7, R8) -/

theorem exec_unitDelivery {s : State} {u : QueuedUnit} {rest : List QueuedUnit} (queue : s.port.queue = u :: rest) :
    exec .unitDelivery s = match u.payload with
      | none => .next s
      | some payload => if s.live = true ∧ s.recorder.writing = none then .next (s.deliver u payload) else .next s := by
  show execUnitDelivery s = _
  unfold execUnitDelivery
  rw [queue] <;> rfl

theorem popUnit_eq {s : State} {u : QueuedUnit} {rest : List QueuedUnit} (queue : s.port.queue = u :: rest) :
    s.popUnit = s.setPort { s.port with queue := rest } := by
  unfold State.popUnit
  rw [queue]
  rfl

theorem evaluate_port (s : State) : s.evaluate.port = s.port := by
  unfold State.evaluate State.enterImpaired
  dsimp only
  split
  · rfl
  · split
    · split
      · rw [(judge_keeps _).port, (closeDivergent_keeps _).port, State.setCaptions_port, (raise_keeps _ _).port]
        rfl
      · rfl
    · rfl

theorem mayRecord_of_first {s : State} {u : QueuedUnit} (first : ∀ m ∈ s.recorder.marks, u.serial < m.place) :
    s.mayRecord u = true := by
  simpa [State.mayRecord] using first

section Destinations

variable {s : State} {u : QueuedUnit} {rest : List QueuedUnit}

/-- A damaged CAPTION, CUE or TIME unit is discarded and counted (R8). -/
theorem deliver_damaged (queue : s.port.queue = u :: rest) (kind : u.kind = .caption ∨ u.kind = .cue ∨ u.kind = .time)
    (damaged : u.damaged = true) (p : List Byte) :
    s.deliver u p = s.setPort { s.port with queue := rest, damaged := addCount s.port.damaged 1 } := by
  have discarded : s.deliver u p = s.popUnit.countDamaged := by
    unfold State.deliver
    rcases kind with kind | kind | kind <;> rw [kind] <;> exact if_pos damaged
  rw [discarded, popUnit_eq queue]
  rfl

theorem deliver_quality (queue : s.port.queue = u :: rest) (kind : u.kind = .quality) (p : List Byte) :
    s.deliver u p = if u.damaged then s.setPort { s.port with queue := rest }
      else (s.setPort { s.port with queue := rest }).acceptQuality u.arrival.time p := by
  unfold State.deliver
  rw [kind, popUnit_eq queue]

theorem deliver_time (queue : s.port.queue = u :: rest) (kind : u.kind = .time) (sound : u.damaged = false)
    (p : List Byte) : s.deliver u p = (s.setPort { s.port with queue := rest }).takeTime u p := by
  unfold State.deliver
  rw [kind, popUnit_eq queue]
  exact if_neg (by simp [sound])

theorem deliver_audio (queue : s.port.queue = u :: rest) (kind : u.kind = .audio) (p : List Byte) :
    s.deliver u p = (s.setPort { s.port with queue := rest }).takeAudio u p := by
  unfold State.deliver
  rw [kind, popUnit_eq queue]

theorem deliver_payload (kind : u.kind = .payload) (may : s.mayRecord u = true) (p : List Byte) :
    s.deliver u p = s.record u .payload p := by
  unfold State.deliver
  rw [kind]
  exact if_pos may

theorem deliver_caption (kind : u.kind = .caption) (sound : u.damaged = false) (may : s.mayRecord u = true)
    (p : List Byte) : s.deliver u p = (s.setCaptions (s.captions.takeCaption p)).record u .caption p := by
  unfold State.deliver
  rw [kind]
  dsimp only
  rw [if_neg (by simp [sound]), if_pos may]

theorem deliver_cue (kind : u.kind = .cue) (sound : u.damaged = false) (may : s.mayRecord u = true) (p : List Byte) :
    s.deliver u p = (s.setSegments (s.segments.takeCue (readCue p u.arrival))).record u .cue p := by
  unfold State.deliver
  rw [kind]
  dsimp only
  rw [if_neg (by simp [sound]), if_pos may]

end Destinations

/-- Settles O35. -/
theorem delivery : Obligations.Delivery := by
  refine ⟨fun s u rest queue live => ⟨fun waits => ?_, fun p payload free => ?_⟩, fun p arrival => readCue_fields p arrival⟩
  · rw [exec_unitDelivery queue]
    rcases waits with arriving | busy
    · rw [arriving]
    · split
      · rfl
      · exact if_neg fun ready => busy ready.2
  have run : exec .unitDelivery s = .next (s.deliver u p) := by
    rw [exec_unitDelivery queue, payload]
    exact if_pos ⟨live, free⟩
  rw [run]
  refine ⟨fun kind damaged => ?_, fun kind damaged => ?_, fun kind sound => ?_, fun kind sound => ?_, fun kind => ?_,
    fun kind first room => ?_⟩
  · rw [deliver_damaged queue kind damaged]
  · rw [deliver_quality queue kind, if_pos damaged]
  · rw [deliver_quality queue kind, if_neg (by simp [sound])]
    let taken : State := (s.setPort { s.port with queue := rest }).setReception { s.reception with
      reported := readQuality p, silenceDeadline := some (u.arrival.time + 2 * second), grace := false }
    obtain ⟨_, _, _, _, kept⟩ := evaluate_kept taken
    exact ⟨taken.evaluate, rfl, evaluate_port taken, by rw [kept]; rfl, by rw [kept]; rfl, by rw [kept]; rfl, rfl⟩
  · rw [deliver_time queue kind sound]
  · rw [deliver_audio queue kind]
  · have may := mayRecord_of_first first
    rcases kind with kind | ⟨kind | kind, sound⟩
    · rw [deliver_payload kind may]
      obtain ⟨kept, link, writing⟩ := recordUnit_writes room (u.recorded .payload p)
      exact ⟨_, .payload, rfl, kept.port, writing, fun _ => ⟨rfl, kept.captions, kept.segments⟩,
        fun caption => by simp [kind] at caption, fun cue => by simp [kind] at cue, kept.startup, kept.time,
        kept.loudness, kept.reception, kept.verdicts, link⟩
    · rw [deliver_caption kind sound may]
      obtain ⟨kept, link, writing⟩ := recordUnit_writes (s := s.setCaptions (s.captions.takeCaption p)) room
        (u.recorded .caption p)
      exact ⟨_, .caption, rfl, kept.port, writing, fun payload => by simp [kind] at payload,
        fun _ => ⟨rfl, kept.captions, kept.segments⟩, fun cue => by simp [kind] at cue, kept.startup, kept.time,
        kept.loudness, kept.reception, kept.verdicts, link⟩
    · rw [deliver_cue kind sound may]
      obtain ⟨kept, link, writing⟩ := recordUnit_writes
        (s := s.setSegments (s.segments.takeCue (readCue p u.arrival))) room (u.recorded .cue p)
      exact ⟨_, .cue, rfl, kept.port, writing, fun payload => by simp [kind] at payload,
        fun caption => by simp [kind] at caption, fun _ => ⟨rfl, kept.segments, kept.captions⟩, kept.startup, kept.time,
        kept.loudness, kept.reception, kept.verdicts, link⟩

end Sys2Proof.Machine
end

section
/-! PROOF. Full reset (R190) and the restart sequence (R192): the cuts, the verdicts resolved UNMEASURED, the RESTART MARK unit
and the clearing, one lemma per step. Settles O8 and O16. -/

namespace Sys2Proof.Machine

/-! ### Full reset -/

theorem exec_fullReset (s : State) : exec .fullReset s =
    .next ((State.reset.setPending s.pending).setLink { ShelfLink.reset with busy := s.link.busy }) := rfl

/-- Settles O8: each block reads back its own reset value. -/
theorem fullReset : Obligations.FullReset := by
  intro s
  refine ⟨_, exec_fullReset s, ?_⟩
  and_intros <;> rfl

/-! ### The cuts (R121, R180) -/

/-- A record with RESTART_CUT where an OPEN hold of a list names it. -/
def BreachRecord.cutWith (holds : List Hold) (r : BreachRecord) : BreachRecord :=
  { r with flags := { r.flags with
      restartCut := r.flags.restartCut || holds.any (fun h => h.breach == some r.number) } }

/-- Telling the log of the holds cut sets RESTART_CUT in the records they name, and does nothing else (R121, R173). -/
theorem foldl_reportCut : ∀ (l : List Hold) (s : State), l.foldl (fun t h => t.reportCut h.breach) s =
    s.setLog { s.log with records := s.log.records.map (BreachRecord.cutWith l) }
  | [], s => by
    have same : s.log.records.map (BreachRecord.cutWith []) = s.log.records :=
      (List.map_congr_left fun r _ => by simp [BreachRecord.cutWith]).trans (List.map_id _)
    rw [same]
    rfl
  | h :: l, s => by
    rw [List.foldl_cons, foldl_reportCut l]
    cases breach : h.breach with
    | none =>
      have same : BreachRecord.cutWith (h :: l) = BreachRecord.cutWith l := by
        funext r
        simp [BreachRecord.cutWith, breach]
      rw [same]
      rfl
    | some n =>
      have both : ∀ r : BreachRecord, r.cutWith (h :: l) = BreachRecord.cutWith l
          (if r.number == n then { r with flags := { r.flags with restartCut := true } } else r) := by
        intro r
        by_cases named : r.number = n
        · simp [BreachRecord.cutWith, breach, named]
        · have other : (n == r.number) = false := beq_false_of_ne (Ne.symm named)
          simp [BreachRecord.cutWith, breach, named, other]
      simp only [State.reportCut, State.changeRecord, BreachLog.change, State.setLog, List.map_map]
      congr 2
      exact List.map_congr_left fun r _ => (both r).symm

/-- A hold as a restart leaves it (R121). -/
def Recorder.cutHold (r : Recorder) (now : Nat) (h : Hold) : Hold :=
  { r.closedHold now now h with flags := { h.flags with restartCut := true } }

theorem cutHolds_eq (s : State) : s.cutHolds =
    (s.setRecorder (s.recorder.changeOpen (s.recorder.cutHold s.now))).setLog
      { s.log with records := s.log.records.map (BreachRecord.cutWith s.recorder.openHolds) } :=
  foldl_reportCut _ _

/-- A record as a restart leaves it, given the holds that were OPEN (R121, R180). -/
def BreachRecord.restartCut (stop : Stamp) (holds : List Hold) (r : BreachRecord) : BreachRecord :=
  { r with
    endStamp := if r.isOpen then some stop else r.endStamp
    isOpen := false
    flags := { r.flags with
      restartCut := r.flags.restartCut || r.isOpen || holds.any (fun h => h.breach == some r.number) } }

/-- Steps 2 and 3 of the restart sequence (R192). -/
theorem cuts_eq (s : State) : s.cutRecords.cutHolds =
    (s.setRecorder (s.recorder.changeOpen (s.recorder.cutHold s.now))).setLog { s.log with
      records := s.log.records.map (BreachRecord.restartCut s.nowStamp s.recorder.openHolds), causes := [] } := by
  have each : ∀ r : BreachRecord, r.restartCut s.nowStamp s.recorder.openHolds =
      BreachRecord.cutWith s.recorder.openHolds (if r.isOpen then
        { r with endStamp := some s.nowStamp, isOpen := false, flags := { r.flags with restartCut := true } } else r) := by
    intro r
    cases isOpen : r.isOpen <;> simp [BreachRecord.restartCut, BreachRecord.cutWith, isOpen]
  have records : s.cutRecords.log.records.map (BreachRecord.cutWith s.recorder.openHolds) =
      s.log.records.map (BreachRecord.restartCut s.nowStamp s.recorder.openHolds) :=
    List.map_map.trans (List.map_congr_left fun r _ => (each r).symm)
  rw [cutHolds_eq, ← records]
  rfl

/-! ### The pending verdicts (R163, R165) -/

/-- What resolving pending verdicts leaves alone while a restart is in progress: all but the verdict history, the pending
list, the log's records, the cursors, the alarm pulses and the timers of the link. -/
structure Resolves (s t : State) : Prop where
  pending     : t.pending = s.pending
  startup     : t.startup = s.startup
  port        : t.port = s.port
  reception   : t.reception = s.reception
  segments    : t.segments = s.segments
  time        : t.time = s.time
  captions    : t.captions = s.captions
  recorder    : t.recorder = s.recorder
  overflow    : t.peers.overflow = s.peers.overflow
  noticeDrops : t.link.noticeDrops = s.link.noticeDrops
  crcErrors   : t.link.crcErrors = s.link.crcErrors
  txn         : t.evidence.txn = s.evidence.txn
  unitCursor  : t.evidence.unitCursor = s.evidence.unitCursor
  causes      : t.log.causes = s.log.causes

namespace Resolves

theorem refl (s : State) : Resolves s s := ⟨rfl, rfl, rfl, rfl, rfl, rfl, rfl, rfl, rfl, rfl, rfl, rfl, rfl, rfl⟩

theorem trans {s t u : State} (a : Resolves s t) (b : Resolves t u) : Resolves s u :=
  ⟨b.pending.trans a.pending, b.startup.trans a.startup, b.port.trans a.port, b.reception.trans a.reception,
    b.segments.trans a.segments, b.time.trans a.time, b.captions.trans a.captions, b.recorder.trans a.recorder,
    b.overflow.trans a.overflow, b.noticeDrops.trans a.noticeDrops, b.crcErrors.trans a.crcErrors, b.txn.trans a.txn,
    b.unitCursor.trans a.unitCursor, b.causes.trans a.causes⟩

end Resolves

/-- The MEASUREMENT_LOST request of a verdict (R75). -/
def Verdict.lost (v : Verdict) : BreachRequest where
  category := .measurementLost
  startStamp := v.startStamp
  endStamp := some v.endStamp
  segment := some v.name

/-- The state with a verdict issued UNMEASURED, its record still to come (R75). -/
def State.entered (s : State) (e : PendingVerdict) : State :=
  (s.setPeers (s.peers.takePending e)).issue { e.verdict with source := .unmeasured }

theorem resolveUnmeasured_eq (s : State) (e : PendingVerdict) : s.resolveUnmeasured e = (s.entered e).raise e.verdict.lost := rfl

/-- The verdict history behind an issue (R78). -/
theorem issue_verdicts (s : State) (v : Verdict) : (s.issue v).verdicts =
    ⟨newest 16 (s.verdicts.history ++ [{ v with serial := s.verdicts.nextSerial }]), s.verdicts.nextSerial + 1⟩ := by
  unfold State.issue
  dsimp only
  split
  · rfl
  · split <;> rfl

theorem issue_log (s : State) (v : Verdict) : (s.issue v).log = s.log := by
  unfold State.issue
  dsimp only
  split
  · rfl
  · split <;> rfl

/-- While a restart is in progress no notice is offered (R138). -/
theorem offer_restarting {s : State} (restarting : s.startup.restarting = true) (n : Notice) (c : List Nat) :
    s.offer n c = s := if_neg fun h => by simp [restarting] at h

theorem upshift_restarting {s : State} (restarting : s.startup.restarting = true) :
    s.upshift.link.noticeDrops = s.link.noticeDrops ∧ s.upshift.link.crcErrors = s.link.crcErrors := by
  unfold State.upshift State.offerStatus
  split
  · dsimp only
    split
    · exact ⟨rfl, rfl⟩
    · rw [offer_restarting (by exact restarting)]
      exact ⟨rfl, rfl⟩
  · exact ⟨rfl, rfl⟩

/-- Pulses, records and cursors are not the link's. -/
theorem enterRecord_link (s : State) (q : BreachRequest) : (s.enterRecord q).1.link = s.link := by
  have pulsed : ∀ (t : State) w, (t.triggerPulses w).link = t.link := by
    intro t w
    unfold State.triggerPulses
    split <;> rfl
  have appended : ∀ (t : State) r, (t.appendRecord r).link = t.link := by
    intro t r
    unfold State.appendRecord
    split <;> rfl
  have discarded : ∀ (t : State) r, (t.discardRecord r).link = t.link := by
    intro t r
    unfold State.discardRecord
    split <;> rfl
  have stored : ∀ (t : State) r, (t.storeRecord r).1.link = t.link := by
    intro t r
    unfold State.storeRecord State.refuseRecord State.pulseForLogFull
    split
    · exact appended t r
    · split
      · rw [appended, discarded]
      · split
        · rfl
        · exact pulsed _ _
  unfold State.enterRecord State.pulseForCategory
  dsimp only
  split
  · rw [State.setLog_link, stored, pulsed]
    rfl
  · rw [stored, pulsed]
    rfl

theorem entered_resolves (s : State) (e : PendingVerdict) : Resolves s (s.entered e) := by
  unfold State.entered State.issue
  dsimp only
  split
  · exact ⟨rfl, rfl, rfl, rfl, rfl, rfl, rfl, rfl, rfl, rfl, rfl, rfl, rfl, rfl⟩
  · split <;> exact ⟨rfl, rfl, rfl, rfl, rfl, rfl, rfl, rfl, rfl, rfl, rfl, rfl, rfl, rfl⟩

theorem raise_lost_resolves {s : State} (restarting : s.startup.restarting = true) (v : Verdict) :
    Resolves s (s.raise v.lost) := by
  have plain : v.lost.category.retains = false := rfl
  have reports := raise_reports plain s
  have link : (s.raise v.lost).link = (s.enterRecord v.lost).1.upshift.link := by
    rw [raise_plain plain]
    rfl
  have held := upshift_restarting (s := (s.enterRecord v.lost).1)
    ((enterRecord_keeps s v.lost).startup ▸ restarting)
  rw [enterRecord_link] at held
  exact ⟨reports.measured.pending, reports.measured.startup, reports.measured.port, reports.measured.reception,
    reports.measured.segments, reports.measured.time, reports.measured.captions, reports.recorder,
    congrArg PeerMonitor.overflow reports.peers, link ▸ held.1, link ▸ held.2, reports.txn, reports.unitCursor,
    (raise_log plain s).1 rfl⟩

theorem resolveUnmeasured_resolves {s : State} (restarting : s.startup.restarting = true) (e : PendingVerdict) :
    Resolves s (s.resolveUnmeasured e) :=
  have entered := entered_resolves s e
  entered.trans (raise_lost_resolves (entered.startup ▸ restarting) e.verdict)

/-- A MEASUREMENT_LOST record of a pending verdict, new (R75). -/
def LostFor (e : PendingVerdict) (x : BreachRecord) : Prop :=
  x.category = .measurementLost ∧ x.origin = .own ∧
    x.startStamp = e.verdict.startStamp ∧ x.endStamp = some e.verdict.endStamp ∧ x.figure = none ∧
    x.segmentId = e.verdict.id ∧ x.cls = e.verdict.cls ∧ x.scope = e.verdict.scope ∧ x.hold = none ∧
    x.acked = false

/-- A verdict resolved: its record behind the old ones, its entry behind the old verdicts (R75, R78). -/
theorem resolveUnmeasured_enters (s : State) (e : PendingVerdict) :
    (s.log.records.length < 128 → ∃ x, LostFor e x ∧ (s.resolveUnmeasured e).log.records = s.log.records ++ [x]) ∧
    (∀ x ∈ (s.resolveUnmeasured e).log.records, x ∈ s.log.records ∨ x.isOpen = false) ∧
    (s.resolveUnmeasured e).verdicts = ⟨newest 16 (s.verdicts.history ++
      [{ e.verdict with source := .unmeasured, serial := s.verdicts.nextSerial }]), s.verdicts.nextSerial + 1⟩ := by
  have plain : e.verdict.lost.category.retains = false := rfl
  have log : (s.entered e).log = s.log := issue_log _ _
  obtain ⟨-, stored, old⟩ := raise_log plain (s.entered e)
  rw [log] at stored old
  rw [resolveUnmeasured_eq]
  refine ⟨fun room => ⟨_, ⟨rfl, rfl, rfl, rfl, rfl, rfl, rfl, rfl, rfl, rfl⟩, stored room⟩, fun x hx => ?_, ?_⟩
  · rcases old x hx with kept | ⟨n, k, new⟩
    · exact .inl kept
    · exact .inr (congrArg BreachRecord.isOpen new)
  · rw [(raise_reports plain _).measured.verdicts]
    exact issue_verdicts _ _

/-- The verdicts of pending entries, resolved UNMEASURED with serials from `n` on (R165). -/
def resolvedVerdicts (n : Nat) (l : List PendingVerdict) : List Verdict :=
  l.mapIdx (fun i e => { e.verdict with source := .unmeasured, serial := n + i })

theorem resolvedVerdicts_cons (n : Nat) (e : PendingVerdict) (l : List PendingVerdict) : resolvedVerdicts n (e :: l) =
    { e.verdict with source := .unmeasured, serial := n } :: resolvedVerdicts (n + 1) l := by
  unfold resolvedVerdicts
  rw [List.mapIdx_cons]
  simp only [Nat.add_zero, Nat.add_comm, Nat.add_left_comm]

/-- The newest of a list already cut to its newest, with more behind it. -/
theorem newest_newest_append {α : Type} (n : Nat) (l m : List α) : newest n (newest n l ++ m) = newest n (l ++ m) := by
  unfold newest
  rcases Nat.le_total l.length n with short | long
  · rw [Nat.sub_eq_zero_of_le short, List.drop_zero]
  · have cut : l.drop (l.length - n) ++ m = (l ++ m).drop (l.length - n) :=
      (List.drop_append_of_le_length (Nat.sub_le _ _)).symm
    rw [cut, List.drop_drop, List.length_drop, List.length_append]
    congr 1
    omega

/-! ### The pending verdicts, one after another -/

/-- The records with all pending verdicts resolved, where the log has room, and whatever the room (R165). -/
structure Lost (old : List BreachRecord) (l : List PendingVerdict) (new : List BreachRecord) : Prop where
  behind : old.length + l.length ≤ 128 → ∃ lost, new = old ++ lost ∧ List.Forall₂ LostFor l lost
  closed : ∀ x ∈ new, x ∈ old ∨ x.isOpen = false

/-- The pending verdicts resolved in list order (R165). -/
theorem resolveEach_enters : ∀ (l : List PendingVerdict) (s : State), s.startup.restarting = true →
    let t := l.foldl (fun t e => t.resolveUnmeasured e) s
    Resolves s t ∧ Lost s.log.records l t.log.records ∧
      (s.verdicts.history.length ≤ 16 →
        t.verdicts.history = newest 16 (s.verdicts.history ++ resolvedVerdicts s.verdicts.nextSerial l)) ∧
      t.verdicts.nextSerial = s.verdicts.nextSerial + l.length
  | [], s, _ => by
    refine ⟨.refl s, ⟨fun _ => ⟨[], (List.append_nil _).symm, .nil⟩, fun x hx => .inl hx⟩, fun few => ?_, rfl⟩
    have whole : newest 16 s.verdicts.history = s.verdicts.history := by
      unfold newest
      rw [Nat.sub_eq_zero_of_le few, List.drop_zero]
    exact ((congrArg (newest 16) (List.append_nil _)).trans whole).symm
  | e :: l, s, restarting => by
    intro t
    have first := resolveUnmeasured_resolves restarting e
    obtain ⟨stored, old, verdicts⟩ := resolveUnmeasured_enters s e
    obtain ⟨rest, lost, history, serial⟩ := resolveEach_enters l (s.resolveUnmeasured e) (first.startup ▸ restarting)
    refine ⟨first.trans rest, ⟨fun room => ?_, fun x hx => ?_⟩, fun _ => ?_, ?_⟩
    · rw [List.length_cons] at room
      obtain ⟨x, forE, one⟩ := stored (by omega)
      obtain ⟨xs, all, each⟩ := lost.behind (by rw [one, List.length_append, List.length_singleton]; omega)
      exact ⟨x :: xs, all.trans (by rw [one, List.append_assoc, List.singleton_append]), .cons forE each⟩
    · rcases lost.closed x hx with early | new
      · exact old x early
      · exact .inr new
    · refine (history ?_).trans ?_
      · rw [verdicts]
        exact newest_length_le _ _
      · rw [verdicts, newest_newest_append, List.append_assoc, resolvedVerdicts_cons, List.singleton_append]
    · refine serial.trans ?_
      rw [verdicts, List.length_cons]
      exact Nat.add_right_comm _ 1 _

/-! ### The RESTART MARK unit and the clearing (R102, R192) -/

/-- A MARK request joins those waiting, and no other is lost (R102). -/
theorem mem_requestMark (s : State) (m x : MarkRequest) :
    x ∈ (s.requestMark m).recorder.marks ↔ x = m ∨ x ∈ s.recorder.marks :=
  (placeBefore_perm _ m s.recorder.marks).mem_iff.trans List.mem_cons

/-- With no peer heard there is none to follow (R31). -/
theorem peerChoice_nil {s : State} (none : s.peers.table = []) : s.peerChoice = .none := by
  unfold State.peerChoice
  rw [none]
  rfl

/-- The Time Base told of the loss of its followed peer while no record is made and no peer is heard (R33, R40). -/
theorem forgetFollowed_alone {s : State} (quiet : s.live = false) (nobody : s.peers.table = []) :
    ∃ time, s.forgetFollowed = s.setTime time ∧ time.shelf = s.time.shelf ∧
      time.localCount = s.time.localCount ∧ time.history = s.time.history ∧ (s.time.source ≠ .peer → time = s.time) ∧
      (∀ n, s.time.source = .peer → s.time.followed = some n → time.source = .free ∧ time.followed = none) := by
  unfold State.forgetFollowed State.loseFollowed
  rw [peerChoice_nil nobody]
  split
  · next none => exact ⟨s.time, rfl, rfl, rfl, rfl, fun _ => rfl, fun n _ some => by simp [none] at some⟩
  · next station followed =>
    split
    · next peer =>
      refine ⟨_, if_neg (fun live => ?_), rfl, rfl, rfl, fun other => absurd peer.1 other, fun _ _ _ => ⟨rfl, rfl⟩⟩
      exact Bool.false_ne_true (quiet.symm.trans live)
    · next other =>
      exact ⟨s.time, rfl, rfl, rfl, rfl, fun _ => rfl, fun n peer _ => absurd ⟨peer, followed⟩ other⟩

/-- The units a restart leaves in the input queue (R13). -/
theorem restarted_queue (p : MediaPort) (writing : Option RecordedUnit) :
    (writing = none → (p.restarted writing.isSome).queue = [] ∧
      (p.restarted writing.isSome).startDiscards = addCount p.startDiscards p.queue.length) ∧
    (∀ u, writing = some u → (p.restarted writing.isSome).queue = p.queue.take 1 ∧
      (p.restarted writing.isSome).startDiscards = addCount p.startDiscards (p.queue.length - 1)) := by
  cases writing with
  | none => exact ⟨fun _ => ⟨rfl, rfl⟩, fun u some => (nomatch some)⟩
  | some u =>
    refine ⟨fun none => (nomatch none), fun _ _ => ⟨rfl, congrArg (addCount p.startDiscards) ?_⟩⟩
    change p.queue.length - (p.queue.take 1).length = _
    rw [List.length_take]
    omega

/-- A slot as a restart leaves it (R121). -/
theorem cutHold_slots (r : Recorder) (now : Nat) :
    List.Forall₂ (fun a b : HoldSlot => b.tenure = a.tenure ∧ b.hold = a.hold.map (fun h =>
        if h.isOpen then
          { h with isOpen := false, stop := some now, last := some (r.lastNow h), closeStamp := some now
                   flags := { h.flags with restartCut := true } }
        else h))
      r.slots (r.changeOpen (r.cutHold now)).slots :=
  List.forall₂_map_right_iff.mpr (List.forall₂_same.mpr fun _ _ => ⟨rfl, rfl⟩)

/-- A restarted log holds no OPEN record: the old ones are closed by the cut. -/
theorem map_restartCut_closed (stop : Stamp) (holds : List Hold) (l : List BreachRecord) :
    ∀ x ∈ l.map (BreachRecord.restartCut stop holds), x.isOpen = false := by
  intro x hx
  obtain ⟨r, -, rfl⟩ := List.mem_map.mp hx
  rfl

/-- The clearing, block by block; only the Time Base depends on what it followed (R192). -/
theorem clearForRestart_eq (s : State) : ∃ time : TimeBase,
    s.clearForRestart = ((((((((s.setStartup { s.startup with
        station := .checking, listeningSince := none, restarting := false, withdrawReported := false }).setPort
      (s.port.restarted s.recorder.writing.isSome)).setReception (.resetAt (tallyIntervalOf s.now))).setSegments
      { SegmentTracker.reset with nextOpening := s.segments.nextOpening, cueDrops := s.segments.cueDrops }).setLoudness
      .reset).setCaptions { CaptionChecker.reset with lateCount := s.captions.lateCount }).setPeers
      s.peers.restarted).setLink s.link.restarted).setTime time ∧
    time.shelf = s.time.shelf ∧ time.localCount = s.time.localCount ∧ time.history = s.time.history ∧
    (s.time.source ≠ .peer → time = s.time) ∧
    (∀ n, s.time.source = .peer → s.time.followed = some n → time.source = .free ∧ time.followed = none) :=
  forgetFollowed_alone rfl rfl

/-- Settles O16: steps 2 to 6, each by the lemma on it. -/
theorem restartSequence : Obligations.RestartSequence := by
  intro s live restarting withdrawn
  obtain ⟨kept, lost, history, serial⟩ :=
    resolveEach_enters s.peers.pendingVerdicts s.cutRecords.cutHolds (by rw [cuts_eq]; exact restarting)
  have run : exec .restartSequence s = .next s.cutRecords.cutHolds.resolveAll.markRestart.clearForRestart :=
    if_pos ⟨live, withdrawn⟩
  have all : s.cutRecords.cutHolds.resolveAll =
      s.peers.pendingVerdicts.foldl (fun t e => t.resolveUnmeasured e) s.cutRecords.cutHolds := by
    rw [cuts_eq]
    rfl
  have alone : s.peers.pendingVerdicts = [] → s.cutRecords.cutHolds.resolveAll = s.cutRecords.cutHolds := by
    intro none
    rw [all, none]
    rfl
  rw [← all] at kept lost history serial
  generalize s.cutRecords.cutHolds.resolveAll = b at *
  rw [cuts_eq] at kept lost history serial alone
  obtain ⟨time, cleared, shelf, count, past, unfollowed, followed⟩ := clearForRestart_eq b.markRestart
  have ported : b.markRestart.port.restarted b.markRestart.recorder.writing.isSome =
      s.port.restarted s.recorder.writing.isSome :=
    congrArg₂ (fun (p : MediaPort) (w : Option RecordedUnit) => p.restarted w.isSome) kept.port
      (congrArg Recorder.writing kept.recorder :)
  have queue := restarted_queue s.port s.recorder.writing
  rw [← ported] at queue
  have sameTime : b.markRestart.time = s.time := kept.time
  have stamp : b.nowStamp = s.nowStamp :=
    congrArg (fun x : TimeBase => Stamp.mk x.shelf x.source x.correcting) kept.time
  refine ⟨_, run.trans (congrArg Host.Outcome.next cleared), kept.pending, ?startup, ?closed, kept.causes, ?behind,
    history, serial, ?quiet, kept.txn, kept.unitCursor, ?slots, ?recorder, ?mark, ?marks, queue.1, queue.2,
    (congrArg Recorder.writing kept.recorder :), (congrArg MediaPort.framing kept.port :), rfl, rfl, rfl, rfl,
    (congrArg MediaPort.inputDrops kept.port :), (congrArg MediaPort.framingErrors kept.port :),
    (congrArg MediaPort.damaged kept.port :), (congrArg SegmentTracker.cueDrops kept.segments :), rfl, rfl, rfl, rfl, rfl, rfl,
    ?captions, ?peers, rfl, rfl, rfl, rfl, kept.noticeDrops, kept.crcErrors, shelf.trans (congrArg TimeBase.shelf sameTime),
    count.trans (congrArg TimeBase.localCount sameTime), past.trans (congrArg TimeBase.history sameTime),
    fun other => (unfollowed (sameTime.symm ▸ other)).trans sameTime,
    fun n peer some => followed n (sameTime.symm ▸ peer) (sameTime.symm ▸ some)⟩
  case startup => exact congrArg (fun x : Startup => { x with
    station := .checking, listeningSince := none, restarting := false, withdrawReported := false }) kept.startup
  case closed =>
    intro r hr
    rcases lost.closed r hr with old | new
    · exact map_restartCut_closed _ _ _ r old
    · exact new
  case behind =>
    intro room
    obtain ⟨xs, behind, each⟩ := lost.behind ((congrArg (· + s.peers.pendingVerdicts.length)
      (List.length_map (as := s.log.records) _)).trans_le room)
    exact ⟨_, xs, behind, List.forall₂_map_right_iff.mpr (List.forall₂_same.mpr fun _ _ => rfl), each⟩
  case quiet =>
    intro none
    exact ⟨(congrArg State.evidence (alone none) :), (congrArg State.alarms (alone none) :)⟩
  case slots => exact (congrArg Recorder.slots kept.recorder) ▸ cutHold_slots s.recorder s.now
  case recorder => exact (congrArg (fun r : Recorder =>
    { r with slots := b.recorder.slots, marks := b.markRestart.recorder.marks }) kept.recorder :)
  case mark => exact ⟨_, (mem_requestMark b _ _).mpr (.inl rfl), rfl, stamp, (congrArg MediaPort.nextSerial kept.port :)⟩
  case marks =>
    intro m hm
    exact (mem_requestMark b _ m).mpr (.inr ((congrArg Recorder.marks kept.recorder).symm ▸ hm))
  case captions => exact congrArg (fun c : CaptionChecker => { CaptionChecker.reset with lateCount := c.lateCount }) kept.captions
  case peers => exact congrArg (fun n : Nat => { PeerMonitor.reset with overflow := n }) kept.overflow

end Sys2Proof.Machine
end

section
/-! SUPPORT. What the measuring of a received stream leaves alone: records, holds, notices, verdicts, captions and loudness
never touch the Media Port, the Reception Monitor or the waiting MARK units, and only segment and programme changes touch the
Segment Tracker. One lemma per operation, in the order of the model. -/

namespace Sys2Proof.Machine

/-- The second state has the Media Port, the Reception Monitor and the waiting MARK units of the first. -/
structure KeepsInput (s t : State) : Prop where
  port      : t.port = s.port
  reception : t.reception = s.reception
  marks     : t.recorder.marks = s.recorder.marks

/-- And its Segment Tracker. -/
structure KeepsStream (s t : State) : Prop extends KeepsInput s t where
  segments  : t.segments = s.segments

namespace KeepsInput

variable {s t u : State}

theorem refl (s : State) : KeepsInput s s := ⟨rfl, rfl, rfl⟩

theorem trans (a : KeepsInput s t) (b : KeepsInput t u) : KeepsInput s u :=
  ⟨b.port.trans a.port, b.reception.trans a.reception, b.marks.trans a.marks⟩

theorem setSegments (h : KeepsInput s t) (x : SegmentTracker) : KeepsInput s (t.setSegments x) :=
  ⟨h.port, h.reception, h.marks⟩

theorem setLoudness (h : KeepsInput s t) (x : LoudnessUnit) : KeepsInput s (t.setLoudness x) :=
  ⟨h.port, h.reception, h.marks⟩

theorem setCaptions (h : KeepsInput s t) (x : CaptionChecker) : KeepsInput s (t.setCaptions x) :=
  ⟨h.port, h.reception, h.marks⟩

end KeepsInput

namespace KeepsStream

variable {s t u : State}

theorem refl (s : State) : KeepsStream s s := ⟨.refl s, rfl⟩

theorem trans (a : KeepsStream s t) (b : KeepsStream t u) : KeepsStream s u :=
  ⟨a.toKeepsInput.trans b.toKeepsInput, b.segments.trans a.segments⟩

/-- An operation that keeps the measuring blocks, and the waiting MARK units. -/
theorem of (h : KeepsMeasured s t) (marks : t.recorder.marks = s.recorder.marks) : KeepsStream s t :=
  ⟨⟨h.port, h.reception, marks⟩, h.segments⟩

/-- Reports leave the Recorder alone. -/
theorem ofReports (h : OnlyReports s t) : KeepsStream s t := of h.measured (congrArg Recorder.marks h.recorder)

theorem setLoudness (h : KeepsStream s t) (x : LoudnessUnit) : KeepsStream s (t.setLoudness x) :=
  ⟨h.toKeepsInput.setLoudness x, h.segments⟩

theorem setCaptions (h : KeepsStream s t) (x : CaptionChecker) : KeepsStream s (t.setCaptions x) :=
  ⟨h.toKeepsInput.setCaptions x, h.segments⟩

theorem setRecorder (h : KeepsStream s t) (x : Recorder) (marks : x.marks = t.recorder.marks) :
    KeepsStream s (t.setRecorder x) := ⟨⟨h.port, h.reception, marks.trans h.marks⟩, h.segments⟩

theorem setPeers (h : KeepsStream s t) (x : PeerMonitor) : KeepsStream s (t.setPeers x) :=
  ⟨⟨h.port, h.reception, h.marks⟩, h.segments⟩

theorem setLog (h : KeepsStream s t) (x : BreachLog) : KeepsStream s (t.setLog x) :=
  ⟨⟨h.port, h.reception, h.marks⟩, h.segments⟩

theorem setLink (h : KeepsStream s t) (x : ShelfLink) : KeepsStream s (t.setLink x) :=
  ⟨⟨h.port, h.reception, h.marks⟩, h.segments⟩

theorem setVerdicts (h : KeepsStream s t) (x : VerdictFormer) : KeepsStream s (t.setVerdicts x) :=
  ⟨⟨h.port, h.reception, h.marks⟩, h.segments⟩

theorem setEvidence (h : KeepsStream s t) (x : EvidencePort) : KeepsStream s (t.setEvidence x) :=
  ⟨⟨h.port, h.reception, h.marks⟩, h.segments⟩

end KeepsStream

open KeepsStream

/-! ### Records and holds -/

theorem changeRecord_stream (s : State) (n : Option Nat) (f : BreachRecord → BreachRecord) :
    KeepsStream s (s.changeRecord n f) := of (changeRecord_keeps s n f) <| by
  unfold State.changeRecord
  split <;> rfl

theorem setEnd_stream (s : State) (r : SlotRef) (t : Nat) : KeepsStream s (s.setEnd r t) := by
  unfold State.setEnd
  split
  · exact (refl s).setRecorder _ (by rfl)
  · exact refl s

theorem freeHold_marks (r : Recorder) (slot : Nat) : (r.freeHold slot).marks = r.marks := by
  unfold Recorder.freeHold
  split <;> rfl

theorem evictHold_stream (s : State) (slot : Nat) : KeepsStream s (s.evictHold slot) := by
  unfold State.evictHold
  split
  · exact refl s
  · have told : ∀ n f, KeepsStream s ((s.setRecorder (s.recorder.freeHold slot)).changeRecord n f) := fun n f =>
      ((refl s).setRecorder _ (freeHold_marks _ _)).trans (changeRecord_stream _ n f)
    split
    · exact (told _ _).setPeers _
    · exact told _ _
    · exact told _ _

theorem evictAll_stream : ∀ (l : List Nat) (s : State), KeepsStream s (s.evictAll l)
  | [], s => refl s
  | slot :: l, s => (evictHold_stream s slot).trans (evictAll_stream l (s.evictHold slot))

theorem placeHold_stream (s : State) (p : Priority) (a : Nat) (b : Option Nat) (n : Option Nat) :
    KeepsStream s (s.placeHold p a b n).1 := by
  unfold State.placeHold
  split
  · exact refl s
  · dsimp only
    split
    · exact refl s
    · split
      · exact refl s
      · exact ((evictAll_stream _ s).setRecorder _ (by rfl)).trans (changeRecord_stream _ _ _)

theorem createHoldRefused_stream (s : State) (n : Option Nat) : KeepsStream s (s.createHoldRefused n) := by
  unfold State.createHoldRefused State.createPlain
  dsimp only
  exact ofReports ((enterRecord_reports s _).trans (announce_reports _ _ _))

theorem holdForRecord_stream (s : State) (q : BreachRequest) (n : Option Nat) : KeepsStream s (s.holdForRecord q n) := by
  unfold State.holdForRecord
  split
  · dsimp only
    split
    · exact (placeHold_stream s _ _ _ _).trans (createHoldRefused_stream _ _)
    · exact (placeHold_stream s _ _ _ _).setLog _
  · exact refl s

theorem raise_stream (s : State) (q : BreachRequest) : KeepsStream s (s.raise q) :=
  ((ofReports (enterRecord_reports s q)).trans (holdForRecord_stream _ _ _)).trans (ofReports (announce_reports _ _ _))

theorem closeBreach_stream (s : State) (c : Category) (t : Stamp) (f : Option Int) (i : Bool) :
    KeepsStream s (s.closeBreach c t f i) := by
  unfold State.closeBreach
  split
  · exact refl s
  · next k _ =>
    dsimp only
    have closed : KeepsStream s (if k.stored then s.setLog (s.log.change k.number (closeRecord t f i)) else s) := by
      split
      · exact (refl s).setLog _
      · exact refl s
    refine KeepsStream.setLog ?_ _
    split <;> split
    · exact closed.trans (ofReports (offer_reports _ _ _))
    · exact (closed.trans (setEnd_stream _ _ _)).trans (ofReports (offer_reports _ _ _))
    · exact closed
    · exact closed.trans (setEnd_stream _ _ _)

theorem closeDivergent_stream (s : State) : KeepsStream s s.closeDivergent := by
  unfold State.closeDivergent
  split
  · exact ((refl s).setPeers _).trans (closeBreach_stream _ _ _ _ _)
  · exact refl s

theorem judge_stream (s : State) : KeepsStream s s.judge := by
  unfold State.judge
  dsimp only
  split
  · exact ((refl s).setPeers _).trans (closeDivergent_stream _)
  · exact (refl s).setPeers _

/-! ### Verdicts -/

theorem issue_stream (s : State) (v : Verdict) : KeepsStream s (s.issue v) := by
  unfold State.issue
  dsimp only
  split
  · exact ((refl s).setVerdicts _).setEvidence _
  · split
    · exact (refl s).setVerdicts _
    · exact ((refl s).setVerdicts _).setEvidence _

theorem checkLoudness_stream (s : State) (v : Verdict) (p : Bool) : KeepsStream s (s.checkLoudness v p) := by
  unfold State.checkLoudness
  split
  · exact refl s
  · exact raise_stream s _

theorem issueOwn_stream (s : State) (v : Verdict) : KeepsStream s (s.issueOwn v) :=
  ((issue_stream s _).trans (ofReports (offer_reports _ _ _))).trans (checkLoudness_stream _ _ _)

theorem issueUnmeasured_stream (s : State) (v : Verdict) : KeepsStream s (s.issueUnmeasured v) :=
  (issue_stream s _).trans (raise_stream _ _)

theorem resolveProxy_stream (s : State) (v : Verdict) (c : CacheEntry) : KeepsStream s (s.resolveProxy v c) :=
  (issue_stream s _).trans (checkLoudness_stream _ _ _)

theorem makeRoom_stream (s : State) : KeepsStream s s.makeRoom := by
  unfold State.makeRoom
  split
  · split
    · exact ((refl s).setPeers _).trans (issueUnmeasured_stream _ _)
    · exact refl s
  · exact refl s

theorem placePending_stream (s : State) (v : Verdict) : KeepsStream s (s.placePending v) := by
  unfold State.placePending
  dsimp only
  split
  · exact (makeRoom_stream s).trans (issueUnmeasured_stream _ _)
  · exact (makeRoom_stream s).setPeers _

theorem deal_stream (s : State) (v : Verdict) : KeepsStream s (s.deal v) := by
  unfold State.deal State.handOff
  split
  · split
    · split
      · exact resolveProxy_stream s _ _
      · exact placePending_stream s _
    · exact issueUnmeasured_stream s _
  · exact issueOwn_stream s _

theorem dealClosed_stream (s : State) (c : Option Context) (k : VerdictKind) (id : Word32) (cls : SegClass) (scope : Scope)
    (v : Option Nat) : KeepsStream s (s.dealClosed c k id cls scope v) := by
  unfold State.dealClosed
  split
  · exact refl s
  · exact deal_stream s _

/-! ### Captions -/

theorem closeAbsent_stream (s : State) (t : Stamp) : KeepsStream s (s.closeAbsent t) := by
  unfold State.closeAbsent
  split
  · exact ((refl s).setCaptions _).trans (closeBreach_stream _ _ _ _ _)
  · exact refl s

theorem closeStuck_stream (s : State) (t : Stamp) : KeepsStream s (s.closeStuck t) := by
  unfold State.closeStuck
  split
  · exact ((refl s).setCaptions _).trans (closeBreach_stream _ _ _ _ _)
  · exact refl s

theorem openAbsent_stream (s : State) (r : CheckingRecord) : KeepsStream s (s.openAbsent r) := by
  unfold State.openAbsent
  split
  · exact refl s
  · split
    · exact ((refl s).setCaptions _).trans (raise_stream _ _)
    · exact refl s

theorem openStuck_stream (s : State) (r : CheckingRecord) : KeepsStream s (s.openStuck r) := by
  unfold State.openStuck
  split
  · exact refl s
  · split
    · exact ((refl s).setCaptions _).trans (raise_stream _ _)
    · exact refl s

theorem gapStep_stream (s : State) (r : CheckingRecord) (j : Judgement) (i : Option CaptionIdentity) :
    KeepsStream s (s.gapStep r j i) := by
  unfold State.gapStep
  dsimp only
  split
  · exact (closeAbsent_stream s _).setCaptions _
  · split
    · exact ((refl s).setCaptions _).trans (openAbsent_stream _ _)
    · exact refl s

theorem stuckStep_stream (s : State) (r : CheckingRecord) (j : Judgement) (i : Option CaptionIdentity) :
    KeepsStream s (s.stuckStep r j i) := by
  unfold State.stuckStep
  dsimp only
  split
  · exact (closeStuck_stream s _).setCaptions _
  · split
    · exact ((refl s).setCaptions _).trans (openStuck_stream _ _)
    · exact refl s

theorem judgeCaptions_stream (s : State) (j : Judgement) : KeepsStream s (s.judgeCaptions j) := by
  unfold State.judgeCaptions State.captionSteps
  dsimp only
  split
  · exact (refl s).setCaptions _
  · split
    · exact ((((refl s).setCaptions _).setCaptions _).trans
        ((gapStep_stream _ _ _ _).trans (stuckStep_stream _ _ _ _))).setCaptions _
    · exact (refl s).setCaptions _

theorem closeCaptions_stream (s : State) (t : Stamp) (n : Option Nat) : KeepsStream s (s.closeCaptions t n).1 :=
  ((closeAbsent_stream s t).trans (closeStuck_stream _ t)).setCaptions _

/-! ### Loudness -/

theorem judgePeak_stream (s : State) (r : SubBlock) (p : List Nat) : KeepsStream s (s.judgePeak r p) := by
  unfold State.judgePeak
  dsimp only
  split
  · exact ((refl s).setLoudness _).trans (raise_stream _ _)
  · exact refl s

theorem closeExcess_stream (s : State) (t : Stamp) : KeepsStream s (s.closeExcess t) := by
  unfold State.closeExcess
  split
  · exact ((refl s).setLoudness _).trans (closeBreach_stream _ _ _ _ _)
  · exact refl s

theorem openExcess_stream (s : State) : KeepsStream s s.openExcess := by
  unfold State.openExcess
  split
  · exact refl s
  · split
    · exact ((refl s).setLoudness _).trans (raise_stream _ _)
    · exact refl s

theorem stepExcess_stream (s : State) (r : SubBlock) : KeepsStream s (s.stepExcess r) := by
  unfold State.stepExcess
  dsimp only
  split
  · split
    · exact refl s
    · split
      · exact ((refl s).setLoudness _).trans (openExcess_stream _)
      · exact (closeExcess_stream s _).setLoudness _
  · exact refl s

theorem formSignature_stream (s : State) (t : Stamp) : KeepsStream s (s.formSignature t) := by
  unfold State.formSignature State.offerSignature
  split
  · exact refl s
  · exact ((refl s).setLoudness _).setLink _

theorem completeSubBlock_stream (s : State) (b : SubBlockInProgress) (m : Bool) (g : MediaTime) :
    KeepsStream s (s.completeSubBlock b m g) := by
  unfold State.completeSubBlock
  dsimp only
  have peaked := ((refl s).setLoudness (((s.loudness.take (b.record m)).formBlock).creditPeaks (b.record m).opening
    b.peaks)).trans (judgePeak_stream _ (b.record m) b.peaks)
  split
  · exact ((((peaked.setLoudness _).trans (stepExcess_stream _ _)).trans (judgeCaptions_stream _ _)).setLoudness _).trans
      (formSignature_stream _ _)
  · exact (((peaked.setLoudness _).trans (stepExcess_stream _ _)).trans (judgeCaptions_stream _ _)).setLoudness _

theorem closePeak_stream (s : State) (t : Stamp) (i : Bool) : KeepsStream s (s.closePeak t i) := by
  unfold State.closePeak
  split
  · exact refl s
  · split
    · exact closeBreach_stream s _ _ _ _
    · exact refl s

theorem closeSegmentContext_stream (s : State) (r : SegmentRecord) (t : Stamp) :
    KeepsStream s (s.closeSegmentContext r t).1 :=
  ((closeExcess_stream s t).trans (closePeak_stream _ t r.impaired)).setLoudness _

theorem closeProgrammeContext_stream (s : State) (p : Programme) : KeepsStream s (s.closeProgrammeContext p).1 :=
  (refl s).setLoudness _

/-! ### Segment and programme changes: the Segment Tracker after each step, and the input kept (R22, R23) -/

theorem closeSegment_segments (s : State) (stop : Stamp) : KeepsInput s (s.closeSegment stop) ∧
    (s.closeSegment stop).segments = s.segments.endProgrammeSegment stop := by
  have checked := ((closeSegmentContext_stream (s.setSegments (s.segments.endProgrammeSegment stop))
    { s.segments.current with endStamp := some stop } stop).trans (closeCaptions_stream _ stop
      ((s.segments.endProgrammeSegment stop).programme.map (fun p => p.opening))))
  have closed : KeepsStream (s.setSegments (s.segments.endProgrammeSegment stop)) (s.closeSegment stop) := by
    unfold State.closeSegment
    dsimp only
    split
    · exact checked
    all_goals exact checked.trans (dealClosed_stream _ _ _ _ _ _ _)
  exact ⟨((KeepsInput.refl s).setSegments _).trans closed.toKeepsInput, closed.segments⟩

theorem closeProgramme_segments (s : State) (r : SegmentRecord) : KeepsInput s (s.closeProgramme r) ∧
    (s.closeProgramme r).segments =
      if s.segments.programme.any (fun p => p.closedBy r) then { s.segments with programme := none } else s.segments := by
  unfold State.closeProgramme
  split
  · next none => simp [none, KeepsInput.refl]
  · next p some =>
    split
    · next closes =>
      have dealt := (closeProgrammeContext_stream s p).trans (dealClosed_stream _ (s.closeProgrammeContext p).2 .programme
        p.programmeId .programme p.scope s.captions.programmeCoverage)
      refine ⟨dealt.toKeepsInput.setSegments _, ?_⟩
      rw [some, Option.any_some, if_pos closes]
      rfl
    · next stays =>
      refine ⟨.refl s, ?_⟩
      rw [some, Option.any_some, if_neg stays]

theorem openProgramme_input (s : State) (r : SegmentRecord) (stamp : Stamp) : KeepsInput s (s.openProgramme r stamp) := by
  unfold State.openProgramme
  split
  · exact (((KeepsInput.refl s).setSegments _).setLoudness _).setCaptions _
  · exact (KeepsInput.refl s).setSegments _
  · exact .refl s

theorem openSegment_segments (s : State) (r : SegmentRecord) (stamp : Stamp) (replaced : Option Scope) :
    KeepsInput s (s.openSegment r stamp replaced) ∧ (s.openSegment r stamp replaced).segments = { s.segments with
      current := { r with opening := s.segments.openingFor r }, begun := true, nextOpening := s.segments.nextOpening + 1 } := by
  unfold State.openSegment
  dsimp only
  split
  · exact ⟨(((KeepsInput.refl s).setSegments _).setLoudness _).setCaptions _ |>.trans
      ((ofReports (upshift_reports _)).trans (judge_stream _)).toKeepsInput,
      ((ofReports (upshift_reports _)).trans (judge_stream _)).segments⟩
  · exact ⟨(((KeepsInput.refl s).setSegments _).setLoudness _).setCaptions _ |>.trans (judge_stream _).toKeepsInput,
      (judge_stream _).segments⟩

theorem changeSegment_input (s : State) (r : SegmentRecord) (stamp : Stamp) : KeepsInput s (s.changeSegment r stamp) := by
  unfold State.changeSegment
  split
  · exact (((closeSegment_segments s stamp).1.trans (closeProgramme_segments _ r).1).trans
      (openProgramme_input _ r stamp)).trans (openSegment_segments _ r stamp _).1
  · exact (openProgramme_input s r stamp).trans (openSegment_segments _ r stamp _).1

theorem applyCues_input (s : State) (g : MediaTime) (stamp : Stamp) : KeepsInput s (s.applyCues g stamp) := by
  unfold State.applyCues
  dsimp only
  split
  · exact ((KeepsInput.refl s).setSegments _).trans (changeSegment_input _ _ _)
  · split
    · exact .refl s
    · exact changeSegment_input s _ _

theorem endSubBlock_input (s : State) (m : Bool) (g : MediaTime) : KeepsInput s (s.endSubBlock m g) := by
  unfold State.endSubBlock
  split
  · exact .refl s
  · exact ((KeepsInput.refl s).setSegments _).trans (completeSubBlock_stream _ _ _ _).toKeepsInput

/-- A grid-point event moves the sub-block latch on and leaves the rest of the input alone (R17). -/
theorem gridPointEvent_input (s : State) (g : MediaTime) (stamp : Stamp) :
    KeepsInput (s.setReception s.reception.handOut) (s.gridPointEvent g stamp) :=
  ((endSubBlock_input _ _ g).trans (applyCues_input _ g stamp)).setLoudness _

end Sys2Proof.Machine
end

section
/-! PROOF. The continuity stage (R10 to R12, R15): what an accepted AUDIO unit leaves of the port, the tally and the waiting
MARK units, how its samples are read, and the tally's buckets. Settles O36. -/

namespace Sys2Proof.Machine

/-! ### Handing on the samples -/

/-- Sample positions handed on change, of the input, the run being aligned and the sub-block latch alone. -/
structure HandsOn (s t : State) : Prop where
  port      : ∃ a, t.port = { s.port with aligning := a }
  reception : ∃ l, t.reception = { s.reception with latch := l }
  marks     : t.recorder.marks = s.recorder.marks

namespace HandsOn

theorem refl (s : State) : HandsOn s s := ⟨⟨_, rfl⟩, ⟨_, rfl⟩, rfl⟩

theorem trans {s t u : State} (a : HandsOn s t) (b : HandsOn t u) : HandsOn s u := by
  obtain ⟨i, port⟩ := a.port
  obtain ⟨j, port'⟩ := b.port
  obtain ⟨k, reception⟩ := a.reception
  obtain ⟨l, reception'⟩ := b.reception
  exact ⟨⟨j, by rw [port', port]⟩, ⟨l, by rw [reception', reception]⟩, b.marks.trans a.marks⟩

end HandsOn

/-- A position before the resume grid point is dropped (R11). -/
theorem handOn_dropped {s : State} {time g : MediaTime} (aligning : s.port.aligning = some g) (early : time ≠ g)
    (x : List Int) (stamp : Stamp) : s.handOn time x stamp = s := by
  refine if_pos ?_
  rw [aligning]
  exact bne_iff_ne.mpr early

/-- The grid-point event of a position, where it is due (R11). -/
def State.readyAt (s : State) (time : MediaTime) (stamp : Stamp) : State :=
  if isGridPoint time then (s.setPort { s.port with aligning := none }).gridPointEvent time stamp
  else s.setPort { s.port with aligning := none }

/-- A position at or after the resume grid point, or in a run already aligned (R11). -/
theorem handOn_taken {s : State} {time : MediaTime} (due : s.port.aligning = none ∨ s.port.aligning = some time)
    (x : List Int) (stamp : Stamp) : s.handOn time x stamp =
      (s.readyAt time stamp).setLoudness ((s.readyAt time stamp).loudness.takePosition x stamp) := by
  refine if_neg ?_
  rcases due with aligned | aligning
  · rw [aligned]
    exact Bool.false_ne_true
  · rw [aligning, Option.any_some]
    exact fun other => bne_iff_ne.mp other rfl

theorem readyAt_handsOn (s : State) (time : MediaTime) (stamp : Stamp) : HandsOn s (s.readyAt time stamp) := by
  unfold State.readyAt
  split
  · have event := gridPointEvent_input (s.setPort { s.port with aligning := none }) time stamp
    exact ⟨⟨_, event.port⟩, ⟨_, event.reception⟩, event.marks⟩
  · exact ⟨⟨_, rfl⟩, ⟨_, rfl⟩, rfl⟩

theorem handOn_handsOn (s : State) (time : MediaTime) (x : List Int) (stamp : Stamp) :
    HandsOn s (s.handOn time x stamp) := by
  have taken : ∀ due, HandsOn s (s.handOn time x stamp) := fun due => by
    rw [handOn_taken due]
    exact (readyAt_handsOn s time stamp).trans ⟨⟨_, rfl⟩, ⟨_, rfl⟩, rfl⟩
  cases aligning : s.port.aligning with
  | none => exact taken (.inl aligning)
  | some g =>
    by_cases here : time = g
    · exact taken (.inr (here ▸ aligning))
    · rw [handOn_dropped aligning here]
      exact .refl s

theorem handOnAll_handsOn : ∀ (l : List (List Int)) (s : State) (time : MediaTime) (stamp : Stamp),
    HandsOn s (s.handOnAll time stamp l)
  | [], s, _, _ => .refl s
  | x :: l, s, time, stamp => (handOn_handsOn s time x stamp).trans (handOnAll_handsOn l _ (time + 1) stamp)

/-! ### Accepting a unit -/

/-- The reference of AUDIO_ABSENT at an acceptance (R12). -/
theorem refreshAudio_input (s : State) (arrival : Stamp) :
    KeepsInput (s.setPort { s.port with audioRef := some arrival, audioAbsentOpen := false }) (s.refreshAudio arrival) := by
  unfold State.refreshAudio
  dsimp only
  split
  · exact (closeBreach_stream _ _ _ _ _).toKeepsInput
  · exact .refl _

/-- An evaluation asks for no MARK unit. -/
theorem evaluate_marks (s : State) : s.evaluate.recorder.marks = s.recorder.marks := by
  have entered : ∀ (t : State) n, (t.enterImpaired n).recorder.marks = t.recorder.marks := fun t n => by
    unfold State.enterImpaired
    rw [(judge_stream _).marks, (closeDivergent_stream _).marks, State.setCaptions_recorder, (raise_stream _ _).marks,
      State.setReception_recorder]
  unfold State.evaluate
  dsimp only
  split
  · rfl
  · split
    · split
      · rw [entered]
        rfl
      · rfl
    · rfl

/-- The state `t` in which an AUDIO unit has been accepted in the state `s` (R10, R12, R15). -/
structure Accepted (s : State) (u : QueuedUnit) (p : List Byte) (t : State) : Prop where
  expected : t.port.expected = some (u.mediaTime + BitVec.ofNat 40 (audioSamples p))
  channels : t.port.channels = some (audioChannels p)
  audioRef : t.port.audioRef = some u.arrival
  present  : t.port.audioAbsentOpen = false
  tally    : t.reception.tally = (s.reception.countAudio u.arrival.time u.damaged).tally
  queue    : t.port.queue = s.port.queue
  damaged  : t.port.damaged = s.port.damaged
  marks    : t.recorder.marks = s.recorder.marks

theorem acceptRun_accepted (s : State) (u : QueuedUnit) (p : List Byte) (filled : Nat) :
    Accepted s u p (s.acceptRun u p filled) := by
  unfold State.acceptRun State.acceptAudio
  dsimp only
  have refreshed := refreshAudio_input (s.setPort { s.port with
    expected := some (u.mediaTime + BitVec.ofNat 40 (audioSamples p)), channels := some (audioChannels p) }) u.arrival
  have handed := handOnAll_handsOn (List.replicate filled (List.replicate (audioChannels p) (0 : Int)) ++ readAudio p)
    ((s.setPort { s.port with
      expected := some (u.mediaTime + BitVec.ofNat 40 (audioSamples p)), channels := some (audioChannels p) }).refreshAudio
      u.arrival) (u.mediaTime - BitVec.ofNat 40 filled) u.arrival
  generalize State.handOnAll _ _ _ _ = t at handed
  obtain ⟨a, port⟩ := handed.port
  obtain ⟨l, reception⟩ := handed.reception
  rw [refreshed.port] at port
  rw [refreshed.reception] at reception
  obtain ⟨_, _, _, _, kept⟩ := evaluate_kept (t.setReception (t.reception.countAudio u.arrival.time u.damaged))
  have ported : (t.setReception (t.reception.countAudio u.arrival.time u.damaged)).evaluate.port = t.port := evaluate_port _
  constructor
  case tally => rw [kept, State.setReception_reception, reception]; rfl
  case marks => rw [evaluate_marks]; exact handed.marks.trans refreshed.marks
  all_goals rw [ported, port]; rfl

/-! ### The rows of the table (R10) -/

theorem takeAudio_first {s : State} (first : s.port.expected = none) (u : QueuedUnit) (p : List Byte) :
    s.takeAudio u p = (s.beginRun u.mediaTime).acceptRun u p 0 := by
  unfold State.takeAudio
  rw [first]

theorem takeAudio_next {s : State} {e : MediaTime} (expected : s.port.expected = some e) (u : QueuedUnit) (p : List Byte) :
    s.takeAudio u p =
      if s.port.channels ≠ some (audioChannels p) then (s.discontinuity u).acceptRun u p 0
      else if (u.mediaTime - e).toInt = 0 then s.acceptRun u p 0
      else if 1 ≤ (u.mediaTime - e).toInt ∧ (u.mediaTime - e).toInt ≤ 480 then
        s.countDamaged.acceptRun u p (u.mediaTime - e).toInt.toNat
      else if 480 < (u.mediaTime - e).toInt then (s.discontinuity u).acceptRun u p 0
      else s.countDamaged := by
  unfold State.takeAudio
  rw [expected]
  rfl

/-- The MARK unit of a discontinuity is asked for (R11, R102). -/
theorem discontinuity_marks (s : State) (u : QueuedUnit) :
    ∃ m ∈ (s.discontinuity u).recorder.marks, m.reason = .discontinuity ∧ m.stamp = u.arrival ∧
      m.media = some u.mediaTime ∧ m.place = u.serial :=
  ⟨_, (mem_requestMark (s.setLoudness s.loudness.discontinue) _ _).mpr (.inl rfl), rfl, rfl, rfl, rfl⟩

/-! ### Reading the samples (R3, R43) -/

theorem intAt_drop (p : List Byte) (k at_ count : Nat) : intAt (p.drop k) at_ count = intAt p (k + at_) count := by
  unfold intAt natAt
  rw [List.drop_drop]

theorem takeSamples_spec : ∀ (n : Nat) (p : List Byte), (takeSamples n p).length = n ∧
    ∀ j, j < n → (takeSamples n p).getD j 0 = intAt p (3 * j) 3
  | 0, _ => ⟨rfl, fun j hj => absurd hj (Nat.not_lt_zero j)⟩
  | n + 1, p => by
    obtain ⟨length, sample⟩ := takeSamples_spec n (p.drop 3)
    refine ⟨congrArg Nat.succ length, fun j hj => ?_⟩
    cases j with
    | zero => rfl
    | succ j =>
      refine (sample j (Nat.lt_of_succ_lt_succ hj)).trans ?_
      rw [intAt_drop]
      congr 1
      omega

theorem audioPositions_spec (channels : Nat) : ∀ (n : Nat) (p : List Byte), (audioPositions channels n p).length = n ∧
    ∀ i, i < n → (audioPositions channels n p).getD i [] = takeSamples channels (p.drop (3 * (i * channels)))
  | 0, _ => ⟨rfl, fun i hi => absurd hi (Nat.not_lt_zero i)⟩
  | n + 1, p => by
    obtain ⟨length, position⟩ := audioPositions_spec channels n (p.drop (3 * channels))
    refine ⟨congrArg Nat.succ length, fun i hi => ?_⟩
    cases i with
    | zero => simp [audioPositions]
    | succ i =>
      refine (position i (Nat.lt_of_succ_lt_succ hi)).trans ?_
      rw [List.drop_drop, ← Nat.mul_add, Nat.add_comm channels, ← Nat.succ_mul]

/-- The samples of an AUDIO payload, by position and channel (R3). -/
theorem readAudio_spec (p : List Byte) (i j : Nat) : (readAudio p).length = audioSamples p ∧
    (i < audioSamples p → ((readAudio p).getD i []).length = audioChannels p ∧
      (j < audioChannels p →
        ((readAudio p).getD i []).getD j 0 = intAt p (4 + 3 * (i * audioChannels p + j)) 3)) := by
  obtain ⟨length, position⟩ := audioPositions_spec (audioChannels p) (audioSamples p) (p.drop 4)
  refine ⟨length, fun hi => ?_⟩
  unfold readAudio
  rw [position i hi]
  obtain ⟨width, sample⟩ := takeSamples_spec (audioChannels p) ((p.drop 4).drop (3 * (i * audioChannels p)))
  refine ⟨width, fun hj => ?_⟩
  rw [sample j hj, intAt_drop, intAt_drop, Nat.mul_add]

/-! ### Grid points and buckets -/

/-- The first grid point at or after a media time (R11, R47). -/
theorem gridPointFrom_eq {time : MediaTime} {k : Nat} (grid : k % 4800 = 0) (after : time.toNat ≤ k)
    (first : k < time.toNat + 4800) : gridPointFrom time = if k < 2 ^ 40 then BitVec.ofNat 40 k else 0 := by
  have same : (time.toNat + 4799) / 4800 * 4800 = k := by omega
  unfold gridPointFrom
  rw [same]

theorem changeAt_eq_mapIdx {α : Type} (f : α → α) : ∀ (n : Nat) (l : List α),
    changeAt f n l = l.mapIdx (fun i x => if i = n then f x else x)
  | n, [] => by cases n <;> rfl
  | 0, x :: l => by
    rw [List.mapIdx_cons]
    have rest : l.mapIdx (fun i y => if i + 1 = 0 then f y else y) = l :=
      List.ext_getElem (List.length_mapIdx ..) fun i _ _ => by simp
    rw [rest]
    rfl
  | n + 1, x :: l => by
    rw [List.mapIdx_cons]
    exact congrArg (x :: ·) ((changeAt_eq_mapIdx f n l).trans (by simp))

/-- A unit of the newest bucket's interval or an earlier one (R15, log 26). -/
theorem countAudio_within {r : ReceptionMonitor} {arrival : Nat} (ten : r.tally.length = 10)
    (within : arrival / 100000 ≤ r.tallyInterval) (damaged : Bool) : r.countAudio arrival damaged = { r with
      tally := r.tally.mapIdx (fun i b => if i = r.tallyInterval - arrival / 100000 then
        (⟨b.accepted + 1, if damaged then b.damaged + 1 else b.damaged⟩ : TallyBucket) else b) } := by
  have still : r.advanceTo (tallyIntervalOf arrival) = r := by
    unfold ReceptionMonitor.advanceTo tallyIntervalOf
    rw [Nat.sub_eq_zero_of_le within, Nat.max_eq_left within, Nat.min_zero, List.replicate_zero, List.nil_append, ← ten,
      List.take_length]
  unfold ReceptionMonitor.countAudio
  rw [still]
  dsimp only
  rw [changeAt_eq_mapIdx]
  rfl

/-- A unit of a later interval moves the tally on and is counted in the newest bucket (R15). -/
theorem countAudio_later {r : ReceptionMonitor} {arrival : Nat} (later : r.tallyInterval < arrival / 100000)
    (damaged : Bool) : r.countAudio arrival damaged = { r with
      tallyInterval := arrival / 100000
      tally := (⟨1, if damaged then 1 else 0⟩ : TallyBucket) ::
        (List.replicate (min 9 (arrival / 100000 - r.tallyInterval - 1)) (⟨0, 0⟩ : TallyBucket) ++ r.tally).take 9 } := by
  have moved : r.advanceTo (tallyIntervalOf arrival) = { r with
      tallyInterval := arrival / 100000
      tally := (⟨0, 0⟩ : TallyBucket) ::
        (List.replicate (min 9 (arrival / 100000 - r.tallyInterval - 1)) (⟨0, 0⟩ : TallyBucket) ++ r.tally).take 9 } := by
    have one : min 10 (arrival / 100000 - r.tallyInterval) = min 9 (arrival / 100000 - r.tallyInterval - 1) + 1 := by omega
    unfold ReceptionMonitor.advanceTo tallyIntervalOf
    rw [Nat.max_eq_right (Nat.le_of_lt later), one, List.replicate_succ, List.cons_append, List.take_succ_cons]
  unfold ReceptionMonitor.countAudio
  rw [moved]
  dsimp only
  rw [show arrival / 100000 - tallyIntervalOf arrival = 0 from Nat.sub_self _]
  cases damaged <;> rfl

/-- Settles O36: the rows of R10, the samples, the grid points and the buckets. -/
theorem audioContinuity : Obligations.AudioContinuity := by
  refine ⟨fun s u p => ?_, fun p i j => readAudio_spec p i j, fun s time stamp x rest => ?_, fun r arrival damaged ten => ?_⟩
  · have run := fun (t : State) filled => acceptRun_accepted t u p filled
    have broken := discontinuity_marks s u
    intro t n channels accepted marked taken aligned told counted
    have known : ∀ {r : State} {filled : Nat}, t = r.acceptRun u p filled → r.port.queue = s.port.queue →
        r.reception = s.reception →
        accepted ∧ t.port.damaged = r.port.damaged ∧ t.recorder.marks = r.recorder.marks := by
      intro r filled eq queue reception
      have a := run r filled
      rw [← eq] at a
      exact ⟨⟨a.expected, a.channels, a.audioRef, a.present, by rw [a.tally, reception], a.queue.trans queue⟩,
        a.damaged, a.marks⟩
    have marking : t.recorder.marks = (s.discontinuity u).recorder.marks → marked := fun marks => by
      rw [← marks] at broken
      exact broken
    refine ⟨fun first => ?_, fun e expected => ?_⟩
    · have eq : t = (s.beginRun u.mediaTime).acceptRun u p 0 := takeAudio_first first u p
      have accepts := known eq rfl rfl
      exact ⟨eq, accepts⟩
    have eq : t = _ := takeAudio_next expected u p
    dsimp only
    generalize (u.mediaTime - e).toInt = d at eq ⊢
    refine ⟨fun other => ?_, fun same => ⟨fun zero => ?_, fun one short => ?_, fun long => ?_, fun back => ?_⟩⟩
    · rw [if_pos (show s.port.channels ≠ some (audioChannels p) from other)] at eq
      obtain ⟨accepted, damaged, marks⟩ := known eq rfl rfl
      exact ⟨eq, accepted, damaged, marking marks⟩
    all_goals rw [if_neg (not_not_intro (show s.port.channels = some (audioChannels p) from same))] at eq
    · rw [if_pos zero] at eq
      have accepts := known eq rfl rfl
      exact ⟨eq, accepts⟩
    all_goals rw [if_neg (show ¬ d = 0 by omega)] at eq
    · rw [if_pos ⟨one, short⟩] at eq
      have accepts := known eq rfl rfl
      exact ⟨eq, accepts⟩
    all_goals rw [if_neg (show ¬ (1 ≤ d ∧ d ≤ 480) by omega)] at eq
    · rw [if_pos long] at eq
      obtain ⟨accepted, damaged, marks⟩ := known eq rfl rfl
      exact ⟨eq, accepted, damaged, marking marks⟩
    · rw [if_neg (show ¬ 480 < d by omega)] at eq
      exact eq
  · refine ⟨rfl, rfl, fun g aligning early => handOn_dropped aligning early x stamp, fun due => ?_,
      fun k grid after first => gridPointFrom_eq grid after first, fun isOpen => if_pos isOpen,
      fun closed => if_neg fun isOpen => ?_⟩
    · intro run ready
      have event : ready = s.readyAt time stamp := by
        unfold State.readyAt isGridPoint
        by_cases grid : time.toNat % 4800 = 0
        · rw [if_pos (beq_iff_eq.mpr grid)]
          exact if_pos grid
        · rw [if_neg (fun h => grid (beq_iff_eq.mp h))]
          exact if_neg grid
      rw [event]
      exact handOn_taken due x stamp
    · exact Bool.false_ne_true (closed.symm.trans isOpen)
  · exact ⟨fun within => countAudio_within ten within damaged, fun later => countAudio_later later damaged⟩

end Sys2Proof.Machine
end

section
/-! PROOF. Grid-point events and segment changes (R17, R20 to R23): which cue is applied, and what each step of a change leaves
in the Segment Tracker. Settles O40. -/

namespace Sys2Proof.Machine

/-! ### The cue applied (R20) -/

/-- Of a list in order of a key with ties kept in order, the last element is the last of those with the greatest key. -/
theorem sortBy_getLast {α : Type} (key : α → Nat) {before after : List α} {c : α}
    (early : ∀ x ∈ before, key x ≤ key c) (less : ∀ x ∈ after, key x < key c) :
    (sortBy key (before ++ c :: after)).getLast? = some c := by
  obtain ⟨init, last, split⟩ : ∃ init last, sortBy key (before ++ c :: after) = init ++ [last] := by
    refine ⟨_, _, (List.dropLast_append_getLast (l := sortBy key (before ++ c :: after)) fun empty => ?_).symm⟩
    have lengths := sortBy_length key (before ++ c :: after)
    rw [empty] at lengths
    simp at lengths
  have sorted := sortBy_sorted key (before ++ c :: after)
  rw [split] at sorted
  have top : key c ≤ key last := by
    have inside : c ∈ init ++ [last] := split ▸ (mem_sortBy key).mpr (by simp)
    rcases List.mem_append.mp inside with inner | outer
    · exact (List.pairwise_append.mp sorted).2.2 c inner last (by simp)
    · rw [List.mem_singleton.mp outer]
  have bounded : key last ≤ key c := by
    have inside : last ∈ before ++ c :: after := (mem_sortBy key).mp (split ▸ by simp)
    rcases List.mem_append.mp inside with ahead | here
    · exact early last ahead
    · rcases List.mem_cons.mp here with rfl | behind
      · exact Nat.le_refl _
      · exact Nat.le_of_lt (less last behind)
  have ties := sortBy_filter key (fun x => key x == key c)
    (fun x y hx hy => by rw [beq_iff_eq.mp hx, beq_iff_eq.mp hy]) (before ++ c :: after)
  have none : after.filter (fun x => key x == key c) = [] :=
    List.filter_eq_nil_iff.mpr fun x hx same => Nat.ne_of_lt (less x hx) (beq_iff_eq.mp same)
  have lastTies : (key last == key c) = true := beq_iff_eq.mpr (Nat.le_antisymm bounded top)
  rw [split, List.filter_append, List.filter_append, List.filter_cons_of_pos (a := last) lastTies,
    List.filter_cons_of_pos (a := c) (beq_self_eq_true (key c)), none, List.filter_nil] at ties
  have same := (List.append_inj' ties rfl).2
  rw [split, List.getLast?_concat, List.head_eq_of_cons_eq same]

/-- The due cue applied: of those with the latest start, the last to arrive (R20). -/
theorem orderCues_getLast {g : MediaTime} {before after : List PendingCue} {c : PendingCue}
    (early : ∀ x ∈ before, (x.start - g).toInt ≤ (c.start - g).toInt)
    (less : ∀ x ∈ after, (x.start - g).toInt < (c.start - g).toInt) :
    (orderCues g (before ++ c :: after)).getLast? = some c :=
  sortBy_getLast (PendingCue.startFrom g) (fun x hx => (startFrom_le_iff g x c).mpr (early x hx))
    fun x hx => (startFrom_lt_iff g x c).mpr (less x hx)

theorem due_iff (c : PendingCue) (g : MediaTime) : c.due g = decide ((c.start - g).toInt ≤ 0) := rfl

theorem not_due_iff (c : PendingCue) (g : MediaTime) : (!c.due g) = decide (0 < (c.start - g).toInt) := by
  rw [due_iff, ← decide_not]
  exact decide_eq_decide.mpr not_le

/-! ### The end of a sub-block (R17, R20) -/

theorem gather_false (t : SegmentTracker) : t.gather false = t := by
  unfold SegmentTracker.gather
  simp only [Bool.or_false]
  cases programme : t.programme <;> simp [← programme]

/-- The Segment Tracker after a sub-block ends: the mark gathered, where one was in progress (R17, R20). -/
theorem endSubBlock_segments (s : State) (mark : Bool) (g : MediaTime) :
    (s.endSubBlock mark g).segments = s.segments.gather (mark && s.loudness.inProgress.isSome) := by
  unfold State.endSubBlock
  split
  · next none => rw [none, Option.isSome_none, Bool.and_false, gather_false]
  · next b some =>
    rw [some, Option.isSome_some, Bool.and_true]
    exact (completeSubBlock_stream _ b mark g).segments

/-! ### The steps of a change (R22, R23) -/

/-- The Segment Tracker after step 3: a PROGRAMME-class segment opens a programme, or joins the open one. -/
theorem openProgramme_segments (s : State) (r : SegmentRecord) (stamp : Stamp) :
    (r.cls ≠ .programme → s.openProgramme r stamp = s) ∧
    (r.cls = .programme → s.segments.programme = none → s.openProgramme r stamp =
      ((s.setSegments { s.segments with
          programme := some ⟨r.programmeId, stamp, none, r.scope, false, s.segments.nextOpening⟩
          nextOpening := s.segments.nextOpening + 1 }).setLoudness
        (s.loudness.openProgramme s.segments.nextOpening stamp)).setCaptions s.captions.openProgramme) ∧
    (∀ p, r.cls = .programme → s.segments.programme = some p → s.openProgramme r stamp =
      s.setSegments { s.segments with programme := some { p with scope := p.scope.join r.scope } }) := by
  refine ⟨fun other => ?_, fun cls none => ?_, fun p cls some => ?_⟩
  · unfold State.openProgramme
    cases cls : r.cls with
    | programme => exact absurd cls other
    | advert | promotion | junction => rfl
  · unfold State.openProgramme
    rw [cls, none]
    rfl
  · unfold State.openProgramme
    rw [cls, some]

theorem Scope.join_eq (a b : Scope) : a.join b = if a = .national ∧ b = .national then .national else .regional := by
  cases a <;> cases b <;> rfl

/-- What a change never touches: the pending cues and their count (R20, R23). -/
theorem changeSegment_segments (s : State) (r : SegmentRecord) (stamp : Stamp) :
    (s.changeSegment r stamp).segments.pending = s.segments.pending ∧
    (s.changeSegment r stamp).segments.cueDrops = s.segments.cueDrops ∧
    (s.changeSegment r stamp).segments.begun = true ∧ (s.changeSegment r stamp).segments.current =
      { r with opening := (s.changeSegment r stamp).segments.current.opening } := by
  have opened : ∀ t : State, (t.openProgramme r stamp).segments.pending = t.segments.pending ∧
      (t.openProgramme r stamp).segments.cueDrops = t.segments.cueDrops := by
    intro t
    unfold State.openProgramme
    split <;> exact ⟨rfl, rfl⟩
  have closed : ∀ t : State, (t.closeProgramme r).segments.pending = t.segments.pending ∧
      (t.closeProgramme r).segments.cueDrops = t.segments.cueDrops := by
    intro t
    rw [(closeProgramme_segments t r).2]
    split <;> exact ⟨rfl, rfl⟩
  unfold State.changeSegment
  split
  · rw [(openSegment_segments _ r stamp _).2]
    dsimp only
    rw [(opened _).1, (opened _).2, (closed _).1, (closed _).2, (closeSegment_segments s stamp).2]
    exact ⟨rfl, rfl, rfl, rfl⟩
  · rw [(openSegment_segments _ r stamp _).2]
    exact ⟨(opened s).1, (opened s).2, rfl, rfl⟩

/-! ### The cues looked for at a grid point (R20) -/

theorem applyCues_none {s : State} {g : MediaTime} (none : s.segments.pending.filter (fun c => c.due g) = [])
    (stamp : Stamp) : s.applyCues g stamp = if s.segments.begun then s
      else s.changeSegment { SegmentRecord.unannounced with startMedia := some g, startStamp := some stamp } stamp := by
  unfold State.applyCues
  rw [none]
  rfl

theorem applyCues_due {s : State} {g : MediaTime} {before after : List PendingCue} {c : PendingCue}
    (due : s.segments.pending.filter (fun c => c.due g) = before ++ c :: after)
    (early : ∀ x ∈ before, (x.start - g).toInt ≤ (c.start - g).toInt)
    (less : ∀ x ∈ after, (x.start - g).toInt < (c.start - g).toInt) (stamp : Stamp) :
    s.applyCues g stamp = (s.setSegments { s.segments with
      pending := s.segments.pending.filter (fun x => 0 < (x.start - g).toInt)
      cueDrops := addCount s.segments.cueDrops (before.length + after.length) }).changeSegment (c.record g stamp) stamp := by
  have others : (orderCues g (before ++ c :: after)).length - 1 = before.length + after.length := by
    rw [orderCues_length, List.length_append, List.length_cons]
    omega
  have kept : s.segments.pending.filter (fun c => !c.due g) =
      s.segments.pending.filter (fun x => 0 < (x.start - g).toInt) :=
    List.filter_congr fun x _ => not_due_iff x g
  unfold State.applyCues
  dsimp only
  rw [due, orderCues_getLast early less, others, kept]

/-- A grid-point event, its first part the end of the sub-block in progress (R17, R20 to R23). -/
theorem gridPointEvent_parts (s : State) (g : MediaTime) (stamp : Stamp) :
    let t := s.gridPointEvent g stamp
    let due := s.segments.pending.filter (fun c => (c.start - g).toInt ≤ 0)
    let mark := s.reception.latch && s.loudness.inProgress.isSome
    t.reception = { s.reception with latch := decide (s.reception.state = .impaired) } ∧
    (∃ b, t.loudness.inProgress = some b ∧ b.start = g ∧ b.opening = t.segments.current.opening ∧ b.sums = [] ∧
      b.peaks = []) ∧
    (due = [] → s.segments.begun = true → t.segments = s.segments.gather mark) ∧
    (due = [] → s.segments.begun = false → ∃ opening, t.segments.begun = true ∧
      t.segments.current = ⟨0, .programme, .regional, false, 0, some g, some stamp, false, none, opening⟩) ∧
    (∀ before c after, due = before ++ c :: after → (∀ x ∈ before, (x.start - g).toInt ≤ (c.start - g).toInt) →
      (∀ x ∈ after, (x.start - g).toInt < (c.start - g).toInt) →
      t.segments.pending = s.segments.pending.filter (fun x => 0 < (x.start - g).toInt) ∧
      t.segments.cueDrops = addCount s.segments.cueDrops (before.length + after.length) ∧ t.segments.begun = true ∧
      t.segments.current = { c.record g stamp with opening := t.segments.current.opening }) := by
  intro t due mark
  have ended : ((s.setReception s.reception.handOut).endSubBlock s.reception.latch g).segments = s.segments.gather mark :=
    endSubBlock_segments _ _ g
  have event : t.segments =
      (((s.setReception s.reception.handOut).endSubBlock s.reception.latch g).applyCues g stamp).segments := rfl
  generalize (s.setReception s.reception.handOut).endSubBlock s.reception.latch g = e at ended event
  have pending : e.segments.pending = s.segments.pending := by rw [ended]; rfl
  have begun : e.segments.begun = s.segments.begun := by rw [ended]; rfl
  refine ⟨(gridPointEvent_input s g stamp).reception, ⟨_, rfl, rfl, rfl, rfl, rfl⟩, fun none started => ?_,
    fun none fresh => ?_, fun before c after split early less => ?_⟩
  · rw [event, applyCues_none (pending ▸ none), if_pos (begun.trans started), ended]
  · rw [event, applyCues_none (pending ▸ none), if_neg (fun h => by simp [begun, fresh] at h)]
    obtain ⟨-, -, started, current⟩ := changeSegment_segments e
      { SegmentRecord.unannounced with startMedia := some g, startStamp := some stamp } stamp
    exact ⟨_, started, current⟩
  · have applied := applyCues_due (s := e) (pending ▸ split) early less stamp
    rw [event, applied]
    obtain ⟨waiting, drops, started, current⟩ := changeSegment_segments (e.setSegments { e.segments with
      pending := e.segments.pending.filter (fun x => 0 < (x.start - g).toInt)
      cueDrops := addCount e.segments.cueDrops (before.length + after.length) }) (c.record g stamp) stamp
    refine ⟨waiting.trans ?_, drops.trans ?_, started, current⟩
    · exact congrArg (List.filter _) pending
    · exact congrArg (addCount · _) ((congrArg SegmentTracker.cueDrops ended).trans rfl)

theorem record_programmeId (c : PendingCue) (g : MediaTime) (stamp : Stamp) :
    (c.record g stamp).programmeId = if c.cls = .programme then c.programmeId else 0 := by
  unfold PendingCue.record
  cases c.cls <;> rfl

/-! ### A change, step by step (R22, R23) -/

theorem closedBy_iff (p : Programme) (r : SegmentRecord) :
    p.closedBy r = true ↔ r.cls = .programme ∧ (r.programmeId ≠ p.programmeId ∨ p.programmeId = 0) := by
  simp [Programme.closedBy]

/-- The Segment Tracker when the new segment opens, a segment having been open before (R22, R23). -/
def State.changing (s : State) (r : SegmentRecord) (stamp : Stamp) : State :=
  (((s.closeSegment stamp).closeProgramme r).openProgramme r stamp)

/-- The open programme, given its end stamp where the outgoing segment is of class PROGRAMME (R22). -/
def SegmentTracker.endedProgramme (t : SegmentTracker) (stop : Stamp) (p : Programme) : Programme :=
  if t.current.cls = .programme then { p with endStamp := some stop } else p

theorem endProgrammeSegment_eq (t : SegmentTracker) (stop : Stamp) :
    t.endProgrammeSegment stop = { t with programme := t.programme.map (t.endedProgramme stop) } := rfl

theorem endedProgramme_named (t : SegmentTracker) (stop : Stamp) (p : Programme) :
    (t.endedProgramme stop p).programmeId = p.programmeId ∧ (t.endedProgramme stop p).opening = p.opening ∧
      (t.endedProgramme stop p).scope = p.scope := by
  unfold SegmentTracker.endedProgramme
  split <;> exact ⟨rfl, rfl, rfl⟩

/-- The Segment Tracker as step 4 finds it, by the class of the new segment and the programme open before (R22). -/
theorem changing_segments (s : State) (r : SegmentRecord) (stamp : Stamp) :
    (r.cls ≠ .programme → (s.changing r stamp).segments = s.segments.endProgrammeSegment stamp) ∧
    (r.cls = .programme → (s.segments.programme = none ∨
        ∃ p, s.segments.programme = some p ∧ (r.programmeId ≠ p.programmeId ∨ p.programmeId = 0)) →
      (s.changing r stamp).segments = { s.segments with
        programme := some ⟨r.programmeId, stamp, none, r.scope, false, s.segments.nextOpening⟩
        nextOpening := s.segments.nextOpening + 1 }) ∧
    (∀ p, r.cls = .programme → s.segments.programme = some p → r.programmeId = p.programmeId → p.programmeId ≠ 0 →
      (s.changing r stamp).segments = { s.segments with
        programme := some { s.segments.endedProgramme stamp p with scope := p.scope.join r.scope } }) := by
  have closed := (closeProgramme_segments (s.closeSegment stamp) r).2
  rw [(closeSegment_segments s stamp).2, endProgrammeSegment_eq] at closed
  obtain ⟨other, opens, joins⟩ := openProgramme_segments ((s.closeSegment stamp).closeProgramme r) r stamp
  refine ⟨fun cls => ?_, fun cls before => ?_, fun p cls before same named => ?_⟩
  · have stays : ¬ (s.segments.programme.map (s.segments.endedProgramme stamp)).any (fun p => p.closedBy r) = true := by
      cases s.segments.programme with
      | none => exact Bool.false_ne_true
      | some p => exact fun closes => cls ((closedBy_iff _ r).mp closes).1
    rw [if_neg stays] at closed
    unfold State.changing
    rw [other cls, closed]
    rfl
  · have gone : ((s.closeSegment stamp).closeProgramme r).segments = { s.segments with programme := none } := by
      rw [closed]
      rcases before with none | ⟨p, some, ids⟩
      · rw [none]
        rfl
      · rw [some, Option.map_some, Option.any_some, if_pos ((closedBy_iff _ r).mpr ⟨cls, ?_⟩)]
        rw [(endedProgramme_named _ _ _).1]
        exact ids
    unfold State.changing
    rw [opens cls (by rw [gone]), State.setCaptions_segments, State.setLoudness_segments, State.setSegments_segments, gone]
  · have kept : ((s.closeSegment stamp).closeProgramme r).segments =
        { s.segments with programme := some (s.segments.endedProgramme stamp p) } := by
      have stays : ¬ (s.segments.endedProgramme stamp p).closedBy r = true := by
        rw [closedBy_iff, (endedProgramme_named _ _ _).1]
        rintro ⟨-, differ | zero⟩
        · exact differ same
        · exact named zero
      rw [closed, before, Option.map_some, Option.any_some, if_neg stays]
    unfold State.changing
    rw [joins _ cls (by rw [kept]), State.setSegments_segments, kept, (endedProgramme_named _ _ _).2.2]

/-- The Segment Tracker with a new segment open (R22). -/
def SegmentTracker.opened (t : SegmentTracker) (r : SegmentRecord) : SegmentTracker :=
  { t with current := { r with opening := t.openingFor r }, begun := true, nextOpening := t.nextOpening + 1 }

theorem changeSegment_begun {s : State} (begun : s.segments.begun = true) (r : SegmentRecord) (stamp : Stamp) :
    s.changeSegment r stamp = (s.changing r stamp).openSegment r stamp (some s.segments.current.scope) ∧
    (s.changeSegment r stamp).segments = (s.changing r stamp).segments.opened r := by
  have eq : s.changeSegment r stamp = (s.changing r stamp).openSegment r stamp (some s.segments.current.scope) := if_pos begun
  exact ⟨eq, eq ▸ (openSegment_segments _ r stamp _).2⟩

theorem changeSegment_first {s : State} (first : s.segments.begun = false) (r : SegmentRecord) (stamp : Stamp) :
    s.changeSegment r stamp = (s.openProgramme r stamp).openSegment r stamp none ∧
    (s.changeSegment r stamp).segments = (s.openProgramme r stamp).segments.opened r := by
  have eq : s.changeSegment r stamp = (s.openProgramme r stamp).openSegment r stamp none :=
    if_neg fun begun => Bool.false_ne_true (first.symm.trans begun)
  exact ⟨eq, eq ▸ (openSegment_segments _ r stamp _).2⟩

/-- Where no programme stays open, a PROGRAMME-class segment opens one, whether or not a segment was open (R22). -/
theorem changeSegment_opens {s : State} {r : SegmentRecord} (cls : r.cls = .programme) (stamp : Stamp)
    (before : s.segments.programme = none ∨ s.segments.begun = true ∧
      ∃ p, s.segments.programme = some p ∧ (r.programmeId ≠ p.programmeId ∨ p.programmeId = 0)) :
    (s.changeSegment r stamp).segments.programme =
      some ⟨r.programmeId, stamp, none, r.scope, false, s.segments.nextOpening⟩ ∧
    (s.changeSegment r stamp).segments.current.opening = ⟨s.segments.nextOpening + 1, some s.segments.nextOpening⟩ := by
  have opened : (s.changeSegment r stamp).segments = SegmentTracker.opened { s.segments with
      programme := some ⟨r.programmeId, stamp, none, r.scope, false, s.segments.nextOpening⟩
      nextOpening := s.segments.nextOpening + 1 } r := by
    cases begun : s.segments.begun with
    | true =>
      rw [(changeSegment_begun begun r stamp).2, (changing_segments s r stamp).2.1 cls (before.imp_right And.right)]
    | false =>
      rcases before with none | ⟨h, -⟩
      · rw [(changeSegment_first begun r stamp).2, (openProgramme_segments s r stamp).2.1 cls none]
        rfl
      · exact absurd (begun.symm.trans h) Bool.false_ne_true
  rw [opened]
  refine ⟨rfl, ?_⟩
  unfold SegmentTracker.opened SegmentTracker.openingFor
  rw [if_pos cls]
  rfl

/-- A segment change (R22, R23): its steps in order, and what they leave. -/
theorem changeSegment_steps (s : State) (r : SegmentRecord) (stamp : Stamp) :
    let t := s.changeSegment r stamp
    let old := s.segments.current
    let n := s.segments.nextOpening
    let ended := fun (p : Programme) => if old.cls = .programme then { p with endStamp := some stamp } else p
    let opened : Programme := ⟨r.programmeId, stamp, none, r.scope, false, n⟩
    (s.segments.begun = false → t = (s.openProgramme r stamp).openSegment r stamp none) ∧
    (s.segments.begun = true →
      t = (((s.closeSegment stamp).closeProgramme r).openProgramme r stamp).openSegment r stamp (some old.scope)) ∧
    t.segments.current = { r with opening := t.segments.current.opening } ∧
    (r.cls ≠ .programme → t.segments.current.opening = ⟨n, none⟩ ∧
      (s.segments.begun = true → t.segments.programme = s.segments.programme.map ended)) ∧
    (r.cls = .programme →
      (s.segments.programme = none → t.segments.programme = some opened ∧
        t.segments.current.opening = ⟨n + 1, some n⟩) ∧
      (∀ p, s.segments.programme = some p → s.segments.begun = true →
        (r.programmeId ≠ p.programmeId ∨ p.programmeId = 0 → t.segments.programme = some opened ∧
          t.segments.current.opening = ⟨n + 1, some n⟩) ∧
        (r.programmeId = p.programmeId → p.programmeId ≠ 0 → t.segments.current.opening = ⟨n, some p.opening⟩ ∧
          t.segments.programme = some { ended p with
            scope := if p.scope = .national ∧ r.scope = .national then .national else .regional }))) := by
  intro t old n ended opened
  refine ⟨fun first => (changeSegment_first first r stamp).1, fun begun => (changeSegment_begun begun r stamp).1,
    (changeSegment_segments s r stamp).2.2.2, fun cls => ⟨?_, fun begun => ?_⟩,
    fun cls => ⟨fun none => changeSegment_opens cls stamp (.inl none), fun p some begun => ⟨fun ids =>
      changeSegment_opens cls stamp (.inr ⟨begun, p, some, ids⟩), fun same named => ?_⟩⟩⟩
  · have opening : t.segments.current.opening = s.segments.openingFor r := by
      cases begun : s.segments.begun with
      | true =>
        have after := (changeSegment_begun begun r stamp).2
        rw [(changing_segments s r stamp).1 cls] at after
        rw [after]
        unfold SegmentTracker.opened SegmentTracker.openingFor
        rw [if_neg cls, if_neg cls]
        rfl
      | false =>
        have after := (changeSegment_first begun r stamp).2
        rw [(openProgramme_segments s r stamp).1 cls] at after
        rw [after]
        rfl
    rw [opening]
    unfold SegmentTracker.openingFor
    rw [if_neg cls]
  · have after := (changeSegment_begun begun r stamp).2
    rw [(changing_segments s r stamp).1 cls] at after
    rw [after]
    rfl
  · have after := (changeSegment_begun begun r stamp).2
    rw [(changing_segments s r stamp).2.2 p cls some same named, Scope.join_eq] at after
    rw [after]
    refine ⟨?_, rfl⟩
    unfold SegmentTracker.opened SegmentTracker.openingFor
    rw [if_pos cls]
    dsimp only
    rw [Option.map_some, (endedProgramme_named _ _ _).2.1]

/-! ### What each step hands on (R23, R63, R72, R95) -/

theorem closeSegment_hands (s : State) (stamp : Stamp) :
    let r := { s.segments.current with endStamp := some stamp }
    let noted := s.setSegments (s.segments.endProgrammeSegment stamp)
    let measured := noted.closeSegmentContext r stamp
    let checked := measured.1.closeCaptions stamp (s.segments.programme.map (fun p => p.opening))
    (r.cls = .programme → s.closeSegment stamp = checked.1) ∧
    (r.cls ≠ .programme →
      (measured.2 = none → s.closeSegment stamp = checked.1) ∧
      (∀ c, measured.2 = some c →
        s.closeSegment stamp = checked.1.deal (c.verdict .segment r.segmentId r.cls r.scope checked.2))) := by
  have openings : (s.segments.endProgrammeSegment stamp).programme.map (fun p => p.opening) =
      s.segments.programme.map (fun p => p.opening) := by
    rw [endProgrammeSegment_eq]
    cases s.segments.programme with
    | none => rfl
    | some p => exact congrArg some (endedProgramme_named _ _ p).2.1
  intro r noted measured checked
  have step : s.closeSegment stamp = match r.cls with
      | .programme => checked.1
      | .advert | .promotion | .junction => checked.1.dealClosed measured.2 .segment r.segmentId r.cls r.scope checked.2 := by
    unfold State.closeSegment
    dsimp only
    rw [State.setSegments_segments, openings] <;> rfl
  have dealt : r.cls ≠ .programme → s.closeSegment stamp =
      checked.1.dealClosed measured.2 .segment r.segmentId r.cls r.scope checked.2 := fun other => by
    rw [step]
    split
    · next cls => exact absurd cls other
    all_goals rfl
  refine ⟨fun cls => by rw [step, cls], fun other => ⟨fun none => ?_, fun c some => ?_⟩⟩
  · rw [dealt other, none]
    rfl
  · rw [dealt other, some]
    rfl

theorem closeProgramme_hands (s : State) (r : SegmentRecord) :
    let closes := fun (p : Programme) => r.cls = .programme ∧ (r.programmeId ≠ p.programmeId ∨ p.programmeId = 0)
    ((∀ p, s.segments.programme = some p → ¬ closes p) → s.closeProgramme r = s) ∧
    (∀ p, s.segments.programme = some p → closes p → ∃ u : State, s.closeProgramme r =
        u.setSegments { s.segments with programme := none } ∧
      (s.loudness.programmeCtx = none → u = s.setLoudness { s.loudness with programmeCtx := none }) ∧
      (∀ c, s.loudness.programmeCtx = some c → u =
        (s.setLoudness { s.loudness with programmeCtx := none }).deal
          ({ c with endStamp := p.endStamp, impaired := p.impaired }.verdict .programme p.programmeId .programme p.scope
            s.captions.programmeCoverage))) := by
  refine ⟨fun stays => ?_, fun p some closes => ?_⟩
  · unfold State.closeProgramme
    split
    · rfl
    · next p some => exact if_neg fun h => stays p some ((closedBy_iff p r).mp h)
  · refine ⟨(s.closeProgrammeContext p).1.dealClosed (s.closeProgrammeContext p).2 .programme p.programmeId .programme
      p.scope s.captions.programmeCoverage, ?_, fun none => ?_, fun c open_ => ?_⟩
    · unfold State.closeProgramme
      rw [some]
      exact if_pos ((closedBy_iff p r).mpr closes)
    · unfold State.closeProgrammeContext
      rw [none]
      rfl
    · unfold State.closeProgrammeContext
      rw [open_]
      rfl

/-- Settles O40: the event, the change, and what each of its steps hands on. -/
theorem gridPointEvent : Obligations.GridPointEvent := by
  refine ⟨fun s g stamp => ?_, fun s r stamp => changeSegment_steps s r stamp, fun s stamp => closeSegment_hands s stamp,
    fun s r => closeProgramme_hands s r, fun s r stamp replaced => ⟨fun same => ?_, fun x was differ => ?_,
      fun cls none => (openProgramme_segments s r stamp).2.1 cls none⟩⟩
  · obtain ⟨latch, started, quiet, first, applied⟩ := gridPointEvent_parts s g stamp
    refine ⟨latch, started, fun none begun => ?_, first, fun before c after due early less => ?_⟩
    · rw [quiet none begun]
      exact ⟨rfl, rfl, rfl, rfl⟩
    · obtain ⟨waiting, drops, begun, current⟩ := applied before c after due early less
      refine ⟨waiting, drops, ?_, ?_, ?_, ?_, ?_, ?_, ?_, ?_, ?_, begun⟩
      case refine_5 => rw [current, ← record_programmeId c g stamp]
      all_goals rw [current]; rfl
  · have still : ¬ replaced.any (fun x => x != r.scope) = true := by
      rcases same with rfl | rfl
      · exact Bool.false_ne_true
      · simp
    exact congrArg State.judge (if_neg still)
  · subst was
    exact congrArg State.judge (if_pos (bne_iff_ne.mpr differ))

end Sys2Proof.Machine
end

section
/-! SUPPORT. What the expiry of deadlines does to the Time Base: it keeps shelf time, the remaining offset and the local count,
and it moves the source state only away from LOCKED, where the reference silence is due (R29, R30, R33, R36). One lemma per
deadline, in the order of the expiries (log 48). -/

namespace Sys2Proof.Machine

/-- How deadlines move the Time Base on: shelf time, remaining offset and local count stay, and either the source state with its
silence deadline and check window stay too, or another state than LOCKED is entered, LOCKED left only at its silence. -/
structure TimeBase.MovesTo (a b : TimeBase) : Prop where
  shelf      : b.shelf = a.shelf
  remaining  : b.remaining = a.remaining
  localCount : b.localCount = a.localCount
  source     : (b.source = a.source ∧ b.silenceDeadline = a.silenceDeadline ∧ b.window = a.window) ∨
    (b.source ≠ .locked ∧ b.silenceDeadline = none ∧ b.window = none ∧
      (a.source = .locked → reached a.silenceDeadline a.shelf = true))

namespace TimeBase.MovesTo

theorem refl (a : TimeBase) : a.MovesTo a := ⟨rfl, rfl, rfl, .inl ⟨rfl, rfl, rfl⟩⟩

theorem of_eq {a b : TimeBase} (same : b = a) : a.MovesTo b := same ▸ refl a

theorem trans {a b c : TimeBase} (h : a.MovesTo b) (k : b.MovesTo c) : a.MovesTo c := by
  refine ⟨k.shelf.trans h.shelf, k.remaining.trans h.remaining, k.localCount.trans h.localCount, ?_⟩
  rcases h.source with ⟨source, silence, window⟩ | ⟨left, silence, window, due⟩
  · rcases k.source with ⟨source', silence', window'⟩ | ⟨left, silence', window', due⟩
    · exact .inl ⟨source'.trans source, silence'.trans silence, window'.trans window⟩
    · refine .inr ⟨left, silence', window', fun locked => ?_⟩
      rw [← silence, ← h.shelf]
      exact due (source.trans locked)
  · rcases k.source with ⟨source', silence', window'⟩ | ⟨left', silence', window', -⟩
    · exact .inr ⟨source' ▸ left, silence'.trans silence, window'.trans window, due⟩
    · exact .inr ⟨left', silence', window', due⟩

/-- LOCKED stays while its silence deadline has not been reached. -/
theorem stays {a b : TimeBase} (h : a.MovesTo b) (early : reached a.silenceDeadline a.shelf = false)
    (locked : a.source = .locked) : b.source = .locked ∧ b.silenceDeadline = a.silenceDeadline ∧ b.window = a.window := by
  rcases h.source with ⟨source, silence, window⟩ | ⟨-, -, -, due⟩
  · exact ⟨source.trans locked, silence, window⟩
  · exact absurd (early.symm.trans (due locked)) Bool.false_ne_true

/-- Another source state, once entered, is never LOCKED again at a deadline. -/
theorem stays_left {a b : TimeBase} (h : a.MovesTo b) (left : a.source ≠ .locked) (silence : a.silenceDeadline = none)
    (window : a.window = none) : b.source ≠ .locked ∧ b.silenceDeadline = none ∧ b.window = none := by
  rcases h.source with ⟨source', silence', window'⟩ | ⟨left', silence', window', -⟩
  · exact ⟨source' ▸ left, silence'.trans silence, window'.trans window⟩
  · exact ⟨left', silence', window'⟩

end TimeBase.MovesTo

/-! ### Source states -/

theorem reportSource_time (s : State) (was : TimeClass) : (s.reportSource was).time = s.time := by
  unfold State.reportSource
  split
  · split
    · exact (raise_keeps _ _).time
    · split
      · exact (closeBreach_keeps _ _ _ _ _).time
      · rfl
  · rfl

theorem enterSource_time (s : State) (c : TimeClass) :
    (s.enterSource c).time = s.time.inSource (s.config.holdoverLimit * second) c := reportSource_time _ _

/-- A source state other than LOCKED entered, LOCKED left only at its silence. -/
theorem enterSource_moves {s : State} {c : TimeClass} (other : c ≠ .locked)
    (due : s.time.source = .locked → reached s.time.silenceDeadline s.time.shelf = true) :
    s.time.MovesTo (s.enterSource c).time :=
  enterSource_time s c ▸ ⟨rfl, rfl, rfl, .inr ⟨other, rfl, rfl, due⟩⟩

theorem follow_moves {s : State} (unlocked : s.time.source ≠ .locked) (e : PeerEntry) : s.time.MovesTo (s.follow e).time := by
  have entered := enterSource_moves (s := s.setTime { s.time with followed := some e.station }) (c := .peer)
    (fun h => nomatch h) (fun locked => absurd locked unlocked)
  exact ⟨entered.shelf, entered.remaining, entered.localCount, entered.source⟩

theorem considerPeers_moves (s : State) : s.time.MovesTo s.considerPeers.time := by
  unfold State.considerPeers
  split
  · next free _ => exact follow_moves (by rw [free]; exact fun h => nomatch h) _
  · next peer _ =>
    split
    · exact follow_moves (by rw [peer]; exact fun h => nomatch h) _
    · exact .refl _
  · exact .refl _

theorem loseFollowed_moves (s : State) (n : Byte) : s.time.MovesTo (s.loseFollowed n).time := by
  unfold State.loseFollowed
  split
  · next peer =>
    have unlocked : s.time.source ≠ .locked := by rw [peer.1]; exact fun h => nomatch h
    split
    · exact follow_moves unlocked _
    · exact enterSource_moves (fun h => nomatch h) fun locked => absurd locked unlocked
  · exact .refl _

/-! ### The deadlines, block by block -/

theorem overrunExpiry_time (s : State) : s.overrunExpiry.time = s.time := by
  unfold State.overrunExpiry
  split
  · rfl
  · split
    · exact (closeBreach_keeps _ _ _ _ _).time
    · rfl

theorem audioAbsentDeadline_time (s : State) : s.audioAbsentDeadline.time = s.time := by
  unfold State.audioAbsentDeadline
  split
  · rfl
  · split
    · exact (raise_keeps _ _).time
    · rfl

theorem evaluate_time (s : State) : s.evaluate.time = s.time := by
  have entered : ∀ (t : State) n, (t.enterImpaired n).time = t.time := fun t n => by
    unfold State.enterImpaired
    rw [(judge_keeps _).time, (closeDivergent_keeps _).time, State.setCaptions_time, (raise_keeps _ _).time,
      State.setReception_time]
  unfold State.evaluate
  dsimp only
  split
  · rfl
  · split
    · split
      · exact entered _ _
      · rfl
    · rfl

theorem qualitySilenceExpiry_time (s : State) : s.qualitySilenceExpiry.time = s.time := by
  unfold State.qualitySilenceExpiry
  split
  · exact evaluate_time _
  · rfl

theorem tallyBucketBoundary_time (s : State) : s.tallyBucketBoundary.time = s.time := by
  unfold State.tallyBucketBoundary
  split
  · exact evaluate_time _
  · rfl

theorem recoveryExpiry_time (s : State) : s.recoveryExpiry.time = s.time := by
  unfold State.recoveryExpiry
  split
  · rfl
  · split
    · exact (judge_keeps _).time.trans (closeBreach_keeps _ _ _ _ _).time
    · rfl

theorem historyEntryExpiry_moves (s : State) : s.time.MovesTo s.historyEntryExpiry.time :=
  ⟨rfl, rfl, rfl, .inl ⟨rfl, rfl, rfl⟩⟩

theorem referenceSilenceExpiry_moves (s : State) : s.time.MovesTo s.referenceSilenceExpiry.time := by
  unfold State.referenceSilenceExpiry
  split
  · next due => exact enterSource_moves (fun h => nomatch h) fun _ => due.2.2
  · exact .refl _

theorem holdoverExpiry_moves (s : State) : s.time.MovesTo s.holdoverExpiry.time := by
  unfold State.holdoverExpiry
  split
  · next due =>
    have unlocked : s.time.source ≠ .locked := by rw [due.2.1]; exact fun h => nomatch h
    split
    · exact follow_moves unlocked _
    · exact enterSource_moves (fun h => nomatch h) fun locked => absurd locked unlocked
  · exact .refl _

theorem holdIntervalClose_time (s : State) (slot : Nat) : (s.holdIntervalClose slot).time = s.time := by
  unfold State.holdIntervalClose
  split
  · rfl
  · split
    · rfl
    · split <;> rfl

theorem holdMaxLengthExpiry_time (s : State) (slot : Nat) : (s.holdMaxLengthExpiry slot).time = s.time := by
  unfold State.holdMaxLengthExpiry
  split
  · rfl
  · dsimp only
    split
    · exact (changeRecord_keeps _ _ _).time
    · rfl

theorem statusTimerExpiry_time (s : State) : s.statusTimerExpiry.time = s.time := by
  unfold State.statusTimerExpiry
  split
  · exact (offer_keeps _ _ _).time
  · rfl

theorem downshiftDeadline_time (s : State) : s.downshiftDeadline.time = s.time := by
  unfold State.downshiftDeadline
  split
  · split <;> rfl
  · rfl

theorem becomeStale_time (s : State) (n : Byte) : (s.becomeStale n).time = s.time := (judge_keeps _).time

theorem peerStaleDeadline_time (s : State) (n : Byte) : (s.peerStaleDeadline n).time = s.time := by
  unfold State.peerStaleDeadline
  split
  · rfl
  · split
    · exact becomeStale_time s n
    · rfl

theorem removePeer_moves (s : State) (n : Byte) : s.time.MovesTo (s.removePeer n).time := by
  have dropped : (s.dropPeer n).upshift.time = s.time := (upshift_keeps _).time.trans (loseAllNoted_keeps _ s).time
  exact ((TimeBase.MovesTo.of_eq dropped).trans (loseFollowed_moves _ n)).trans
    ((considerPeers_moves _).trans (.of_eq (judge_keeps _).time))

theorem peerRemovalDeadline_moves (s : State) (n : Byte) : s.time.MovesTo (s.peerRemovalDeadline n).time := by
  unfold State.peerRemovalDeadline
  split
  · exact .refl _
  · split
    · split
      · exact (TimeBase.MovesTo.of_eq (becomeStale_time s n)).trans (removePeer_moves _ n)
      · exact removePeer_moves s n
    · exact .refl _

theorem divergenceExpiry_time (s : State) : s.divergenceExpiry.time = s.time := by
  unfold State.divergenceExpiry
  split
  · rfl
  · split
    · exact (raise_keeps _ _).time
    · rfl

theorem issue_time (s : State) (v : Verdict) : (s.issue v).time = s.time := by
  unfold State.issue
  dsimp only
  split
  · rfl
  · split <;> rfl

theorem proxyDeadline_time (s : State) : s.proxyDeadline.time = s.time := by
  unfold State.proxyDeadline
  split
  · rfl
  · split
    · exact (raise_keeps _ _).time.trans (issue_time _ _)
    · rfl

theorem endPulse_time (s : State) (n : Nat) : (s.endPulse n).time = s.time := by
  unfold State.endPulse
  split <;> rfl

theorem listeningEnd_time (s : State) : s.listeningEnd.time = s.time := by
  unfold State.listeningEnd State.enterListenOnly State.enterRunning State.offerStatus
  dsimp only
  split
  · split
    · split <;> rfl
    · exact (offer_keeps _ _ _).time
  · rfl

/-! ### The whole of a pass -/

/-- The deadlines before the reference silence, and those after it (log 48). -/
def earlierExpiries : List (State → State) :=
  [.overrunExpiry, .audioAbsentDeadline, .qualitySilenceExpiry, .tallyBucketBoundary, .recoveryExpiry, .historyEntryExpiry]

def State.laterExpiries (s : State) : List (State → State) :=
  .holdoverExpiry :: (((List.range 32).map slotExpiries).flatten ++ ([.statusTimerExpiry, .downshiftDeadline] ++
    ((s.peers.table.map peerExpiries).flatten ++ (.divergenceExpiry ::
      (List.replicate s.peers.pendingVerdicts.length .proxyDeadline ++
        ((List.range 4).map (fun line t => t.endPulse line) ++ [.listeningEnd]))))))

theorem expiries_eq (s : State) : s.expiries = earlierExpiries ++ .referenceSilenceExpiry :: s.laterExpiries := by
  simp [State.expiries, earlierExpiries, State.laterExpiries]

theorem foldl_moves : ∀ (l : List (State → State)), (∀ f ∈ l, ∀ t : State, t.time.MovesTo (f t).time) →
    ∀ s : State, s.time.MovesTo (l.foldl (fun t f => f t) s).time
  | [], _, _ => .refl _
  | f :: l, h, s => (h f (List.mem_cons_self ..) s).trans
      (foldl_moves l (fun g hg => h g (List.mem_cons_of_mem _ hg)) (f s))

theorem earlier_moves (f : State → State) (hf : f ∈ earlierExpiries) (t : State) : t.time.MovesTo (f t).time := by
  simp only [earlierExpiries, List.mem_cons, List.not_mem_nil, or_false] at hf
  rcases hf with rfl | rfl | rfl | rfl | rfl | rfl
  · exact .of_eq (overrunExpiry_time t)
  · exact .of_eq (audioAbsentDeadline_time t)
  · exact .of_eq (qualitySilenceExpiry_time t)
  · exact .of_eq (tallyBucketBoundary_time t)
  · exact .of_eq (recoveryExpiry_time t)
  · exact historyEntryExpiry_moves t

theorem later_moves (s : State) (f : State → State) (hf : f ∈ s.laterExpiries) (t : State) : t.time.MovesTo (f t).time := by
  simp only [State.laterExpiries, List.mem_append, List.mem_cons, List.not_mem_nil, List.mem_flatten, List.mem_map,
    List.mem_replicate, or_false, slotExpiries, peerExpiries] at hf
  rcases hf with rfl | ⟨_, ⟨n, -, rfl⟩, hf⟩ | (rfl | rfl) | ⟨_, ⟨e, -, rfl⟩, hf⟩ | rfl | ⟨-, rfl⟩ | ⟨n, -, rfl⟩ | rfl
  · exact holdoverExpiry_moves t
  · simp only [List.mem_cons, List.not_mem_nil, or_false] at hf
    rcases hf with rfl | rfl
    · exact .of_eq (holdMaxLengthExpiry_time t n)
    · exact .of_eq (holdIntervalClose_time t n)
  · exact .of_eq (statusTimerExpiry_time t)
  · exact .of_eq (downshiftDeadline_time t)
  · simp only [List.mem_cons, List.not_mem_nil, or_false] at hf
    rcases hf with rfl | rfl
    · exact .of_eq (peerStaleDeadline_time t _)
    · exact peerRemovalDeadline_moves t _
  · exact .of_eq (divergenceExpiry_time t)
  · exact .of_eq (proxyDeadline_time t)
  · exact .of_eq (endPulse_time t n)
  · exact .of_eq (listeningEnd_time t)

/-- The expiry of every deadline moves the Time Base on. -/
theorem passDeadlines_moves (s : State) : s.time.MovesTo s.passDeadlines.time := by
  refine foldl_moves _ (fun f hf t => ?_) s
  rw [expiries_eq, List.mem_append, List.mem_cons] at hf
  rcases hf with early | rfl | late
  · exact earlier_moves f early t
  · exact referenceSilenceExpiry_moves t
  · exact later_moves s f late t

/-- A station that is not in FAULT is not in FAULT after the deadlines before the reference silence. -/
theorem earlier_running {s : State} (running : s.startup.station ≠ .fault) :
    (earlierExpiries.foldl (fun t f => f t) s).startup.station ≠ .fault := by
  have listens : Proceeds s (earlierExpiries.foldl (fun t f => f t) s) := by
    refine Proceeds.operations _ (fun f hf t => ?_) s
    simp only [earlierExpiries, List.mem_cons, List.not_mem_nil, or_false] at hf
    rcases hf with rfl | rfl | rfl | rfl | rfl | rfl
    · exact overrunExpiry_proceeds t
    · exact audioAbsentDeadline_proceeds t
    · exact qualitySilenceExpiry_proceeds t
    · exact tallyBucketBoundary_proceeds t
    · exact recoveryExpiry_proceeds t
    · exact historyEntryExpiry_proceeds t
  intro fault
  rcases listens.startup with same | ⟨-, opened | opened⟩
  · exact running (same ▸ fault)
  all_goals
    rw [opened] at fault
    exact nomatch fault

/-- LOCKED is left where its silence deadline has been reached, outside FAULT (R29, R36). -/
theorem passDeadlines_silence {s : State} (running : s.startup.station ≠ .fault)
    (due : reached s.time.silenceDeadline s.time.shelf = true) (locked : s.time.source = .locked) :
    s.passDeadlines.time.source ≠ .locked ∧ s.passDeadlines.time.silenceDeadline = none ∧
      s.passDeadlines.time.window = none := by
  unfold State.passDeadlines
  rw [expiries_eq, List.foldl_append, List.foldl_cons]
  have still := earlier_running running
  have early := foldl_moves _ earlier_moves s
  generalize earlierExpiries.foldl (fun t f => f t) s = t at still early
  have left : t.referenceSilenceExpiry.time.source ≠ .locked ∧ t.referenceSilenceExpiry.time.silenceDeadline = none ∧
      t.referenceSilenceExpiry.time.window = none := by
    rcases early.source with ⟨source, silence, -⟩ | ⟨left, silence, window, -⟩
    · have fires : t.referenceSilenceExpiry = t.enterSource .holdover := if_pos ⟨still, source.trans locked, by
        unfold State.now
        rw [silence, early.shelf]
        exact due⟩
      rw [fires, enterSource_time]
      exact ⟨fun h => (nomatch h), rfl, rfl⟩
    · exact (referenceSilenceExpiry_moves t).stays_left left silence window
  exact (foldl_moves _ (later_moves s) _).stays_left left.1 left.2.1 left.2.2

end Sys2Proof.Machine
end

section
/-! PROOF. Correction of shelf time (R27 to R29, R32 to R39): the forward step and the deadlines it passes, TIME units, the
offsets of a followed peer and the oscillator check. Settles O43. -/

namespace Sys2Proof.Machine

/-! ### The deadlines of a step, as commands (R36; log 48) -/

/-- A command taken, one that does not go on leaving the state as it is. -/
def State.obey (t : State) (c : Instr) : State :=
  match exec c t with
  | .next u => u
  | .fault _ | .refused _ => t

/-- The commands of the deadlines in shelf time, in the order of the expiries. -/
def State.expiryCommands (t : State) : List Instr :=
  [[Instr.overrunExpiry, .audioAbsentDeadline, .qualitySilenceExpiry,
      .tallyBucketBoundary, .recoveryExpiry, .historyEntryExpiry, .referenceSilenceExpiry, .holdoverExpiry],
    ((List.range 32).map (fun n =>
      [Instr.holdMaxLengthExpiry (BitVec.ofNat 5 n), .holdIntervalClose (BitVec.ofNat 5 n)])).flatten,
    [.statusTimerExpiry, .downshiftDeadline],
    (t.peers.table.map (fun e => [Instr.peerStaleDeadline e.station, .peerRemovalDeadline e.station])).flatten,
    [.divergenceExpiry], List.replicate t.peers.pendingVerdicts.length .proxyDeadline,
    (List.range 4).map (fun n => .pulseEnd (BitVec.ofNat 2 n)), [.listeningEnd]].flatten

theorem obey_slots : ((List.range 32).map (fun n =>
      [Instr.holdMaxLengthExpiry (BitVec.ofNat 5 n), .holdIntervalClose (BitVec.ofNat 5 n)])).flatten.map
      (fun c t => State.obey t c) = ((List.range 32).map slotExpiries).flatten := by
  rw [List.map_flatten, List.map_map]
  refine congrArg List.flatten (List.map_congr_left fun n hn => ?_)
  have slot : (BitVec.ofNat 5 n).toNat = n := by
    have := List.mem_range.mp hn
    rw [BitVec.toNat_ofNat]
    omega
  change [fun t : State => t.holdMaxLengthExpiry (BitVec.ofNat 5 n).toNat,
    fun t => t.holdIntervalClose (BitVec.ofNat 5 n).toNat] = slotExpiries n
  rw [slot]
  rfl

theorem obey_lines : ((List.range 4).map (fun n => Instr.pulseEnd (BitVec.ofNat 2 n))).map (fun c t => State.obey t c) =
    (List.range 4).map (fun line t => t.endPulse line) := by
  rw [List.map_map]
  refine List.map_congr_left fun n hn => ?_
  have line : (BitVec.ofNat 2 n).toNat = n := by
    have := List.mem_range.mp hn
    rw [BitVec.toNat_ofNat]
    omega
  change (fun t : State => t.endPulse (BitVec.ofNat 2 n).toNat) = _
  rw [line]

theorem obey_peers (l : List PeerEntry) :
    (l.map (fun e => [Instr.peerStaleDeadline e.station, .peerRemovalDeadline e.station])).flatten.map
      (fun c t => State.obey t c) = (l.map peerExpiries).flatten := by
  rw [List.map_flatten, List.map_map]
  exact congrArg List.flatten (List.map_congr_left fun _ _ => rfl)

/-- Every deadline expires as its command makes it. -/
theorem expiries_obey (s : State) : s.expiryCommands.map (fun c t => State.obey t c) = s.expiries := by
  have blocks : s.expiryCommands.map (fun c t => State.obey t c) =
      [[State.overrunExpiry, .audioAbsentDeadline, .qualitySilenceExpiry, .tallyBucketBoundary, .recoveryExpiry,
          .historyEntryExpiry, .referenceSilenceExpiry, .holdoverExpiry],
        ((List.range 32).map slotExpiries).flatten, [.statusTimerExpiry, .downshiftDeadline],
        (s.peers.table.map peerExpiries).flatten, [.divergenceExpiry],
        List.replicate s.peers.pendingVerdicts.length .proxyDeadline,
        (List.range 4).map (fun line t => t.endPulse line), [.listeningEnd]].flatten := by
    rw [← obey_slots, ← obey_peers, ← obey_lines]
    unfold State.expiryCommands
    simp only [List.map_flatten, List.map_cons, List.map_nil, List.map_replicate]
    rfl
  rw [blocks]
  simp [State.expiries]

theorem passDeadlines_obey (s : State) : s.passDeadlines = s.expiryCommands.foldl State.obey s := by
  unfold State.passDeadlines
  rw [← expiries_obey, List.foldl_map]

/-! ### The forward step (R36) -/

/-- The Time Base just after a forward step of `o` microseconds (R36). -/
def TimeBase.stepped (t : TimeBase) (o : Nat) : TimeBase :=
  { t with
    shelf := min (t.shelf + o) shelfMax, remaining := 0
    history := t.history.filter (fun e => min (t.shelf + o) shelfMax < e.arrival.time + 30000000) }

/-- The request of the TIME_STEP record of a step (R36). -/
def State.stepRequest (s : State) (o : Nat) : BreachRequest where
  category := .timeStep
  startStamp := ⟨s.time.shelf, s.time.source, false⟩
  endStamp := some (s.jump o).nowStamp
  figure := some (stepMilliseconds o)

/-- The request of the MARK unit of a step (R36, R102). -/
def State.stepMark (s : State) (o : Nat) : MarkRequest where
  reason := .timeStep
  stamp := (s.jump o).nowStamp
  media := none
  stepMs := stepMilliseconds o
  before := some ⟨s.time.shelf, s.time.source, false⟩
  place := ((s.jump o).raise (s.stepRequest o)).port.nextSerial

theorem takeStep_eq (s : State) (o : Nat) :
    s.takeStep o = ((s.jump o).raise (s.stepRequest o)).requestMark (s.stepMark o) := rfl

theorem takeStep_keeps (s : State) (o : Nat) : KeepsMeasured (s.jump o) (s.takeStep o) :=
  (raise_keeps _ _).trans (requestMark_keeps _ _)

theorem emptyStale_getElem (now : Nat) : ∀ (l : List TallyBucket) (n i : Nat) (b : TallyBucket), l[i]? = some b →
    (emptyStale now n l)[i]? = some (if (n - i + 1) * 100000 + second ≤ now then ⟨0, 0⟩ else b)
  | x :: l, n, 0, b, h => by
    cases h
    rfl
  | x :: l, n, i + 1, b, h => by
    have back : n - (i + 1) = n - 1 - i := by omega
    rw [back]
    exact emptyStale_getElem now l (n - 1) i b h

/-- The record of a step, where the log has room (R36). -/
theorem takeStep_record (s : State) (o : Nat) (room : s.log.records.length < 128) :
    ∃ r ∈ (s.takeStep o).log.records, r.category = .timeStep ∧ r.isOpen = false ∧
      r.startStamp = ⟨s.time.shelf, s.time.source, false⟩ ∧ r.endStamp = some (s.takeStep o).nowStamp ∧
      r.figure = some (stepMilliseconds o : Nat) := by
  have records := raise_records (q := s.stepRequest o) rfl (s := s.jump o) room
  have same : (s.takeStep o).log.records = ((s.jump o).raise (s.stepRequest o)).log.records := rfl
  rw [same, records, (takeStep_keeps s o).nowStamp]
  exact ⟨_, List.mem_append_right _ (List.mem_singleton_self _), rfl, rfl, rfl, rfl, rfl⟩

theorem correct_step (s : State) {o : Int} (step : 5000 ≤ o) : s.correct o = (s.takeStep o.toNat).passDeadlines := if_pos step

theorem correct_slew (s : State) {o : Int} (slew : o < 5000) : s.correct o = s.setTime { s.time with remaining := o } :=
  if_neg (Int.not_le.mpr slew)

/-- A correction that steps moves the Time Base on from the step (R36). -/
theorem correct_moves (s : State) {o : Int} (step : 5000 ≤ o) : (s.time.stepped o.toNat).MovesTo (s.correct o).time := by
  rw [correct_step s step]
  exact (TimeBase.MovesTo.of_eq (takeStep_keeps s o.toNat).time).trans (passDeadlines_moves _)

/-- What a correction leaves of shelf time and the remaining offset (R34, R35, R36). -/
theorem correct_clock (s : State) (o : Int) :
    (o < 5000 → (s.correct o).time.remaining = o ∧ (s.correct o).time.shelf = s.time.shelf) ∧
    (5000 ≤ o → (s.correct o).time.remaining = 0 ∧
      (s.correct o).time.shelf = min (s.time.shelf + o.toNat) shelfMax) :=
  ⟨fun slew => by rw [correct_slew s slew]; exact ⟨rfl, rfl⟩,
    fun step => ⟨(correct_moves s step).remaining, (correct_moves s step).shelf⟩⟩

/-- The forward step (R36): what it leaves before its deadlines expire, and the clock after them. -/
theorem correct_steps (s : State) (o : Int) (step : 5000 ≤ o) : ∃ t : State,
    s.correct o = t.expiryCommands.foldl State.obey t ∧ t.time = s.time.stepped o.toNat ∧
    t.reception = { s.reception with tally := t.reception.tally } ∧
    (∀ i b, s.reception.tally[i]? = some b → t.reception.tally[i]? = some
      (if (s.reception.tallyInterval - i + 1) * 100000 + 1000000 ≤ min (s.time.shelf + o.toNat) shelfMax then ⟨0, 0⟩ else b)) ∧
    t.port = s.port ∧ t.startup = s.startup ∧ t.segments = s.segments ∧ t.loudness = s.loudness ∧
    t.captions = s.captions ∧ t.verdicts = s.verdicts ∧ t.peers.table = s.peers.table ∧
    t.peers.pendingVerdicts = s.peers.pendingVerdicts ∧ t.peers.cache = s.peers.cache ∧
    (∃ m ∈ t.recorder.marks, m.reason = .timeStep ∧ m.stamp = t.nowStamp ∧
      m.before = some ⟨s.time.shelf, s.time.source, false⟩ ∧ m.stepMs = min (o.toNat / 1000) 2147483647) ∧
    (s.log.records.length < 128 → ∃ r ∈ t.log.records, r.category = .timeStep ∧ r.isOpen = false ∧
      r.startStamp = ⟨s.time.shelf, s.time.source, false⟩ ∧ r.endStamp = some t.nowStamp ∧
      r.figure = some (min (o.toNat / 1000) 2147483647 : Nat)) := by
  have kept := takeStep_keeps s o.toNat
  refine ⟨s.takeStep o.toNat, ?_, kept.time, ?_, fun i b here => ?_, kept.port, kept.startup, kept.segments, kept.loudness,
    kept.captions, kept.verdicts, kept.table, kept.proxies, kept.cache, ?_, takeStep_record s o.toNat⟩
  · rw [correct_step s step, passDeadlines_obey]
  · rw [kept.reception]
    rfl
  · rw [kept.reception]
    exact emptyStale_getElem _ _ _ i b here
  · rw [takeStep_eq]
    exact ⟨_, (mem_requestMark _ _ _).mpr (.inl rfl), rfl, kept.nowStamp.symm, rfl, rfl⟩

/-! ### LOCKED under a correction (R29, R36) -/

/-- LOCKED stays under a correction that does not reach its silence deadline. -/
theorem correct_stays {s : State} {o : Int} (locked : s.time.source = .locked)
    (early : o < 5000 ∨ reached s.time.silenceDeadline (min (s.time.shelf + o.toNat) shelfMax) = false) :
    (s.correct o).time.source = .locked ∧ (s.correct o).time.silenceDeadline = s.time.silenceDeadline := by
  by_cases step : 5000 ≤ o
  · have early := early.resolve_left (Int.not_lt.mpr step)
    obtain ⟨source, silence, -⟩ := (correct_moves s step).stays early locked
    exact ⟨source, silence⟩
  · rw [correct_slew s (Int.not_le.mp step)]
    exact ⟨locked, rfl⟩

/-- LOCKED is left at a step that reaches its silence deadline, outside FAULT. -/
theorem correct_leaves {s : State} {o : Int} (step : 5000 ≤ o) (locked : s.time.source = .locked)
    (due : reached s.time.silenceDeadline (min (s.time.shelf + o.toNat) shelfMax) = true)
    (running : s.startup.station ≠ .fault) : (s.correct o).time.source ≠ .locked ∧
      (s.correct o).time.silenceDeadline = none ∧ (s.correct o).time.window = none := by
  have kept := takeStep_keeps s o.toNat
  rw [correct_step s step]
  refine passDeadlines_silence ?_ ?_ ?_
  · rw [kept.startup]
    exact running
  · rw [kept.time]
    exact due
  · rw [kept.time]
    exact locked

/-! ### The oscillator check (R38, R39) -/

theorem judgeDeviation_time (s : State) (d : Nat) (stop : Stamp) : ∃ suspect largest,
    (s.judgeDeviation d stop).time = { s.time with suspect := suspect, largestDeviation := largest } := by
  unfold State.judgeDeviation
  split
  · split
    · exact ⟨_, _, rfl⟩
    · exact ⟨_, _, (closeBreach_keeps _ _ _ _ _).time⟩
  · split
    · exact ⟨_, _, (raise_keeps _ _).time⟩
    · exact ⟨_, _, rfl⟩

/-- The check changes the window and what a deviation leaves alone, and opens no window where there is none. -/
theorem checkOscillator_time (s : State) (u : QueuedUnit) (p : Nat) : ∃ window suspect largest,
    (s.checkOscillator u p).time =
      { s.time with window := window, suspect := suspect, largestDeviation := largest } ∧
    (s.time.window = none → window = none) := by
  unfold State.checkOscillator
  split
  · exact ⟨_, _, _, rfl, id⟩
  · next w some =>
    have never : ∀ {v : Option CheckWindow}, s.time.window = none → v = none := fun none =>
      nomatch some.symm.trans none
    split
    · dsimp only
      split
      · obtain ⟨_, _, judged⟩ := judgeDeviation_time (s.setTime { s.time with window := .some (windowAt u p) })
          (deviationPpm (u.noted - w.noted).toNat (p - w.prediction)) u.arrival
        exact ⟨_, _, _, judged, never⟩
      · exact ⟨_, _, _, rfl, never⟩
    · exact ⟨_, _, _, rfl, id⟩

/-! ### TIME units (R27 to R29) -/

theorem historyAgrees_iff (h : List HistoryEntry) :
    historyAgrees h = true ↔ h.length = 3 ∧ ∀ a ∈ h, ∀ b ∈ h, a.raw - b.raw ≤ 20000 := by
  simp [historyAgrees]

/-- The state with a TIME unit in the reference history (R28). -/
def State.remembering (s : State) (u : QueuedUnit) (payload : List Byte) : State :=
  s.setTime (s.time.pruned.remember ⟨(s.prediction payload : Int) - u.noted.toNat, u.arrival⟩)

theorem takeTime_locked {s : State} (locked : s.time.source = .locked) (u : QueuedUnit) (payload : List Byte) :
    s.takeTime u payload =
      (((s.remembering u payload).setTime ((s.remembering u payload).time.silenceFrom u.arrival)).correct
        (s.offsetOf (s.prediction payload) u.noted)).checkOscillator u (s.prediction payload) := by
  unfold State.takeTime
  dsimp only
  split
  · rfl
  all_goals
    next other => exact nomatch locked.symm.trans other

theorem takeTime_unlocked {s : State} (unlocked : s.time.source ≠ .locked) (u : QueuedUnit) (payload : List Byte) :
    s.takeTime u payload = if historyAgrees (s.remembering u payload).time.history
      then (s.remembering u payload).lock u (s.prediction payload) else s.remembering u payload := by
  unfold State.takeTime
  dsimp only
  split
  · next locked => exact absurd locked unlocked
  all_goals rfl

/-- A TIME unit taken while LOCKED (R28, R29, R38). -/
theorem takeTime_locked_clock {s : State} (locked : s.time.source = .locked) (u : QueuedUnit) (payload : List Byte) :
    let o := s.offsetOf (s.prediction payload) u.noted
    let deadline := u.arrival.time + 30 * second
    let shelf := min (s.time.shelf + o.toNat) shelfMax
    let t := s.takeTime u payload
    ((o < 5000 → t.time.remaining = o ∧ t.time.shelf = s.time.shelf) ∧
      (5000 ≤ o → t.time.remaining = 0 ∧ t.time.shelf = shelf)) ∧
    ((o < 5000 ∨ shelf < deadline) → t.time.source = .locked ∧ t.time.silenceDeadline = some deadline) ∧
    (5000 ≤ o → deadline ≤ shelf → s.startup.station ≠ .fault →
      t.time.source ≠ .locked ∧ t.time.silenceDeadline = none ∧ t.time.window = none) := by
  intro o deadline shelf t
  have eq : t = _ := takeTime_locked locked u payload
  generalize heard : (s.remembering u payload).setTime ((s.remembering u payload).time.silenceFrom u.arrival) = h at eq
  have here : h.time.source = .locked := by rw [← heard]; exact locked
  have silence : h.time.silenceDeadline = some deadline := by rw [← heard]; rfl
  have clock : h.time.shelf = s.time.shelf := by rw [← heard]; rfl
  have station : h.startup = s.startup := by rw [← heard]; rfl
  obtain ⟨window, suspect, largest, checked, none⟩ := checkOscillator_time (h.correct o) u (s.prediction payload)
  rw [← eq] at checked
  have corrected := correct_clock h o
  rw [clock] at corrected
  rw [checked]
  refine ⟨corrected, fun early => ?_, fun step due running => ?_⟩
  · have stays := correct_stays here (early.imp_right fun before => by
      rw [silence, clock]
      exact decide_eq_false (Nat.not_le.mpr before))
    rw [silence] at stays
    exact stays
  · obtain ⟨left, spent, closed⟩ := correct_leaves step here (by
      rw [silence, clock]
      exact decide_eq_true due) (by rw [station]; exact running)
    exact ⟨left, spent, none closed⟩

/-- A TIME unit that brings agreement (R28, R29). -/
theorem takeTime_locks {s : State} (unlocked : s.time.source ≠ .locked) {u : QueuedUnit} {payload : List Byte}
    (agrees : historyAgrees (s.remembering u payload).time.history = true) :
    let o := s.offsetOf (s.prediction payload) u.noted
    let corrected := ((s.remembering u payload).enterSource .locked).correct o
    let t := s.takeTime u payload
    t = corrected.setTime { corrected.time with
      silenceDeadline := some (u.arrival.time + 30 * second), window := some (windowAt u (s.prediction payload)) } ∧
    t.time.source = .locked ∧
    (o < 5000 → t.time.remaining = o ∧ t.time.shelf = s.time.shelf) ∧
    (5000 ≤ o → t.time.remaining = 0 ∧ t.time.shelf = min (s.time.shelf + o.toNat) shelfMax) := by
  intro o corrected t
  have entered := enterSource_time (s.remembering u payload) .locked
  have offset : ((s.remembering u payload).enterSource .locked).offsetOf (s.prediction payload) u.noted = o := by
    unfold State.offsetOf State.ticksSince State.now
    rw [entered]
    rfl
  have eq : t = corrected.setTime { corrected.time with
      silenceDeadline := some (u.arrival.time + 30 * second), window := some (windowAt u (s.prediction payload)) } := by
    refine (takeTime_unlocked unlocked u payload).trans ((if_pos agrees).trans ?_)
    unfold State.lock
    dsimp only
    rw [offset]
    rfl
  have clock := correct_clock ((s.remembering u payload).enterSource .locked) o
  have stays := correct_stays (s := (s.remembering u payload).enterSource .locked) (o := o) (by rw [entered]; rfl)
    (.inr (by rw [entered]; rfl))
  rw [entered] at clock
  rw [eq]
  exact ⟨rfl, stays.1, clock⟩

/-! ### The offsets of a followed peer (R32, R33) -/

theorem takePeerTime_followed {s : State} {station : Byte} (followed : s.time.source = .peer ∧ s.time.followed = some station)
    (c : TimeClass) (senderTime : Nat) (noted : BitVec 64) :
    ((c = .locked ∨ c = .holdover) →
      s.takePeerTime station c senderTime noted = (s.correct (s.offsetOf senderTime noted)).considerPeers) ∧
    ((c = .peer ∨ c = .free) → s.takePeerTime station c senderTime noted = (s.loseFollowed station).considerPeers) := by
  unfold State.takePeerTime
  rw [if_pos followed]
  constructor <;> rintro (rfl | rfl) <;> rfl

/-- Settles O43: the correction rule, its users, and the oscillator check. -/
theorem correction : Obligations.Correction := by
  refine ⟨fun s o => ?_, fun s u payload => ?_, fun s station c senderTime noted peer followed cls => ?_,
    fun s station c senderTime noted => ?_, fun s u prediction => ?_, fun s deviation stop => ?_⟩
  · refine ⟨fun step => ?_, fun step => ?_, fun slew => correct_slew s slew⟩
    · obtain ⟨t, eq, rest⟩ := correct_steps s o step
      refine ⟨t, eq.trans ?_, rest⟩
      refine congrArg (fun f => t.expiryCommands.foldl f t) (funext fun x => funext fun c => ?_)
      unfold State.obey
      cases exec c x <;> rfl
    · have moved := correct_moves s step
      exact ⟨moved.shelf, moved.remaining, moved.localCount⟩
  · intro prediction o t history agrees deadline window
    have agrees_iff : agrees ↔ historyAgrees (s.remembering u payload).time.history = true := (historyAgrees_iff _).symm
    by_cases locked : s.time.source = .locked
    · obtain ⟨clock, stays, leaves⟩ := takeTime_locked_clock locked u payload
      exact ⟨fun _ => clock, fun _ => ⟨takeTime_locked locked u payload, stays, leaves⟩,
        fun other => absurd locked other, fun other => absurd locked other⟩
    · refine ⟨fun either => ?_, fun here => absurd here locked, fun _ agree => ?_, fun _ differ => ?_⟩
      · exact (takeTime_locks locked (agrees_iff.mp (either.resolve_left locked))).2.2
      · obtain ⟨eq, source, -⟩ := takeTime_locks locked (agrees_iff.mp agree)
        exact ⟨eq, source⟩
      · exact (takeTime_unlocked locked u payload).trans (if_neg fun h => differ (agrees_iff.mpr h))
  · intro o t
    have eq : t = (s.correct o).considerPeers := (takePeerTime_followed ⟨peer, followed⟩ c senderTime noted).1 cls
    have moved := considerPeers_moves (s.correct o)
    obtain ⟨slew, step⟩ := correct_clock s o
    rw [eq, moved.remaining, moved.shelf]
    exact ⟨rfl, slew, step⟩
  · refine ⟨fun other => congrArg State.considerPeers (if_neg other), fun followed cls => ?_⟩
    exact (takePeerTime_followed followed c senderTime noted).2 cls
  · unfold State.checkOscillator
    refine ⟨fun none => by rw [none], fun w some => ?_⟩
    rw [some]
    exact ⟨fun short => if_neg (Nat.not_le.mpr short), fun long behind => (if_pos long).trans (if_neg (Nat.not_lt.mpr behind)),
      fun long ahead => (if_pos long).trans (if_pos ahead)⟩
  · unfold State.judgeDeviation
    refine ⟨fun sound big => ?_, fun sound small => ?_, fun suspect big => ?_, fun suspect small => ?_⟩
    · rw [sound, if_neg Bool.false_ne_true, if_pos big]
    · rw [sound, if_neg Bool.false_ne_true, if_neg (Nat.not_lt.mpr small)]
    · rw [if_pos suspect, if_pos big, ← suspect]
    · rw [suspect, if_pos rfl, if_neg (Nat.not_lt.mpr small)]

end Sys2Proof.Machine
end

section
/-! PROOF. Shelf time under every command (R25, R36, R41). It moves by a tick, by a forward step inside an operation that
`Proceeds`, and by FULL_RESET; every other command leaves the Time Base alone. Settles O6. -/

namespace Sys2Proof.Machine

/-! ### The relation -/

/-- From a shelf time within its limit, shelf time does not go back and stays within it. -/
def State.ClockRunsTo (s t : State) : Prop := s.now ≤ shelfMax → s.now ≤ t.now ∧ t.now ≤ shelfMax

/-- A state reached by an outcome has shelf time run on from the state before. -/
def ClockRuns (s : State) (o : Host.Outcome State Fault Refusal) : Prop := ∀ t, o = .next t → s.ClockRunsTo t

namespace State.ClockRunsTo

variable {s t u : State}

theorem of_shelf (same : t.time.shelf = s.time.shelf) : s.ClockRunsTo t := fun within =>
  ⟨Nat.le_of_eq same.symm, same.trans_le within⟩

theorem of_time (same : t.time = s.time) : s.ClockRunsTo t := of_shelf (congrArg TimeBase.shelf same)

theorem trans (a : s.ClockRunsTo t) (b : t.ClockRunsTo u) : s.ClockRunsTo u := fun within =>
  have ⟨forth, still⟩ := a within
  have ⟨further, last⟩ := b still
  ⟨forth.trans further, last⟩

end State.ClockRunsTo

open State.ClockRunsTo

namespace ClockRuns

variable {s t : State}

theorem next (h : s.ClockRunsTo t) : ClockRuns s (.next t) := fun _ e => Host.Outcome.next.inj e ▸ h

theorem proceeds (h : Proceeds s t) : ClockRuns s (.next t) := next h.clock

/-- A command after which the Time Base is as it was. -/
theorem still (same : t.time = s.time) : ClockRuns s (.next t) := next (of_time same)

theorem idle (s : State) : ClockRuns s (.next s) := still rfl

/-- A request runs the clock as what it serves does (R181). -/
theorem request (serve : State → State) (h : s.ClockRunsTo (serve s)) : ClockRuns s (s.request serve) := by
  unfold State.request
  split
  · exact next h
  · exact idle s

/-- A request that is only answered leaves the Time Base alone. -/
theorem answered (serve : State → State) (same : (serve s).time = s.time) : ClockRuns s (s.request serve) :=
  request serve (of_time same)

end ClockRuns

open ClockRuns

/-! ### The tick (R25, R35) -/

/-- A time moved later is not earlier, and within the last shelf time (R25). -/
theorem le_shelfAdd {n : Nat} (within : n ≤ shelfMax) (d : Nat) : n ≤ shelfAdd n d ∧ shelfAdd n d ≤ shelfMax :=
  ⟨Nat.le_min.mpr ⟨Nat.le_add_right n d, within⟩, Nat.min_le_right _ _⟩

theorem execOscillatorTick_clockRuns (s : State) : ClockRuns s (execOscillatorTick s) :=
  next fun within => le_shelfAdd within s.time.advance

/-! ### Start-up and restart -/

theorem execConfigLoaded_clockRuns (bytes : List Byte) (s : State) : ClockRuns s (execConfigLoaded bytes s) := by
  unfold execConfigLoaded
  split
  · refine still ?_
    rw [State.setStartup_time]
    split
    · exact (raise_keeps _ _).time
    · rfl
  · exact idle s

theorem execMemoryCheckDone_clockRuns (failed : CheckReport) (s : State) : ClockRuns s (execMemoryCheckDone failed s) := by
  unfold execMemoryCheckDone
  split
  · refine next ?_
    split
    · exact (of_time (by rfl)).trans (settleTimeRecords_proceeds _).clock
    · exact of_time rfl
  · exact idle s

theorem cuts_time (s : State) : s.cutRecords.cutHolds.time = s.time := by
  rw [cuts_eq]
  rfl

theorem beginWithdrawal_time (s : State) : s.beginWithdrawal.time = s.time := by
  unfold State.beginWithdrawal
  split <;> rfl

theorem execRestart_clockRuns (s : State) : ClockRuns s (execRestart s) := by
  refine answered _ ?_
  split
  · rfl
  · rfl
  · exact cuts_time s
  all_goals
    split
    · rfl
    · exact beginWithdrawal_time _

theorem clearForRestart_clockRunsTo (s : State) : s.ClockRunsTo s.clearForRestart := by
  obtain ⟨time, cleared, shelf, -⟩ := clearForRestart_eq s
  rw [cleared]
  exact of_shelf shelf

theorem execRestartSequence_clockRuns (s : State) : ClockRuns s (execRestartSequence s) := by
  unfold execRestartSequence
  split
  · refine next (.trans (of_time (cuts_time s)) (.trans (resolveAll_proceeds _).clock ?_))
    exact State.ClockRunsTo.trans (requestMark_proceeds _ _).clock (clearForRestart_clockRunsTo _)
  · exact idle s

/-! ### The Media Port and the Recorder -/

theorem dropUnit_time (s : State) : s.dropUnit.time = s.time := by
  unfold State.dropUnit
  split
  · rfl
  · exact (raise_keeps _ _).time

theorem arrive_time (s : State) (k : UnitKind) (h : UnitHeader) : (s.arrive k h).time = s.time := by
  have admitted : (if s.port.hasRoom h.length then s.enqueue k h else s.dropUnit).time = s.time := by
    split
    · rfl
    · exact dropUnit_time s
  unfold State.arrive
  split
  · rfl
  · rfl
  · exact admitted
  · exact admitted
  · exact admitted
  · rfl

theorem execUnitHeaderComplete_clockRuns (bytes : List Byte) (s : State) :
    ClockRuns s (execUnitHeaderComplete bytes s) := by
  unfold execUnitHeaderComplete
  split
  · exact idle s
  · dsimp only
    split
    · exact still rfl
    · exact still (arrive_time _ _ _)

theorem execMissingDelimiter_clockRuns (a b : Byte) (s : State) : ClockRuns s (execMissingDelimiter a b s) := by
  unfold execMissingDelimiter
  split
  · exact still rfl
  · exact idle s

theorem execPayloadComplete_clockRuns (payload : List Byte) (s : State) : ClockRuns s (execPayloadComplete payload s) := by
  unfold execPayloadComplete
  split
  · exact idle s
  · split
    · split <;> exact still rfl
    · exact idle s

theorem execUnitDelivery_clockRuns (s : State) : ClockRuns s (execUnitDelivery s) := by
  unfold execUnitDelivery
  split
  · exact idle s
  · split
    · exact idle s
    · split
      · exact proceeds (deliver_proceeds s _ _)
      · exact idle s

theorem execRecorderWriteComplete_clockRuns (s : State) : ClockRuns s (execRecorderWriteComplete s) := by
  unfold execRecorderWriteComplete
  split
  · exact idle s
  · exact still rfl

theorem execMarkUnitWrite_clockRuns (s : State) : ClockRuns s (execMarkUnitWrite s) := by
  unfold execMarkUnitWrite
  split
  · exact idle s
  · split
    · dsimp only
      split
      · next ready => exact next (readyPage_proceeds ready).clock
      · exact still rfl
    · exact idle s

/-! ### Shelf link and peers -/

theorem execLineQuiet_clockRuns (received : List Byte) (s : State) : ClockRuns s (execLineQuiet received s) := by
  unfold execLineQuiet
  split
  · exact idle s
  · dsimp only
    split
    · exact still rfl
    · split <;> exact still rfl

theorem execFrameStart_clockRuns (s : State) : ClockRuns s (execFrameStart s) := by
  unfold execFrameStart
  split
  · exact still rfl
  · exact idle s

theorem enterListenOnly_time (s : State) : s.enterListenOnly.time = s.time := by
  unfold State.enterListenOnly
  dsimp only
  split <;> rfl

theorem duplicateHeard_time (s : State) (rx : FrameRx) : (s.duplicateHeard rx).time = s.time := by
  unfold State.duplicateHeard
  split
  · exact (enterListenOnly_time _).trans (raise_keeps _ _).time
  · exact (enterListenOnly_time _).trans (raise_keeps _ _).time
  all_goals rfl

theorem judgeFrame_clockRunsTo (s : State) (bytes : List Byte) (rx : FrameRx) :
    s.ClockRunsTo (s.judgeFrame bytes rx) := by
  unfold State.judgeFrame
  split
  · exact of_time rfl
  · split
    · exact of_time (duplicateHeard_time s rx)
    · exact (takeFrame_proceeds s _ rx).clock

theorem execFrameComplete_clockRuns (bytes : List Byte) (s : State) : ClockRuns s (execFrameComplete bytes s) := by
  unfold execFrameComplete
  split
  · exact idle s
  · split
    · split
      · exact still rfl
      · split
        · exact next (judgeFrame_clockRunsTo (s.setLink { s.link with rx := none }) _ _)
        · exact idle s
    · exact idle s

theorem execAttemptStart_clockRuns (s : State) : ClockRuns s (execAttemptStart s) := by
  unfold execAttemptStart
  split
  · exact idle s
  · split
    · exact still rfl
    · exact idle s

theorem execCollision_clockRuns (s : State) : ClockRuns s (execCollision s) := by
  unfold execCollision
  split
  · split
    · exact still rfl
    · dsimp only
      split <;> exact still rfl
  · exact idle s

theorem execNoticeCommitted_clockRuns (s : State) : ClockRuns s (execNoticeCommitted s) := by
  unfold execNoticeCommitted
  split
  · exact still rfl
  · exact idle s

theorem execFrameSent_clockRuns (s : State) : ClockRuns s (execFrameSent s) := by
  unfold execFrameSent
  split
  · dsimp only
    split <;> exact still rfl
  · exact idle s

theorem execOccupancyBucketEnd_clockRuns (s : State) : ClockRuns s (execOccupancyBucketEnd s) := by
  unfold execOccupancyBucketEnd
  split
  · exact still rfl
  · exact idle s

/-! ### Evidence port -/

theorem commit_time (s : State) (e : CommitEffect) : (s.commit e).time = s.time := by
  cases e <;> rfl

theorem execReadingRequestCommit_clockRuns (s : State) : ClockRuns s (execReadingRequestCommit s) := by
  unfold execReadingRequestCommit
  split
  · exact idle s
  · exact still (commit_time _ _)

theorem execUnknownRequest_clockRuns (code : Byte) (s : State) : ClockRuns s (execUnknownRequest code s) :=
  answered _ rfl

theorem execReadSummary_clockRuns (s : State) : ClockRuns s (execReadSummary s) := answered _ rfl

theorem execLogNext_clockRuns (s : State) : ClockRuns s (execLogNext s) := answered _ (by split <;> rfl)

theorem execLogRewind_clockRuns (s : State) : ClockRuns s (execLogRewind s) := answered _ rfl

theorem execLogAck_clockRuns (number : BitVec 16) (s : State) : ClockRuns s (execLogAck number s) := answered _ rfl

theorem execVerdictNext_clockRuns (s : State) : ClockRuns s (execVerdictNext s) := answered _ (by split <;> rfl)

theorem execVerdictRewind_clockRuns (s : State) : ClockRuns s (execVerdictRewind s) := answered _ rfl

theorem execHoldList_clockRuns (s : State) : ClockRuns s (execHoldList s) := answered _ rfl

theorem execHoldPlace_clockRuns (a b c d : Word32) (s : State) : ClockRuns s (execHoldPlace a b c d s) :=
  request _ (placeController_proceeds s _ _).clock

theorem execUnitSeek_clockRuns (slot : Byte) (a b : Word32) (s : State) : ClockRuns s (execUnitSeek slot a b s) :=
  answered _ (by split <;> rfl)

theorem execHoldRelease_clockRuns (slot : Byte) (s : State) : ClockRuns s (execHoldRelease slot s) := by
  refine request _ ?_
  split
  · exact of_time rfl
  · exact (releaseHold_proceeds s _).clock

theorem execUnitRead_clockRuns (s : State) : ClockRuns s (execUnitRead s) := by
  refine answered _ ?_
  split
  · rfl
  · split
    · rfl
    · split <;> rfl

/-! ### Every command -/

/-- Every command but FULL_RESET runs the clock. -/
theorem exec_clockRuns (c : Instr) (s : State) (kept : c ≠ .fullReset) : ClockRuns s (exec c s) := by
  cases c with
  | fullReset => exact absurd rfl kept
  | configLoaded bytes => exact execConfigLoaded_clockRuns bytes s
  | memoryCheckDone failed => exact execMemoryCheckDone_clockRuns failed s
  | listeningEnd => exact proceeds (listeningEnd_proceeds s)
  | oscillatorTick => exact execOscillatorTick_clockRuns s
  | unitHeaderComplete bytes => exact execUnitHeaderComplete_clockRuns bytes s
  | payloadComplete payload => exact execPayloadComplete_clockRuns payload s
  | unitDelivery => exact execUnitDelivery_clockRuns s
  | recorderWriteComplete => exact execRecorderWriteComplete_clockRuns s
  | markUnitWrite => exact execMarkUnitWrite_clockRuns s
  | overrunExpiry => exact proceeds (overrunExpiry_proceeds s)
  | audioAbsentDeadline => exact proceeds (audioAbsentDeadline_proceeds s)
  | qualitySilenceExpiry => exact proceeds (qualitySilenceExpiry_proceeds s)
  | tallyBucketBoundary => exact proceeds (tallyBucketBoundary_proceeds s)
  | recoveryExpiry => exact proceeds (recoveryExpiry_proceeds s)
  | historyEntryExpiry => exact proceeds (historyEntryExpiry_proceeds s)
  | referenceSilenceExpiry => exact proceeds (referenceSilenceExpiry_proceeds s)
  | holdoverExpiry => exact proceeds (holdoverExpiry_proceeds s)
  | lineBusy => exact still rfl
  | lineQuiet received => exact execLineQuiet_clockRuns received s
  | frameStart => exact execFrameStart_clockRuns s
  | frameComplete bytes => exact execFrameComplete_clockRuns bytes s
  | attemptStart => exact execAttemptStart_clockRuns s
  | collision => exact execCollision_clockRuns s
  | noticeCommitted => exact execNoticeCommitted_clockRuns s
  | frameSent => exact execFrameSent_clockRuns s
  | occupancyBucketEnd => exact execOccupancyBucketEnd_clockRuns s
  | statusTimerExpiry => exact proceeds (statusTimerExpiry_proceeds s)
  | downshiftDeadline => exact proceeds (downshiftDeadline_proceeds s)
  | peerStaleDeadline station => exact proceeds (peerStaleDeadline_proceeds s station)
  | peerRemovalDeadline station => exact proceeds (peerRemovalDeadline_proceeds s station)
  | divergenceExpiry => exact proceeds (divergenceExpiry_proceeds s)
  | proxyDeadline => exact proceeds (proxyDeadline_proceeds s)
  | holdIntervalClose slot => exact proceeds (holdIntervalClose_proceeds s slot.toNat)
  | holdMaxLengthExpiry slot => exact proceeds (holdMaxLengthExpiry_proceeds s slot.toNat)
  | pulseEnd line => exact proceeds (endPulse_proceeds s line.toNat)
  | chipSelectRise => exact still rfl
  | readingRequestCommit => exact execReadingRequestCommit_clockRuns s
  | unknownRequest code => exact execUnknownRequest_clockRuns code s
  | readSummary => exact execReadSummary_clockRuns s
  | logNext => exact execLogNext_clockRuns s
  | logRewind => exact execLogRewind_clockRuns s
  | logAck number => exact execLogAck_clockRuns number s
  | verdictNext => exact execVerdictNext_clockRuns s
  | verdictRewind => exact execVerdictRewind_clockRuns s
  | holdList => exact execHoldList_clockRuns s
  | holdPlace a b c d => exact execHoldPlace_clockRuns a b c d s
  | holdRelease slot => exact execHoldRelease_clockRuns slot s
  | unitSeek slot seconds micros => exact execUnitSeek_clockRuns slot seconds micros s
  | unitRead => exact execUnitRead_clockRuns s
  | restart => exact execRestart_clockRuns s
  | restartSequence => exact execRestartSequence_clockRuns s
  | missingDelimiter first second => exact execMissingDelimiter_clockRuns first second s

/-- FULL_RESET sets shelf time to 0 (R25, R41). -/
theorem exec_fullReset_now {s t : State} (h : exec .fullReset s = .next t) : t.now = 0 := by
  rw [exec_fullReset] at h
  exact Host.Outcome.next.inj h ▸ rfl

/-- Settles O6: a step idles, resets in full, or runs another command, which runs the clock. -/
theorem shelfTimeNeverGoesBack : Obligations.ShelfTimeNeverGoesBack := by
  intro s t within h
  unfold step at h
  split at h
  · cases h
    exact ⟨within, fun _ => Nat.le_refl _⟩
  · next c rest waiting =>
    by_cases reset : c = .fullReset
    · rw [reset] at h waiting
      refine ⟨?_, fun kept => absurd (congrArg List.head? waiting) kept⟩
      rw [exec_fullReset_now h]
      exact Nat.zero_le _
    · obtain ⟨forth, limit⟩ := exec_clockRuns c _ reset t h within
      exact ⟨limit, fun _ => forth⟩

end Sys2Proof.Machine
end

section
/-! PROOF. The tick of the oscillator (R25, R35, R127, R133). Settles O41. -/

namespace Sys2Proof.Machine

/-- What a tick does to shelf time and the remaining offset: plain, or an adjustment tick of either sign (R25, R35). -/
theorem TimeBase.tick_clock (t : TimeBase) :
    (t.adjustNext = false ∨ t.remaining = 0 →
      t.tick.shelf = shelfAdd t.shelf 1 ∧ t.tick.remaining = t.remaining) ∧
    (t.adjustNext = true → 0 < t.remaining →
      t.tick.shelf = shelfAdd t.shelf 2 ∧ t.tick.remaining = t.remaining - 1) ∧
    (t.adjustNext = true → t.remaining < 0 →
      t.tick.shelf = shelfAdd t.shelf 0 ∧ t.tick.remaining = t.remaining + 1) := by
  unfold TimeBase.tick TimeBase.advance TimeBase.remainingAfter
  refine ⟨fun plain => ?_, fun adjust ahead => ?_, fun adjust behind => ?_⟩
  · rcases plain with plain | spent
    · simp [plain]
    · simp [spent]
  · simp [adjust, ahead]
  · simp [adjust, behind, Int.not_lt.mpr (Int.le_of_lt behind)]

/-- The tick after one that brought shelf time to a multiple of 10,000 is an adjustment tick (R35). -/
theorem TimeBase.tick_adjustNext (t : TimeBase) :
    t.tick.adjustNext = true ↔ t.shelf < t.tick.shelf ∧ t.tick.shelf % 10000 = 0 := by
  simp [TimeBase.tick]

/-- A tick counts in the current occupancy bucket while the measuring blocks run and the line is busy (R133). -/
theorem ShelfLink.tick_live (l : ShelfLink) : (l.tick true).bucketTicks = l.bucketTicks + 1 ∧
    ∀ n rest, l.occupancy = n :: rest → (l.tick true).occupancy = (if l.busy then n + 1 else n) :: rest := by
  refine ⟨rfl, fun n rest buckets => ?_⟩
  cases busy : l.busy <;> simp [ShelfLink.tick, changeAt, busy, buckets]

/-- Settles O41: the tick of the Time Base and of the line, each by its own lemmas. -/
theorem oscillatorTick : Obligations.OscillatorTick := by
  intro s
  obtain ⟨plain, ahead, behind⟩ := s.time.tick_clock
  refine ⟨(s.setTime s.time.tick).setLink (s.link.tick s.live), rfl, rfl, plain, ahead, behind, s.time.tick_adjustNext, rfl,
    rfl, fun live => ?_, fun still => ?_, rfl, rfl⟩
  · rw [live]
    exact s.link.tick_live
  · rw [still]
    exact ⟨rfl, rfl⟩

end Sys2Proof.Machine
end

section
/-! PROOF. The Time Base's deadlines (R28 to R30), the peer choice (R31) and the loss of the followed peer (R33), with the
record a change of source state asks for (R37, R40). Settles O42. -/

namespace Sys2Proof.Machine

/-! ### The least by a key -/

theorem leastBy_eq_none_iff {α : Type} (key : α → Nat) (l : List α) : leastBy key l = none ↔ l = [] := by
  cases l with
  | nil => exact ⟨fun _ => rfl, fun _ => rfl⟩
  | cons x xs =>
    unfold leastBy
    refine ⟨fun none => ?_, fun empty => nomatch empty⟩
    split at none
    · cases none
    · split at none <;> cases none

/-- The key of the least is at or below every key. -/
theorem leastBy_le {α : Type} (key : α → Nat) : ∀ {l : List α} {x : α}, leastBy key l = some x → ∀ y ∈ l, key x ≤ key y
  | z :: zs, x, least, y, hy => by
    unfold leastBy at least
    rw [List.mem_cons] at hy
    split at least
    · next alone =>
      cases least
      rw [(leastBy_eq_none_iff key zs).mp alone] at hy
      rcases hy with rfl | hy
      · exact Nat.le_refl _
      · exact absurd hy List.not_mem_nil
    · next m behind =>
      have ih := leastBy_le key behind
      split at least
      · next first =>
        cases least
        rcases hy with rfl | hy
        · exact Nat.le_refl _
        · exact first.trans (ih y hy)
      · next later =>
        cases least
        rcases hy with rfl | hy
        · exact Nat.le_of_not_le later
        · exact ih y hy

/-! ### The peer choice (R31) -/

theorem classNumber_eq {e : PeerEntry} {p : PeerStatus} (status : e.status = some p) :
    e.classNumber = p.timeClass.number := by
  unfold PeerEntry.classNumber
  rw [status]

theorem TimeClass.number_le_two_iff (c : TimeClass) : c.number ≤ 2 ↔ c = .locked ∨ c = .holdover := by
  cases c <;> decide

theorem classNumber_le_two_iff (e : PeerEntry) :
    e.classNumber ≤ 2 ↔ ∃ p, e.status = some p ∧ (p.timeClass = .locked ∨ p.timeClass = .holdover) := by
  unfold PeerEntry.classNumber
  cases e.status with
  | none => simp
  | some p => simpa using p.timeClass.number_le_two_iff

/-- A candidate of the peer table (R31). -/
def State.Candidate (s : State) (e : PeerEntry) : Prop :=
  e ∈ s.peers.table ∧ e.heard = true ∧ e.station.toNat ≠ s.config.stationNumber ∧
    ∃ p, e.status = some p ∧ (p.timeClass = .locked ∨ p.timeClass = .holdover)

theorem candidate_iff (s : State) (e : PeerEntry) :
    s.Candidate e ↔ e ∈ s.peers.table.filter (fun e => e.candidate s.config.stationNumber) := by
  unfold State.Candidate PeerEntry.candidate
  rw [← classNumber_le_two_iff]
  simp [and_assoc, and_comm, and_left_comm]

/-- A candidate before which no other goes: of the lowest class, and of the lowest station number in it (R31). -/
def State.Chosen (s : State) (e : PeerEntry) : Prop :=
  s.Candidate e ∧ ∀ x p q, s.Candidate x → e.status = some p → x.status = some q →
    p.timeClass.number < q.timeClass.number ∨ (p.timeClass = q.timeClass ∧ e.station.toNat ≤ x.station.toNat)

theorem peerChoice_none {s : State} (none : ∀ e, ¬ s.Candidate e) : s.peerChoice = .none :=
  (leastBy_eq_none_iff _ _).mpr (List.eq_nil_iff_forall_not_mem.mpr fun e he => none e ((candidate_iff s e).mpr he))

/-- The peer choice is a candidate of the chosen one's class and station number, by the order of the keys. -/
theorem peerChoice_chosen {s : State} {e : PeerEntry} (chosen : s.Chosen e) :
    ∃ x, s.peerChoice = some x ∧ x.station = e.station ∧ x.classNumber = e.classNumber := by
  obtain ⟨candidate, first⟩ := chosen
  have listed := (candidate_iff s e).mp candidate
  cases choice : s.peerChoice with
  | none => exact absurd ((leastBy_eq_none_iff _ _).mp choice) (List.ne_nil_of_mem listed)
  | some x =>
    have other := (candidate_iff s x).mpr (leastBy_mem _ _ _ choice)
    have least := leastBy_le _ choice e listed
    obtain ⟨-, -, -, p, statusE, -⟩ := candidate
    have ⟨_, _, _, q, statusX, _⟩ := other
    have order := first x p q other statusE statusX
    rw [classNumber_eq statusE, classNumber_eq statusX] at least
    have widthE := e.station.isLt
    have widthX := x.station.isLt
    have same : q.timeClass.number = p.timeClass.number ∧ x.station.toNat = e.station.toNat := by
      rcases order with lower | ⟨cls, before⟩
      · omega
      · have := congrArg TimeClass.number cls
        omega
    refine ⟨x, rfl, BitVec.eq_of_toNat_eq same.2, ?_⟩
    rw [classNumber_eq statusE, classNumber_eq statusX, same.1]

/-! ### A source state entered (R28 to R31, R37, R40) -/

/-- The state with its Time Base in a source state other than LOCKED and HOLDOVER, with the peer followed in it. -/
def State.inSource (s : State) (c : TimeClass) (peer : Option Byte) : State :=
  s.setTime { s.time with
    source := c, followed := peer, silenceDeadline := none, holdoverDeadline := none, window := none }

theorem reportSource_quiet {s : State} (quiet : s.live = false) (was : TimeClass) : s.reportSource was = s := by
  unfold State.reportSource
  rw [quiet]
  rfl

/-- No record is asked for between two states of which both or neither degrade the time (R37). -/
theorem reportSource_same {s : State} {was : TimeClass} (same : was.degraded = s.time.source.degraded) :
    s.reportSource was = s := by
  unfold State.reportSource
  rw [same]
  cases s.time.source.degraded <;> simp

theorem reportSource_opens {s : State} {was : TimeClass} (live : s.live = true) (sound : was.degraded = false)
    (degraded : s.time.source.degraded = true) :
    s.reportSource was = s.raise { category := .timeDegraded, startStamp := s.nowStamp } := by
  simp [State.reportSource, live, sound, degraded]

theorem reportSource_closes {s : State} {was : TimeClass} (live : s.live = true) (degraded : was.degraded = true)
    (sound : s.time.source.degraded = false) :
    s.reportSource was = s.closeBreach .timeDegraded s.nowStamp none false := by
  simp [State.reportSource, live, sound, degraded]

theorem enterSource_free (s : State) : s.enterSource .free = (s.inSource .free none).reportSource s.time.source := rfl

theorem follow_eq (s : State) (e : PeerEntry) :
    s.follow e = (s.inSource .peer (some e.station)).reportSource s.time.source := rfl

/-- What a peer followed leaves of the state (R31, R37, R40). -/
theorem follow_spec (s : State) (e : PeerEntry) :
    ((s.time.source = .peer ∨ s.live = false) → s.follow e = s.inSource .peer (some e.station)) ∧
    (s.time.source.degraded = true → s.live = true → s.follow e =
      (s.inSource .peer (some e.station)).closeBreach .timeDegraded (s.inSource .peer (some e.station)).nowStamp none false) := by
  rw [follow_eq]
  refine ⟨fun kept => ?_, fun degraded live => reportSource_closes live degraded rfl⟩
  rcases kept with peer | quiet
  · exact reportSource_same (congrArg TimeClass.degraded peer)
  · exact reportSource_quiet (s := s.inSource _ _) quiet _

/-! ### The deadlines (R28 to R30) -/

/-- The state in HOLDOVER, its deadline set (R30). -/
def State.heldOver (s : State) : State :=
  s.setTime { s.time with
    source := .holdover, followed := none, silenceDeadline := none, window := none
    holdoverDeadline := some (s.now + s.config.holdoverLimit * second) }

theorem reached_some {d now : Nat} (due : d ≤ now) : reached (some d) now = true := decide_eq_true due

theorem exec_referenceSilenceExpiry {s : State} {d : Nat} (station : s.startup.station ≠ .fault)
    (locked : s.time.source = .locked) (silence : s.time.silenceDeadline = some d) (due : d ≤ s.now) :
    exec .referenceSilenceExpiry s = .next (s.heldOver.reportSource .locked) := by
  have fires : s.referenceSilenceExpiry = s.enterSource .holdover := if_pos ⟨station, locked, silence ▸ reached_some due⟩
  have entered : s.enterSource .holdover = s.heldOver.reportSource s.time.source := rfl
  exact congrArg Host.Outcome.next (fires.trans (locked ▸ entered))

theorem exec_referenceSilenceExpiry_early {s : State} {d : Nat} (silence : s.time.silenceDeadline = some d)
    (early : s.now < d) : exec .referenceSilenceExpiry s = .next s := by
  refine congrArg Host.Outcome.next (if_neg fun fires => ?_)
  obtain ⟨-, -, due⟩ := fires
  rw [silence] at due
  exact Nat.not_le.mpr early (of_decide_eq_true due)

theorem holdoverExpiry_due {s : State} {d : Nat} (station : s.startup.station ≠ .fault)
    (holdover : s.time.source = .holdover) (deadline : s.time.holdoverDeadline = some d) (due : d ≤ s.now) :
    s.holdoverExpiry = s.peerChoice.elim (s.enterSource .free) s.follow := by
  refine (if_pos ⟨station, holdover, deadline ▸ reached_some due⟩).trans ?_
  cases s.peerChoice <;> rfl

/-- At the holdover deadline without a candidate the state is FREE, and no record changes (R30, R37). -/
theorem exec_holdoverExpiry_free {s : State} {d : Nat} (station : s.startup.station ≠ .fault)
    (holdover : s.time.source = .holdover) (deadline : s.time.holdoverDeadline = some d) (due : d ≤ s.now)
    (none : s.peerChoice = .none) : exec .holdoverExpiry s = .next (s.inSource .free .none) := by
  refine congrArg Host.Outcome.next ((holdoverExpiry_due station holdover deadline due).trans ?_)
  rw [none]
  exact (enterSource_free s).trans (reportSource_same (by rw [holdover]; rfl))

/-- At the holdover deadline with a candidate the chosen one is followed (R30, R31). -/
theorem exec_holdoverExpiry_peer {s : State} {d : Nat} {e : PeerEntry} (station : s.startup.station ≠ .fault)
    (holdover : s.time.source = .holdover) (deadline : s.time.holdoverDeadline = some d) (due : d ≤ s.now)
    (chosen : s.Chosen e) : exec .holdoverExpiry s = .next (s.follow e) := by
  obtain ⟨x, choice, number, -⟩ := peerChoice_chosen chosen
  refine congrArg Host.Outcome.next ((holdoverExpiry_due station holdover deadline due).trans ?_)
  rw [choice]
  exact congrArg (fun n => (s.inSource .peer (some n)).reportSource s.time.source) number

/-! ### Considering peers, and the loss of the followed one (R31, R33) -/

/-- A state entered by following a peer: the record closes where FREE is left, and only there (R37, R40). -/
def State.Follows (s t : State) (e : PeerEntry) : Prop :=
  ((s.time.source = .peer ∨ s.live = false) → t = s.inSource .peer (some e.station)) ∧
  (s.time.source = .free → s.live = true → t = (s.inSource .peer (some e.station)).closeBreach .timeDegraded
    (s.inSource .peer (some e.station)).nowStamp none false)

theorem follow_follows {s : State} {x e : PeerEntry} (number : x.station = e.station) : s.Follows (s.follow x) e := by
  have same : s.follow x = s.follow e := by rw [follow_eq, follow_eq, number]
  obtain ⟨plain, closes⟩ := follow_spec s e
  rw [same]
  exact ⟨plain, fun free => closes (by rw [free]; rfl)⟩

theorem considerPeers_other {s : State} (other : s.time.source = .locked ∨ s.time.source = .holdover) :
    s.considerPeers = s := by
  unfold State.considerPeers
  rcases other with locked | holdover
  · rw [locked]
  · rw [holdover]

theorem considerPeers_none {s : State} (none : s.peerChoice = .none) : s.considerPeers = s := by
  unfold State.considerPeers
  rw [none]
  split
  · next some => exact nomatch some
  · next some => exact nomatch some
  · rfl

theorem considerPeers_free {s : State} {x : PeerEntry} (free : s.time.source = .free) (choice : s.peerChoice = some x) :
    s.considerPeers = s.follow x := by
  unfold State.considerPeers
  rw [free, choice]

theorem considerPeers_peer {s : State} {x : PeerEntry} (peer : s.time.source = .peer) (choice : s.peerChoice = some x) :
    s.considerPeers = if x.classNumber < s.followedClass then s.follow x else s := by
  unfold State.considerPeers
  rw [peer, choice]

/-- A candidate is better than the followed peer when its class is below the followed peer's last one, where there is one; a
followed peer that is gone, or whose class is absent, counts above every candidate (R31). -/
theorem followedClass_iff {s : State} {e : PeerEntry} (candidate : s.Candidate e) :
    (∀ f x, s.time.followed = some f → s.peer? f = some x → ∀ p q, e.status = some p → x.status = some q →
      p.timeClass.number < q.timeClass.number) ↔ e.classNumber < s.followedClass := by
  obtain ⟨-, -, -, p, status, cls⟩ := candidate
  have low : e.classNumber ≤ 2 := (classNumber_le_two_iff e).mpr ⟨p, status, cls⟩
  have absent : e.classNumber < 5 := by omega
  unfold State.followedClass
  constructor
  · intro better
    split
    · exact absent
    · next x found =>
      obtain ⟨f, followed, known⟩ := Option.bind_eq_some_iff.mp found
      cases last : x.status with
      | none => simpa [PeerEntry.classNumber, last] using absent
      | some q =>
        rw [classNumber_eq status, classNumber_eq last]
        exact better f x followed known p q status last
  · intro lower f x followed known p' q status' last
    rw [followed, Option.bind_some, known, classNumber_eq status'] at lower
    exact (classNumber_eq last) ▸ lower

theorem loseFollowed_other {s : State} {station : Byte}
    (other : ¬ (s.time.source = .peer ∧ s.time.followed = some station)) : s.loseFollowed station = s := if_neg other

theorem loseFollowed_peer {s : State} {station : Byte} {x : PeerEntry} (peer : s.time.source = .peer)
    (followed : s.time.followed = some station) (choice : s.peerChoice = some x) :
    s.loseFollowed station = s.follow x := by
  refine (if_pos ⟨peer, followed⟩).trans ?_
  rw [choice]

/-- The followed peer lost without a candidate: the state is FREE, with its record where records are made (R33, R37, R40). -/
theorem loseFollowed_free {s : State} {station : Byte} (peer : s.time.source = .peer)
    (followed : s.time.followed = some station) (none : s.peerChoice = .none) :
    (s.live = false → s.loseFollowed station = s.inSource .free .none) ∧
    (s.live = true → s.loseFollowed station = (s.inSource .free .none).raise
      { category := .timeDegraded, startStamp := (s.inSource .free .none).nowStamp }) := by
  have lost : s.loseFollowed station = (s.inSource .free .none).reportSource s.time.source := by
    refine (if_pos ⟨peer, followed⟩).trans ?_
    rw [none]
    exact enterSource_free s
  rw [lost, peer]
  exact ⟨fun quiet => reportSource_quiet (s := s.inSource _ _) quiet _, fun live => reportSource_opens live rfl rfl⟩

/-! ### The statement's parts -/

/-- The reference silence while records are made: HOLDOVER, and a TIME_DEGRADED record (R29, R37). -/
theorem referenceSilence_live {s : State} {d : Nat} (live : s.live = true) (locked : s.time.source = .locked)
    (silence : s.time.silenceDeadline = some d) (due : d ≤ s.now) :
    ∃ t, exec .referenceSilenceExpiry s = .next t ∧ t.time = s.heldOver.time ∧
      t = (s.setTime t.time).raise { category := .timeDegraded, startStamp := t.nowStamp } := by
  have kept := raise_keeps s.heldOver { category := .timeDegraded, startStamp := s.heldOver.nowStamp }
  refine ⟨_, (exec_referenceSilenceExpiry (not_fault_of_live live) locked silence due).trans
    (congrArg Host.Outcome.next (reportSource_opens live rfl rfl)), kept.time, ?_⟩
  rw [kept.time, kept.nowStamp]
  rfl

/-- The holdover deadline while records are made and a candidate is heard: PEER, and TIME_DEGRADED closes (R30, R37). -/
theorem holdover_live {s : State} {d : Nat} {e : PeerEntry} (live : s.live = true) (holdover : s.time.source = .holdover)
    (deadline : s.time.holdoverDeadline = some d) (due : d ≤ s.now) (chosen : s.Chosen e) :
    ∃ t, exec .holdoverExpiry s = .next t ∧ t.time = (s.inSource .peer (some e.station)).time ∧
      t = (s.setTime t.time).closeBreach .timeDegraded t.nowStamp none false := by
  have followed := (follow_spec s e).2 (by rw [holdover]; rfl) live
  have kept := closeBreach_keeps (s.inSource .peer (some e.station)) .timeDegraded
    (s.inSource .peer (some e.station)).nowStamp none false
  refine ⟨_, (exec_holdoverExpiry_peer (not_fault_of_live live) holdover deadline due chosen).trans
    (congrArg Host.Outcome.next followed), kept.time, ?_⟩
  rw [kept.time, kept.nowStamp]
  rfl

/-- Settles O42: the deadlines while records are made, those in CHECKING, and the peer choices. -/
theorem timeDeadlines : Obligations.TimeDeadlines := by
  refine ⟨fun s => ⟨rfl, fun d live locked silence due => referenceSilence_live live locked silence due,
    fun d silence early => exec_referenceSilenceExpiry_early silence early, fun d live holdover deadline due => ?deadline⟩,
    fun s checking => ?checking, fun s station => ?choice⟩
  case deadline =>
    intro candidate
    refine ⟨fun none => exec_holdoverExpiry_free (not_fault_of_live live) holdover deadline due (peerChoice_none none),
      fun e p here status first => holdover_live live holdover deadline due ⟨here, fun x p' q there status' other => ?_⟩⟩
    cases status.symm.trans status'
    exact first x q there other
  case checking =>
    have running : s.startup.station ≠ .fault := by rw [checking]; exact fun h => nomatch h
    have quiet : s.live = false := by unfold State.live; rw [checking]
    refine ⟨fun d locked silence due => ?_, fun d holdover deadline due nobody =>
      exec_holdoverExpiry_free running holdover deadline due (peerChoice_nil nobody)⟩
    exact (exec_referenceSilenceExpiry running locked silence due).trans
      (congrArg Host.Outcome.next (reportSource_quiet (s := s.heldOver) quiet _))
  case choice =>
    intro candidate chosen entered follows better
    refine ⟨considerPeers_other, fun none => considerPeers_none (peerChoice_none none), fun e free here => ?_,
      fun e peer here => ?_, loseFollowed_other, fun peer followed => ⟨fun e here => ?_, fun none =>
        loseFollowed_free peer followed (peerChoice_none none)⟩⟩
    all_goals
      obtain ⟨x, choice, number, cls⟩ := peerChoice_chosen here
    · rw [considerPeers_free free choice]
      exact follow_follows number
    · have better_iff : better e ↔ x.classNumber < s.followedClass := cls ▸ followedClass_iff here.1
      rw [considerPeers_peer peer choice]
      refine ⟨fun lower => ?_, fun higher => if_neg (higher ∘ better_iff.mpr)⟩
      rw [if_pos (better_iff.mp lower)]
      exact follow_follows number
    · rw [loseFollowed_peer peer followed choice]
      exact follow_follows number

end Sys2Proof.Machine
end

section
/-! PROOF. The loudness of an energy (R51): the search by halving, and its test as a logarithm's bound. Settles O44. -/

namespace Sys2Proof.Machine

/-! ### The search by halving -/

/-- What the search answers, for a test that holds below each number it holds of. -/
theorem le_greatest_iff {test : Nat → Bool} (closed : ∀ a b, a ≤ b → test b = true → test a = true) :
    ∀ (bits low k : Nat), k ≤ greatest test bits low ↔ k ≤ low ∨ (k < low + 2 ^ bits ∧ test k = true)
  | 0, low, k => by
    simp only [greatest]
    omega
  | bits + 1, low, k => by
    have double : 2 ^ (bits + 1) = 2 ^ bits + 2 ^ bits := by rw [Nat.pow_succ, Nat.mul_two]
    have positive : 0 < 2 ^ bits := Nat.two_pow_pos bits
    unfold greatest
    split
    · next holds =>
      rw [le_greatest_iff closed]
      have below : k ≤ low + 2 ^ bits → test k = true := fun h => closed k _ h holds
      grind
    · next fails =>
      rw [le_greatest_iff closed]
      have below : test k = true → k < low + 2 ^ bits := fun h =>
        Nat.lt_of_not_le fun above => fails (closed _ k above h)
      grind

/-- A figure found by halving: the greatest that its test allows, within the limits searched. -/
theorem greatest_sub_eq {atLeast : Int → Bool} {figure : Int} (allows : ∀ n, atLeast n = true ↔ n ≤ figure)
    {bits span : Nat} {low high : Int} (fits : span < 2 ^ bits) (top : (span : Int) - low = high) :
    (greatest (fun k => k ≤ span && atLeast ((k : Int) - low)) bits 0 : Int) - low = max (-low) (min high figure) := by
  have holds : ∀ k : Nat, (decide (k ≤ span) && atLeast ((k : Int) - low)) = true ↔ k ≤ span ∧ k - low ≤ figure :=
      fun k => by rw [Bool.and_eq_true, decide_eq_true_eq, allows]
  have steps : greatest (fun k => k ≤ span && atLeast ((k : Int) - low)) bits 0 = (min high figure + low).toNat :=
    eq_of_forall_le_iff fun k => by
      rw [le_greatest_iff fun a b le => by rw [holds, holds]; omega, holds]
      omega
  rw [steps]
  omega

/-! ### Powers of ten, as the integer tests state them -/

theorem tenPow_mul_le_iff {a b : Nat} (positive : 0 < b) {z : Int} (up : 0 ≤ z) :
    10 ^ z.toNat * b ≤ a ↔ (10 : ℝ) ^ z ≤ a / b := by
  have exponent : (10 : ℝ) ^ z = 10 ^ z.toNat := by
    rw [← zpow_natCast, Int.toNat_of_nonneg up]
  rw [exponent, le_div_iff₀ (Nat.cast_pos.mpr positive)]
  exact_mod_cast Iff.rfl

theorem le_mul_tenPow_iff {a b : Nat} (positive : 0 < b) {z : Int} (down : z ≤ 0) :
    b ≤ a * 10 ^ (-z).toNat ↔ (10 : ℝ) ^ z ≤ a / b := by
  have exponent : (10 : ℝ) ^ z = (10 ^ (-z).toNat)⁻¹ := by
    rw [← zpow_natCast, Int.toNat_of_nonneg (by omega), zpow_neg, inv_inv]
  rw [exponent, inv_le_iff_one_le_mul₀ (by positivity), ← mul_div_right_comm, one_le_div (Nat.cast_pos.mpr positive)]
  exact_mod_cast Iff.rfl

/-- A power of ten below a power of a number is a bound on its logarithm. -/
theorem tenPow_le_pow_iff {e : ℝ} (positive : 0 < e) (z : Int) (n : Nat) :
    (10 : ℝ) ^ z ≤ e ^ n ↔ (z : ℝ) ≤ n * Real.logb 10 e := by
  rw [← Real.logb_pow, Real.le_logb_iff_rpow_le (by norm_num) (by positivity), Real.rpow_intCast]

/-! ### The loudness (R51) -/

/-- The exact loudness of the energy num / den, in hundredths of an LU, before rounding (R51). -/
noncomputable def exactLoudness (num den : Nat) : ℝ := 100 * (-0.691 + 10 * Real.logb 10 ((num : ℝ) / (den : ℝ)))

/-- The integer test of R51 is the bound it stands for: n - 0.5 is at most the exact loudness. -/
theorem loudnessAtLeast_iff {num den : Nat} (nonzero : 0 < num) (positive : 0 < den) (n : Int) :
    loudnessAtLeast (num ^ 5000) (den ^ 5000) n = true ↔ n ≤ ⌊exactLoudness num den + 1 / 2⌋ := by
  have power : loudnessAtLeast (num ^ 5000) (den ^ 5000) n = true ↔
      (10 : ℝ) ^ (5 * n + 343) ≤ ((num : ℝ) / den) ^ 5000 := by
    have dens : 0 < den ^ 5000 := pow_pos positive _
    rw [div_pow, ← Nat.cast_pow, ← Nat.cast_pow]
    unfold loudnessAtLeast
    split
    · next up => exact decide_eq_true_iff.trans (tenPow_mul_le_iff dens up)
    · next down => exact decide_eq_true_iff.trans (le_mul_tenPow_iff dens (by omega))
  have energy : (0 : ℝ) < (num : ℝ) / den := div_pos (Nat.cast_pos.mpr nonzero) (Nat.cast_pos.mpr positive)
  rw [power, tenPow_le_pow_iff energy, Int.le_floor]
  unfold exactLoudness
  push_cast
  constructor <;> intro h <;> linarith

/-- Rounding to the nearest with ties to the greater, within the limits of the search (R51). -/
theorem loudnessOfQuotient_of_pos {num den : Nat} (nonzero : 0 < num) (positive : 0 < den) :
    loudnessOfQuotient num den = max (-20000) (min 999 ⌊exactLoudness num den + 1 / 2⌋) :=
  (if_neg (Nat.ne_of_gt nonzero)).trans
    (greatest_sub_eq (loudnessAtLeast_iff nonzero positive) (span := 20999) (by norm_num) (by norm_num))

/-- Settles O44: the search answers the greatest figure whose test holds, and the test is a bound on the logarithm. -/
theorem loudnessOfEnergy : Obligations.LoudnessOfEnergy :=
  fun _ _ positive => ⟨fun none => if_pos none, fun nonzero => loudnessOfQuotient_of_pos nonzero positive, fun _ => rfl⟩

end Sys2Proof.Machine
end

section
/-! PROOF. The samples of a sub-block (R43 to R47, R65): the filter sections, the state per channel, the energies. -/

namespace Sys2Proof.Machine

/-! ### The filter sections (R45, R46) -/

/-- Rounding to even answers a nearest multiple of 2^30, and of two equally near the even one (R45). -/
theorem roundEven_nearest (x : Int) : 2 * (roundEven x * 2 ^ 30 - x).natAbs ≤ 2 ^ 30 ∧
    (2 * (roundEven x * 2 ^ 30 - x).natAbs = 2 ^ 30 → roundEven x % 2 = 0) := by
  unfold roundEven
  dsimp only
  split
  · omega
  · split
    · omega
    · split <;> omega

/-! ### Channels (R44, R46, R65) -/

theorem perChannel_eq {α : Type} [DecidableEq α] (value : α) (channels : Nat) (l : List α) :
    perChannel value channels l = if l = [] then List.replicate channels value else l := by
  cases l <;> rfl

theorem takePosition_none {l : LoudnessUnit} (none : l.inProgress = none) (position : List Int) (stamp : Stamp) :
    l.takePosition position stamp = l := by
  unfold LoudnessUnit.takePosition
  rw [none]

theorem takePosition_some {l : LoudnessUnit} {b : SubBlockInProgress} (some : l.inProgress = some b)
    (position : List Int) (stamp : Stamp) :
    let x := measured position
    let filters := List.zipWith ChannelFilter.next (perChannel ChannelFilter.zero x.length l.filters) x
    let histories := perChannel [] x.length l.peakHistory
    l.takePosition position stamp = { l with
      filters := filters
      peakHistory := List.zipWith rememberSample histories x
      inProgress := .some { b with
        sums := List.zipWith (fun sum (f : ChannelFilter) => sum + f.weighted.natAbs ^ 2)
          (perChannel 0 x.length b.sums) filters
        peaks := List.zipWith max (perChannel 0 x.length b.peaks) (List.zipWith creditedMagnitude histories x)
        lastStamp := stamp } } := by
  unfold LoudnessUnit.takePosition
  rw [some]

/-! ### Energies (R43, R47, R48) -/

theorem subBlockEnergy_mono (n x : Nat) : subBlockEnergy n [x] = meanSquare n x := by
  change (2 ^ 30 * meanSquare n x + 0) / 2 ^ 30 = _
  omega

theorem subBlockEnergy_stereo (n x y : Nat) : subBlockEnergy n [x, y] = meanSquare n x + meanSquare n y := by
  change (2 ^ 30 * meanSquare n x + (2 ^ 30 * meanSquare n y + 0)) / 2 ^ 30 = _
  omega

/-- Five channels: the last two are the surrounds, with their weight (R43). -/
theorem subBlockEnergy_five (n v w x y z : Nat) : subBlockEnergy n [v, w, x, y, z] =
    ((meanSquare n v + meanSquare n w + meanSquare n x) * 2 ^ 30 + (meanSquare n y + meanSquare n z) * surroundWeight) /
      2 ^ 30 := by
  refine congrArg (· / 2 ^ 30) ?_
  change 2 ^ 30 * meanSquare n v + (2 ^ 30 * meanSquare n w + (2 ^ 30 * meanSquare n x +
    (surroundWeight * meanSquare n y + (surroundWeight * meanSquare n z + 0)))) = _
  ring

theorem meanEnergy_map (l : List SubBlock) :
    meanEnergy (l.map (fun x => x.energy)) = (l.map (fun x => x.energy)).sum / l.length :=
  congrArg (_ / ·) (List.length_map ..)

/-- The channel short-term figure of a list of records (R53). -/
theorem shortTermOf_eq (l : List SubBlock) : shortTermOf l =
    if l.length < 10 then none else some (loudnessOf ((l.map (fun x => x.energy)).sum / l.length)) := by
  rw [shortTermOf, meanEnergy_map]

end Sys2Proof.Machine
end

section
/-! PROOF. Records, their notices and their closing leave the unsent signatures alone (R134, R169, R170). -/

namespace Sys2Proof.Machine

/-! ### Notices -/

theorem ShelfLink.accept_unsent (l : ShelfLink) (q : QueuedNotice) : (l.accept q).unsent = l.unsent := by
  unfold ShelfLink.accept ShelfLink.replaceStatus ShelfLink.place
  split
  · rfl
  · split
    · rfl
    · split <;> rfl

theorem ShelfLink.settle_unsent (l : ShelfLink) (oldHead : Option Nat) : (l.settle oldHead).unsent = l.unsent := by
  unfold ShelfLink.settle ShelfLink.atRest
  split
  · rfl
  · split <;> rfl
  · rfl
  · rfl

@[simp] theorem offer_unsent (s : State) (n : Notice) (c : List Nat) : (s.offer n c).link.unsent = s.link.unsent := by
  unfold State.offer
  split
  · exact (ShelfLink.settle_unsent _ _).trans (ShelfLink.accept_unsent _ _)
  · rfl

@[simp] theorem upshift_unsent (s : State) : s.upshift.link.unsent = s.link.unsent := by
  unfold State.upshift
  split
  · dsimp only
    split
    · rfl
    · exact offer_unsent _ _ _
  · rfl

@[simp] theorem announce_unsent (s : State) (q : BreachRequest) (n : Notice) :
    (s.announce q n).link.unsent = s.link.unsent := by
  unfold State.announce
  dsimp only
  split <;> split <;> simp

/-! ### Holds and records -/

theorem placeHold_link (s : State) (p : Priority) (a : Nat) (b : Option Nat) (n : Option Nat) :
    (s.placeHold p a b n).1.link = s.link := by
  unfold State.placeHold
  split
  · rfl
  · dsimp only
    split
    · rfl
    · split
      · rfl
      · exact (changeRecord_link _ _ _).trans (foldl_link evictHold_link _ s)

theorem setEnd_link (s : State) (r : SlotRef) (t : Nat) : (s.setEnd r t).link = s.link := by
  unfold State.setEnd
  split <;> rfl

theorem createHoldRefused_unsent (s : State) (n : Option Nat) : (s.createHoldRefused n).link.unsent = s.link.unsent :=
  (announce_unsent _ _ _).trans (congrArg ShelfLink.unsent (enterRecord_link s _))

theorem holdForRecord_unsent (s : State) (q : BreachRequest) (n : Option Nat) :
    (s.holdForRecord q n).link.unsent = s.link.unsent := by
  unfold State.holdForRecord
  split
  · dsimp only
    split
    · exact (createHoldRefused_unsent _ _).trans (congrArg ShelfLink.unsent (placeHold_link ..))
    · exact congrArg ShelfLink.unsent (placeHold_link ..)
  · rfl

theorem raise_unsent (s : State) (q : BreachRequest) : (s.raise q).link.unsent = s.link.unsent :=
  ((announce_unsent _ _ _).trans (holdForRecord_unsent _ _ _)).trans (congrArg ShelfLink.unsent (enterRecord_link s q))

theorem closeBreach_unsent (s : State) (c : Category) (t : Stamp) (f : Option Int) (i : Bool) :
    (s.closeBreach c t f i).link.unsent = s.link.unsent := by
  unfold State.closeBreach
  split
  · rfl
  · next k _ =>
    dsimp only
    have closed : (if k.stored then s.setLog (s.log.change k.number (closeRecord t f i)) else s).link = s.link := by
      split <;> rfl
    split <;> split <;> simp [closed, setEnd_link]

end Sys2Proof.Machine
end

section
/-! PROOF. What the judgements of a completed sub-block leave alone (R49, R68 to R71, R84 to R91). -/

namespace Sys2Proof.Machine

/-- The same run of sub-blocks, figures and signatures: the contexts, the peak mark and the excess run may differ. -/
structure LoudnessUnit.SameRun (l m : LoudnessUnit) : Prop where
  eq : m = { l with
    segmentCtx := m.segmentCtx, programmeCtx := m.programmeCtx, peakRaised := m.peakRaised, excess := m.excess }

theorem LoudnessUnit.SameRun.trans {l m n : LoudnessUnit} (a : l.SameRun m) (b : m.SameRun n) : l.SameRun n :=
  ⟨by rw [b.eq, a.eq]⟩

section SameRun

variable {l m : LoudnessUnit} (same : l.SameRun m)

include same

theorem LoudnessUnit.SameRun.filters : m.filters = l.filters := (congrArg LoudnessUnit.filters same.eq :)
theorem LoudnessUnit.SameRun.peakHistory : m.peakHistory = l.peakHistory :=
  (congrArg LoudnessUnit.peakHistory same.eq :)
theorem LoudnessUnit.SameRun.inProgress : m.inProgress = l.inProgress := (congrArg LoudnessUnit.inProgress same.eq :)
theorem LoudnessUnit.SameRun.ring : m.ring = l.ring := (congrArg LoudnessUnit.ring same.eq :)
theorem LoudnessUnit.SameRun.chain : m.chain = l.chain := (congrArg LoudnessUnit.chain same.eq :)
theorem LoudnessUnit.SameRun.momentary : m.momentary = l.momentary := (congrArg LoudnessUnit.momentary same.eq :)
theorem LoudnessUnit.SameRun.shortTerm : m.shortTerm = l.shortTerm := (congrArg LoudnessUnit.shortTerm same.eq :)
theorem LoudnessUnit.SameRun.signature : m.signature = l.signature := (congrArg LoudnessUnit.signature same.eq :)
theorem LoudnessUnit.SameRun.lastSub : m.lastSub = l.lastSub := (congrArg LoudnessUnit.lastSub same.eq :)
theorem LoudnessUnit.SameRun.ownHistory : m.ownHistory = l.ownHistory := (congrArg LoudnessUnit.ownHistory same.eq :)

end SameRun

/-- What a judgement of a sub-block does besides its effect: no sub-block, figure or signature of the run changes, and
the station state and the segments stay. -/
structure KeepsRun (s t : State) : Prop where
  loudness : s.loudness.SameRun t.loudness
  unsent   : t.link.unsent = s.link.unsent
  startup  : t.startup = s.startup
  segments : t.segments = s.segments

namespace KeepsRun

variable {s t u : State}

theorem refl (s : State) : KeepsRun s s := ⟨⟨rfl⟩, rfl, rfl, rfl⟩

theorem trans (a : KeepsRun s t) (b : KeepsRun t u) : KeepsRun s u :=
  ⟨a.loudness.trans b.loudness, b.unsent.trans a.unsent, b.startup.trans a.startup, b.segments.trans a.segments⟩

/-- An operation that keeps the measuring blocks, and the unsent signatures. -/
theorem of (h : KeepsMeasured s t) (unsent : t.link.unsent = s.link.unsent) : KeepsRun s t :=
  ⟨⟨by rw [h.loudness]⟩, unsent, h.startup, h.segments⟩

theorem setCaptions (h : KeepsRun s t) (x : CaptionChecker) : KeepsRun s (t.setCaptions x) :=
  ⟨h.loudness, h.unsent, h.startup, h.segments⟩

theorem setLoudness (h : KeepsRun s t) {x : LoudnessUnit} (same : t.loudness.SameRun x) :
    KeepsRun s (t.setLoudness x) :=
  ⟨h.loudness.trans same, h.unsent, h.startup, h.segments⟩

end KeepsRun

open KeepsRun

theorem raise_run (s : State) (q : BreachRequest) : KeepsRun s (s.raise q) := of (raise_keeps s q) (raise_unsent s q)

theorem closeBreach_run (s : State) (c : Category) (t : Stamp) (f : Option Int) (i : Bool) :
    KeepsRun s (s.closeBreach c t f i) := of (closeBreach_keeps s c t f i) (closeBreach_unsent s c t f i)

/-! ### Peak and short-term excess (R68 to R71) -/

theorem judgePeak_run (s : State) (r : SubBlock) (p : List Nat) :
    KeepsRun s (s.judgePeak r p) ∧ (s.judgePeak r p).captions = s.captions := by
  unfold State.judgePeak
  dsimp only
  split
  · exact ⟨((refl s).setLoudness ⟨rfl⟩).trans (raise_run _ _), (raise_keeps _ _).captions⟩
  · exact ⟨refl s, rfl⟩

theorem closeExcess_run (s : State) (t : Stamp) :
    KeepsRun s (s.closeExcess t) ∧ (s.closeExcess t).captions = s.captions := by
  unfold State.closeExcess
  split
  · exact ⟨((refl s).setLoudness ⟨rfl⟩).trans (closeBreach_run _ _ _ _ _), (closeBreach_keeps _ _ _ _ _).captions⟩
  · exact ⟨refl s, rfl⟩

theorem openExcess_run (s : State) : KeepsRun s s.openExcess ∧ s.openExcess.captions = s.captions := by
  unfold State.openExcess
  split
  · exact ⟨refl s, rfl⟩
  · split
    · exact ⟨((refl s).setLoudness ⟨rfl⟩).trans (raise_run _ _), (raise_keeps _ _).captions⟩
    · exact ⟨refl s, rfl⟩

theorem stepExcess_run (s : State) (r : SubBlock) :
    KeepsRun s (s.stepExcess r) ∧ (s.stepExcess r).captions = s.captions := by
  unfold State.stepExcess
  dsimp only
  split
  · split
    · exact ⟨refl s, rfl⟩
    · split
      · exact ⟨((refl s).setLoudness ⟨rfl⟩).trans (openExcess_run _).1, (openExcess_run _).2⟩
      · exact ⟨(closeExcess_run s _).1.setLoudness ⟨rfl⟩, (closeExcess_run s _).2⟩
  · exact ⟨refl s, rfl⟩

/-! ### Captions (R84 to R91) -/

theorem closeAbsent_run (s : State) (t : Stamp) : KeepsRun s (s.closeAbsent t) := by
  unfold State.closeAbsent
  split
  · exact ((refl s).setCaptions _).trans (closeBreach_run _ _ _ _ _)
  · exact refl s

theorem closeStuck_run (s : State) (t : Stamp) : KeepsRun s (s.closeStuck t) := by
  unfold State.closeStuck
  split
  · exact ((refl s).setCaptions _).trans (closeBreach_run _ _ _ _ _)
  · exact refl s

theorem openAbsent_run (s : State) (r : CheckingRecord) : KeepsRun s (s.openAbsent r) := by
  unfold State.openAbsent
  split
  · exact refl s
  · split
    · exact ((refl s).setCaptions _).trans (raise_run _ _)
    · exact refl s

theorem openStuck_run (s : State) (r : CheckingRecord) : KeepsRun s (s.openStuck r) := by
  unfold State.openStuck
  split
  · exact refl s
  · split
    · exact ((refl s).setCaptions _).trans (raise_run _ _)
    · exact refl s

theorem gapStep_run (s : State) (r : CheckingRecord) (j : Judgement) (i : Option CaptionIdentity) :
    KeepsRun s (s.gapStep r j i) := by
  unfold State.gapStep
  dsimp only
  split
  · exact (closeAbsent_run s _).setCaptions _
  · split
    · exact ((refl s).setCaptions _).trans (openAbsent_run _ _)
    · exact refl s

theorem stuckStep_run (s : State) (r : CheckingRecord) (j : Judgement) (i : Option CaptionIdentity) :
    KeepsRun s (s.stuckStep r j i) := by
  unfold State.stuckStep
  dsimp only
  split
  · exact (closeStuck_run s _).setCaptions _
  · split
    · exact ((refl s).setCaptions _).trans (openStuck_run _ _)
    · exact refl s

theorem judgeCaptions_run (s : State) (j : Judgement) : KeepsRun s (s.judgeCaptions j) := by
  unfold State.judgeCaptions State.captionSteps
  dsimp only
  have paired := (refl s).setCaptions (s.captions.showPair (shownIdentity s.captions.timeline (probeTime j.start)))
  split
  · exact paired
  · split
    · exact (((paired.setCaptions _).trans (gapStep_run _ _ _ _)).trans (stuckStep_run _ _ _ _)).setCaptions _
    · exact paired

end Sys2Proof.Machine
end

section
/-! PROOF. The signature of a media second (R56 to R58, R134). -/

namespace Sys2Proof.Machine

/-! ### Lists -/

theorem changeAt_const {α : Type} (x : α) : ∀ (n : Nat) (l : List α), changeAt (fun _ => x) n l = l.set n x
  | n, [] => by cases n <;> rfl
  | 0, _ :: _ => rfl
  | n + 1, y :: ys => congrArg (y :: ·) (changeAt_const x n ys)

theorem map_newest {α β : Type} (f : α → β) (n : Nat) (l : List α) : (newest n l).map f = newest n (l.map f) := by
  rw [newest, newest, List.map_drop, List.length_map]

/-! ### Accumulating (R56, R57) -/

/-- The accumulator a sub-block of a media second joins: that in progress, or a fresh one (R56). -/
def LoudnessUnit.accumulatorFor (l : LoudnessUnit) (second : MediaTime) : SignatureAccumulator :=
  match l.signature with
  | none => .ofSecond second
  | some a => if a.second = second then a else .ofSecond second

theorem accumulatorFor_second (l : LoudnessUnit) (second : MediaTime) : (l.accumulatorFor second).second = second := by
  unfold LoudnessUnit.accumulatorFor
  split
  · rfl
  · split
    · assumption
    · rfl

/-- The position of a sub-block within its media second (R56). -/
theorem position_eq (start : MediaTime) :
    (start.toNat - (mediaSecondOf start).toNat) / 4800 = start.toNat % 48000 / 4800 := by
  have small : start.toNat / 48000 * 48000 < 2 ^ 40 := by omega
  rw [mediaSecondOf, BitVec.toNat_ofNat, Nat.mod_eq_of_lt small]
  omega

/-- The accumulator with a sub-block at its position (R56, R57). -/
def LoudnessUnit.accumulated (l : LoudnessUnit) (r : SubBlock) : SignatureAccumulator :=
  ⟨mediaSecondOf r.start,
    (l.accumulatorFor (mediaSecondOf r.start)).positions.set (r.start.toNat % 48000 / 4800)
      (some (r.loudness, trendRises l.lastSub r)),
    (l.accumulatorFor (mediaSecondOf r.start)).impaired || r.impaired⟩

theorem accumulate_eq (l : LoudnessUnit) (r : SubBlock) : l.accumulate r =
    { l with signature := some (l.accumulated r), lastSub := some (r.start, r.loudness) } := by
  unfold LoudnessUnit.accumulated
  rw [← changeAt_const, ← position_eq]
  change { l with signature := some ⟨(l.accumulatorFor (mediaSecondOf r.start)).second, _, _⟩, lastSub := _ } = _
  rw [accumulatorFor_second]
  rfl

theorem trendRises_eq (last : Option (MediaTime × Int)) (r : SubBlock) : trendRises last r = last.any (fun x =>
    decide (x.1 + BitVec.ofNat 40 (min 4800 (2 ^ 40 - x.1.toNat)) = r.start ∧ x.2 + 50 ≤ r.loudness)) := by
  cases last with
  | none => rfl
  | some x => exact (Bool.decide_and _ _).symm

/-! ### Forming (R57) -/

theorem testBit_trendBits : ∀ (k : Nat) (l : List (Option (Int × Bool))),
    (trendBits l).testBit k = true ↔ ∃ x, l[k]? = some (some (x, true))
  | _, [] => by simp [trendBits]
  | 0, p :: l => by
    rcases p with _ | ⟨x, _ | _⟩ <;> simp [trendBits]
  | k + 1, p :: l => by
    have rest : trendBits (p :: l) / 2 = trendBits l := by
      rw [trendBits]
      split <;> omega
    rw [Nat.testBit_succ, rest, testBit_trendBits k l, List.getElem?_cons_succ]

theorem form_trend (a : SignatureAccumulator) (figure : Option Int) (last : Stamp) {k : Nat} (low : k < 10) :
    (a.form figure last).trend.getLsbD k = true ↔ ∃ x, a.positions[k]? = some (some (x, true)) := by
  rw [← testBit_trendBits, SignatureAccumulator.form, BitVec.getLsbD_ofNat, decide_eq_true low, Bool.true_and]

/-- The level is the nearest whole LU, a half to the greater, within its limits (R57). -/
theorem levelOf_some (x : Int) :
    ∃ n : Int, 100 * n - 50 ≤ x ∧ x < 100 * n + 50 ∧ levelOf (some x) = max (-70) (min 10 n) :=
  ⟨(x + 50) / 100, by omega, by omega, by
    unfold levelOf
    dsimp only
    omega⟩

/-! ### Placing and offering (R58, R134) -/

theorem placeOwn_same {g last : Signature} (same : last.second = g.second) (older : List Signature) :
    placeOwn g (older ++ [last]) = older ++ [g] := by
  simp [placeOwn, same]

theorem placeOwn_newer {g : Signature} {history : List Signature}
    (newer : ∀ last, history.getLast? = some last → last.second ≠ g.second) :
    placeOwn g history = newest 16 (history ++ [g]) := by
  unfold placeOwn
  split
  · next none =>
    rw [List.getLast?_eq_none_iff.mp none]
    rfl
  · next last some => exact if_neg (newer last some)

theorem offerSignature_signatures (s : State) (g : Signature) :
    (s.offerSignature g).link.unsent.map (fun e => e.signature) =
      newest 8 ((s.link.unsent.map (fun e => e.signature)).filter (fun x => x.second != g.second) ++ [g]) := by
  rw [List.filter_map]
  exact (map_newest _ _ _).trans (congrArg (newest 8) (List.map_append ..))

theorem formSignature_some {s : State} {a : SignatureAccumulator} (some : s.loudness.signature = some a)
    (last : Stamp) : s.formSignature last = (s.setLoudness { s.loudness with
      signature := none
      ownHistory := placeOwn (a.form s.loudness.shortTerm last) s.loudness.ownHistory }).offerSignature
        (a.form s.loudness.shortTerm last) := by
  unfold State.formSignature
  rw [some]

end Sys2Proof.Machine
end

section
/-! PROOF. The completed sub-block (R47 to R58): its record, figures and signature. Settles O11. -/

namespace Sys2Proof.Machine

/-! ### The figures (R50, R52, R53) -/

/-- The momentary figure behind a block chain: that of a full chain's block, else the one held (R50, R52). -/
def LoudnessUnit.momentaryBehind (l : LoudnessUnit) (chain : List SubBlock) : Option Int :=
  if chain.length = 4 then some (loudnessOf ((chain.map (fun x => x.energy)).sum / chain.length)) else l.momentary

/-- The Loudness Unit with a record in ring and chain and its two figures, the contexts and breaches as they were. -/
def LoudnessUnit.figured (l : LoudnessUnit) (r : SubBlock) : LoudnessUnit :=
  { l.take r with momentary := l.momentaryBehind (l.take r).chain, shortTerm := shortTermOf (l.take r).ring }

theorem formBlock_sameRun (l : LoudnessUnit) :
    LoudnessUnit.SameRun { l with momentary := l.momentaryBehind l.chain } l.formBlock := by
  unfold LoudnessUnit.formBlock LoudnessUnit.momentaryBehind blockEnergy
  by_cases full : l.chain.length = 4
  · rw [if_pos full, if_pos full, ← meanEnergy_map]
    exact ⟨rfl⟩
  · rw [if_neg full, if_neg full]
    exact ⟨rfl⟩

theorem formShortTerm_sameRun {l m : LoudnessUnit} (same : l.SameRun m) (o : Opening) :
    LoudnessUnit.SameRun { l with shortTerm := shortTermOf l.ring } (m.formShortTerm o) := by
  rw [same.eq]
  exact ⟨rfl⟩

/-! ### The judgements of a completion (R49) -/

/-- The state behind the block and PEAK_EXCESS (R50, R52, R66, R68). -/
def State.peaked (s : State) (r : SubBlock) (peaks : List Nat) : State :=
  (s.setLoudness (((s.loudness.take r).formBlock).creditPeaks r.opening peaks)).judgePeak r peaks

/-- The state behind the short-term figures and the excess run (R53, R54, R70). -/
def State.figured (s : State) (r : SubBlock) (peaks : List Nat) : State :=
  ((s.peaked r peaks).setLoudness ((s.peaked r peaks).loudness.formShortTerm r.opening)).stepExcess r

/-- The state behind sound present and the captions (R55, R84). -/
def State.heard (s : State) (r : SubBlock) (peaks : List Nat) : State :=
  (s.figured r peaks).judgeCaptions ⟨r.start, (shortTermOf (s.loudness.take r).ring).any
    (fun x => s.config.soundThreshold ≤ x), r.impaired, r.lastStamp⟩

theorem peaked_run (s : State) (r : SubBlock) (peaks : List Nat) :
    KeepsRun (s.setLoudness { s.loudness.take r with
        momentary := s.loudness.momentaryBehind (s.loudness.take r).chain })
      (s.peaked r peaks) ∧ (s.peaked r peaks).captions = s.captions := by
  obtain ⟨run, captions⟩ := judgePeak_run (s.setLoudness (((s.loudness.take r).formBlock).creditPeaks r.opening peaks))
    r peaks
  have credited := (formBlock_sameRun (s.loudness.take r)).trans
    (n := (s.loudness.take r).formBlock.creditPeaks r.opening peaks) ⟨rfl⟩
  exact ⟨((KeepsRun.refl _).setLoudness credited).trans run, captions⟩

theorem figured_run (s : State) (r : SubBlock) (peaks : List Nat) :
    KeepsRun (s.setLoudness (s.loudness.figured r)) (s.figured r peaks) ∧
      (s.figured r peaks).captions = s.captions := by
  obtain ⟨peaked, unchanged⟩ := peaked_run s r peaks
  obtain ⟨run, captions⟩ := stepExcess_run
    ((s.peaked r peaks).setLoudness ((s.peaked r peaks).loudness.formShortTerm r.opening)) r
  have formed : KeepsRun (s.setLoudness (s.loudness.figured r))
      ((s.peaked r peaks).setLoudness ((s.peaked r peaks).loudness.formShortTerm r.opening)) :=
    ⟨formShortTerm_sameRun peaked.loudness r.opening, peaked.unsent, peaked.startup, peaked.segments⟩
  exact ⟨formed.trans run, captions.trans unchanged⟩

theorem heard_run (s : State) (r : SubBlock) (peaks : List Nat) :
    KeepsRun (s.setLoudness (s.loudness.figured r)) (s.heard r peaks) :=
  (figured_run s r peaks).1.trans (judgeCaptions_run _ _)

theorem figured_shortTerm (s : State) (r : SubBlock) (peaks : List Nat) :
    (s.figured r peaks).loudness.shortTerm = shortTermOf (s.loudness.take r).ring :=
  (figured_run s r peaks).1.loudness.shortTerm

theorem accumulate_sameRun {l m : LoudnessUnit} (same : l.SameRun m) (r : SubBlock) :
    (l.accumulate r).SameRun (m.accumulate r) := by
  rw [same.eq]
  exact ⟨rfl⟩

/-- The state behind the accumulator of the media second (R56). -/
def State.assigned (s : State) (r : SubBlock) (peaks : List Nat) : State :=
  (s.heard r peaks).setLoudness ((s.heard r peaks).loudness.accumulate r)

theorem completeSubBlock_eq (s : State) (b : SubBlockInProgress) (impaired : Bool) (g : MediaTime) :
    s.completeSubBlock b impaired g =
      if isMediaSecond g then (s.assigned (b.record impaired) b.peaks).formSignature b.lastStamp
      else s.assigned (b.record impaired) b.peaks := by
  unfold State.assigned State.heard
  rw [← figured_shortTerm s (b.record impaired) b.peaks]
  rfl

theorem assigned_loudness (s : State) (r : SubBlock) (peaks : List Nat) :
    LoudnessUnit.SameRun
      { s.loudness.figured r with signature := some (s.loudness.accumulated r), lastSub := some (r.start, r.loudness) }
      (s.assigned r peaks).loudness := by
  have same := accumulate_sameRun (heard_run s r peaks).loudness r
  rw [State.setLoudness_loudness, accumulate_eq] at same
  exact same

/-! ### The completed sub-block -/

/-- Within a media second the accumulator stays (R56). -/
theorem completeSubBlock_within {g : MediaTime} (within : isMediaSecond g = false) (s : State) (b : SubBlockInProgress)
    (impaired : Bool) : s.completeSubBlock b impaired g = s.assigned (b.record impaired) b.peaks := by
  rw [completeSubBlock_eq, within]
  rfl

/-- The signature of the media second that ends with a sub-block (R56, R57). -/
def State.signatureBehind (s : State) (r : SubBlock) : Signature :=
  (s.loudness.accumulated r).form (s.loudness.figured r).shortTerm r.lastStamp

/-- At the end of a media second its signature is formed, placed and offered (R56, R58, R134). -/
theorem completeSubBlock_second {g : MediaTime} (ends : isMediaSecond g = true) (s : State) (b : SubBlockInProgress)
    (impaired : Bool) :
    let r := b.record impaired
    let assigned := s.assigned r b.peaks
    s.completeSubBlock b impaired g = (assigned.setLoudness { assigned.loudness with
      signature := none
      ownHistory := placeOwn (s.signatureBehind r) s.loudness.ownHistory }).offerSignature (s.signatureBehind r) := by
  have same := assigned_loudness s (b.record impaired) b.peaks
  have formed := formSignature_some same.signature b.lastStamp
  rw [same.shortTerm, same.ownHistory] at formed
  rw [completeSubBlock_eq, ends]
  exact formed

/-- What every completion leaves of the Loudness Unit, but for signature and own history (R47 to R53). -/
theorem completeSubBlock_loudness (s : State) (b : SubBlockInProgress) (impaired : Bool) (g : MediaTime) :
    let r := b.record impaired
    ∃ signature own, LoudnessUnit.SameRun
      { s.loudness.figured r with
        signature := signature, lastSub := some (r.start, r.loudness), ownHistory := own }
      (s.completeSubBlock b impaired g).loudness := by
  have same := assigned_loudness s (b.record impaired) b.peaks
  cases ends : isMediaSecond g with
  | false =>
    rw [completeSubBlock_within ends]
    exact ⟨_, _, same⟩
  | true =>
    rw [completeSubBlock_second ends]
    refine ⟨none, placeOwn (s.signatureBehind (b.record impaired)) s.loudness.ownHistory, ?_⟩
    dsimp only [State.offerSignature, State.setLink_loudness, State.setLoudness_loudness]
    rw [same.eq]
    exact ⟨rfl⟩

theorem completeSubBlock_captions (s : State) (b : SubBlockInProgress) (impaired : Bool) (g : MediaTime) :
    (s.completeSubBlock b impaired g).captions = (s.heard (b.record impaired) b.peaks).captions := by
  cases ends : isMediaSecond g with
  | false => rw [completeSubBlock_within ends, State.assigned, State.setLoudness_captions]
  | true =>
    rw [completeSubBlock_second ends]
    simp only [State.offerSignature, State.assigned, State.setLink_captions, State.setLoudness_captions]

theorem assigned_unsent (s : State) (r : SubBlock) (peaks : List Nat) :
    (s.assigned r peaks).link.unsent = s.link.unsent := (heard_run s r peaks).unsent

theorem isMediaSecond_iff (g : MediaTime) : isMediaSecond g = true ↔ g.toNat % 48000 = 0 := beq_iff_eq

/-- The own history behind the end of a media second (R58). -/
theorem completeSubBlock_ownHistory {g : MediaTime} (ends : isMediaSecond g = true) (s : State) (b : SubBlockInProgress)
    (impaired : Bool) : (s.completeSubBlock b impaired g).loudness.ownHistory =
      placeOwn (s.signatureBehind (b.record impaired)) s.loudness.ownHistory :=
  congrArg (fun t => t.loudness.ownHistory) (completeSubBlock_second ends s b impaired)

/-- The unsent signatures behind the end of a media second (R134). -/
theorem completeSubBlock_signatures {g : MediaTime} (ends : isMediaSecond g = true) (s : State) (b : SubBlockInProgress)
    (impaired : Bool) :
    let signature := s.signatureBehind (b.record impaired)
    (s.completeSubBlock b impaired g).link.unsent.map (fun e => e.signature) = newest 8
      ((s.link.unsent.map (fun e => e.signature)).filter (fun x => x.second != signature.second) ++ [signature]) := by
  rw [completeSubBlock_second ends, offerSignature_signatures, State.setLoudness_link, assigned_unsent]

theorem endSubBlock_none {s : State} (none : s.loudness.inProgress = none) (mark : Bool) (g : MediaTime) :
    s.endSubBlock mark g = s := by
  unfold State.endSubBlock
  rw [none]

theorem endSubBlock_some {s : State} {b : SubBlockInProgress} (some : s.loudness.inProgress = some b) (mark : Bool)
    (g : MediaTime) : s.endSubBlock mark g = (s.setSegments (s.segments.gather mark)).completeSubBlock b mark g := by
  unfold State.endSubBlock
  rw [some]

/-- Settles O11: the samples, the filter sections and the energies by their own equations; a completion by what its
judgements leave alone, and its signature by that of the accumulator. -/
theorem subBlockMeasures : Obligations.SubBlockMeasures := by
  refine ⟨fun l position stamp => ⟨fun none => takePosition_none none position stamp, fun b some => ?sample⟩,
    fun f sample => ⟨⟨rfl, rfl, rfl, roundEven_nearest _⟩, ⟨rfl, rfl, rfl, roundEven_nearest _⟩⟩, ?coefficients,
    fun b impaired => ⟨rfl, fun x sums => ?mono, fun x y sums => ?stereo, fun v w x y z sums => ?five⟩, fun l => rfl,
    fun s mark g => ⟨fun none => endSubBlock_none none mark g, fun b some => endSubBlock_some some mark g⟩,
    fun l start opening stamp => rfl, ?completed⟩
  case sample =>
    rw [takePosition_some some, perChannel_eq, perChannel_eq, perChannel_eq, perChannel_eq]
    exact ⟨rfl, rfl, rfl, rfl⟩
  case coefficients => decide
  case mono => exact (congrArg (subBlockEnergy _) sums).trans (subBlockEnergy_mono _ _)
  case stereo => exact (congrArg (subBlockEnergy _) sums).trans (subBlockEnergy_stereo _ _ _)
  case five => exact (congrArg (subBlockEnergy _) sums).trans (subBlockEnergy_five _ _ _ _ _ _)
  case completed =>
    intro s b impaired g t r ring chain mean figure second fresh held rises positions
    obtain ⟨signature, own, same⟩ := completeSubBlock_loudness s b impaired g
    have shortTerm : shortTermOf ring = figure := shortTermOf_eq ring
    have accumulated : s.loudness.accumulated r = ⟨second, positions, held.impaired || impaired⟩ := by
      unfold LoudnessUnit.accumulated
      rw [trendRises_eq]
      rfl
    refine ⟨same.ring, same.chain, same.shortTerm.trans shortTerm,
      fun short => same.momentary.trans (if_neg (Nat.ne_of_lt short)), fun full => same.momentary.trans (if_pos full),
      same.lastSub, same.inProgress, same.filters, same.peakHistory,
      ⟨s.figured r b.peaks, ?captions⟩, fun inside => ?within, fun multiple => ?second⟩
    case captions =>
      obtain ⟨run, captions⟩ := figured_run s r b.peaks
      exact ⟨captions, run.startup, run.segments, shortTerm ▸ completeSubBlock_captions s b impaired g⟩
    case within =>
      have goesOn : isMediaSecond g = false := Bool.eq_false_iff.mpr ((isMediaSecond_iff g).not.mpr inside)
      have assigned := assigned_loudness s r b.peaks
      rw [← accumulated, show t = s.assigned r b.peaks from completeSubBlock_within goesOn s b impaired]
      exact ⟨assigned.signature, assigned.ownHistory, assigned_unsent _ _ _⟩
    case second =>
      have ends : isMediaSecond g = true := (isMediaSecond_iff g).mpr multiple
      have history := completeSubBlock_ownHistory ends s b impaired
      have formed : s.signatureBehind r =
          SignatureAccumulator.form ⟨second, positions, held.impaired || impaired⟩ figure b.lastStamp := by
        rw [← accumulated, ← shortTerm]
        rfl
      refine ⟨congrArg (fun t => t.loudness.signature) (completeSubBlock_second ends s b impaired), s.signatureBehind r,
        rfl, ?trend, ?none, ?level, ?impaired, fun older last is same => ?replaced, fun newer => ?added,
        completeSubBlock_signatures ends s b impaired⟩
      case trend => exact fun k low => formed ▸ form_trend _ _ _ low
      case none => exact fun none => formed ▸ congrArg levelOf none
      case level =>
        intro x some
        obtain ⟨n, above, below, level⟩ := levelOf_some x
        exact ⟨n, above, below, formed ▸ (congrArg levelOf some).trans level⟩
      case impaired => exact formed ▸ rfl
      case replaced => exact history.trans (is ▸ placeOwn_same same older)
      case added => exact history.trans (placeOwn_newer newer)

end Sys2Proof.Machine
end

section
/-! PROOF. CONFIG_LOADED with a bad sum or an invalid station number (R189, R190), and what each field of the working copy
takes from the record (R188). Settles O10. -/

namespace Sys2Proof.Machine

/-! ### A faulty record (R189) -/

theorem recordBytes_of_length {bytes : List Byte} (length : bytes.length = 128) : recordBytes bytes = bytes :=
  List.take_left' length

theorem stationNumberOk_iff (n : Nat) : stationNumberOk n = true ↔ 1 ≤ n ∧ n ≤ 16 := by
  unfold stationNumberOk
  rw [Bool.and_eq_true, decide_eq_true_eq, decide_eq_true_eq]

/-- The Start-up Controller behind a record with a bad sum or an invalid station number (R189; log 47). -/
theorem configure_faulty (u : Startup) {record : List Byte}
    (faulty : sumGood record = true → stationNumberOk (byteAt record 0).toNat = false) :
    u.configure record = { u with
      listenOnlyMark := true
      config := if sumGood record then { clampConfig (readConfig record) with stationNumber := 0 } else builtInDefaults
      configClamped := if sumGood record then clampConfig (readConfig record) != readConfig record else u.configClamped
      defaultsInUse := u.defaultsInUse || !sumGood record } := by
  unfold Startup.configure
  cases sum : sumGood record with
  | true =>
    have invalid : stationNumberOk (readConfig record).stationNumber = false := faulty sum
    simp [invalid]
  | false => simp

theorem configure_station (u : Startup) (record : List Byte) : (u.configure record).station = u.station := by
  unfold Startup.configure
  split <;> rfl

/-- Before LISTENING a record offers no notice and is no upshift event (R138, R141). -/
theorem raise_link_of_not_running {q : BreachRequest} (plain : q.category.retains = false) {s : State}
    (still : s.startup.station ≠ .running) : (s.raise q).link = s.link := by
  have entered : (s.enterRecord q).1.startup.station ≠ .running := (enterRecord_keeps s q).startup ▸ still
  have offered : ∀ n, (s.enterRecord q).1.offer n [] = (s.enterRecord q).1 := fun n => if_neg fun h => entered h.1
  have upshifted : (s.enterRecord q).1.upshift = (s.enterRecord q).1 := if_neg entered
  rw [raise_plain plain, ← enterRecord_link s q]
  unfold State.announce
  rw [offered, ite_self]
  cases q.origin with
  | own => exact congrArg State.link upshifted
  | peer station number => rfl

/-- A memory that does not answer gives a bad sum (R188). -/
theorem sumGood_unanswered : sumGood (List.replicate 128 0xFF) = false := by
  simp [sumGood, natAt, beNat]

/-- The CONFIG_FAULT request of a moment (R189; log 45). -/
def configFaultAt (moment : Stamp) : BreachRequest where
  category := .configFault
  startStamp := moment
  endStamp := some moment

/-- CONFIG_LOADED with a faulty record: the record's fields, CONFIG_FAULT, and CHECKING (R189, R190). -/
theorem exec_configLoaded_faulty {bytes : List Byte} {s : State} (loading : s.startup.station = .loading)
    (length : bytes.length = 128) (marked : (s.startup.configure bytes).listenOnlyMark = true) :
    let filled := s.setStartup (s.startup.configure bytes)
    ∃ requested : State,
      exec (.configLoaded bytes) s = .next (requested.setStartup { requested.startup with station := .checking }) ∧
      OnlyReports filled requested ∧ requested.link = s.link ∧
      (s.log.records.length < 128 → requested.log.records = s.log.records ++
        [{ filled.recordOf (configFaultAt s.nowStamp) s.log.drawn with serial := s.log.nextSerial }]) := by
  intro filled
  have plain : (configFaultAt s.nowStamp).category.retains = false := rfl
  have still : filled.startup.station ≠ .running := by
    rw [State.setStartup_startup, configure_station, loading]
    decide
  refine ⟨filled.raise (configFaultAt s.nowStamp), ?_, raise_reports plain filled,
    raise_link_of_not_running plain still, fun room => raise_records plain (s := filled) room⟩
  change execConfigLoaded bytes s = _
  unfold execConfigLoaded
  rw [if_pos loading, recordBytes_of_length length]
  exact congrArg Host.Outcome.next (congrArg (fun t : State => t.setStartup { t.startup with station := .checking })
    (if_pos marked))

/-! ### The limited fields (R188, R189) -/

/-- What a limited field takes: the value read inside its range, and the nearer limit outside it (R189). -/
def Limited (lo hi read taken : Int) : Prop :=
  (lo ≤ taken ∧ taken ≤ hi) ∧ (read < lo → taken = lo) ∧ (hi < read → taken = hi) ∧ (lo ≤ read → read ≤ hi → taken = read)

theorem clampInt_limited {lo hi : Int} (range : lo ≤ hi) (v : Int) : Limited lo hi v (clampInt lo hi v) := by
  unfold Limited clampInt
  omega

theorem clampNat_limited {lo hi : Nat} (range : lo ≤ hi) (v : Nat) : Limited lo hi v (clampNat lo hi v) := by
  unfold Limited clampNat
  omega

/-- The fields of a class profile, from the eight bytes at its place (R188). -/
theorem clampProfile_limited (r : List Byte) (b : Nat) :
    let p := clampProfile (readProfile r b)
    Limited (-4000) (-1000) (intAt r b 2) p.target ∧ Limited 10 500 (natAt r (b + 2) 2) p.tolerance ∧
    Limited 0 1000 (natAt r (b + 4) 2) p.margin ∧ Limited (-99) 0 (intAt r (b + 6) 1) p.peakLimit ∧
    p.captionCheck = (byteAt r (b + 7)).getLsbD 0 :=
  ⟨clampInt_limited (by decide) _, clampNat_limited (by decide) _, clampNat_limited (by decide) _,
    clampInt_limited (by decide) _, rfl⟩

/-- Where the profile of a class stands in the record (R188). -/
def profilePlace : SegClass → Nat
  | .programme => 6 | .advert => 14 | .promotion => 22 | .junction => 30

theorem clampConfig_profile (r : List Byte) (k : SegClass) :
    (clampConfig (readConfig r)).profile k = clampProfile (readProfile r (profilePlace k)) := by
  cases k <;> rfl

/-- The four alarm lines stand one behind another (R188). -/
theorem clampConfig_line (r : List Byte) {i : Nat} (line : i < 4) :
    (clampConfig (readConfig r)).line i = readLine r (56 + 4 * i) := by
  interval_cases i <;> rfl

theorem readLine_mask (r : List Byte) (b : Nat) : (readLine r b).mask.toNat = natAt r b 3 % 2 ^ 18 := by
  refine Nat.mod_eq_of_lt (Nat.lt_of_lt_of_le (Nat.mod_lt _ (by decide)) ?_)
  decide

/-- Settles O10: a faulty record is configured, reported and left in CHECKING; a field's place and range are its own. -/
theorem configFaultyAndFields : Obligations.ConfigFaultyAndFields := by
  refine ⟨fun bytes s loading length room invalid => ?faulty, sumGood_unanswered, fun bytes => ?fields⟩
  case faulty =>
    have configured := configure_faulty s.startup (record := bytes) fun good => by
      have outside := invalid good
      rw [← Bool.not_eq_true, stationNumberOk_iff]
      omega
    obtain ⟨requested, executed, reports, link, records⟩ :=
      exec_configLoaded_faulty loading length (congrArg Startup.listenOnlyMark configured)
    have startup := congrArg (fun u : Startup => { u with station := .checking })
      (reports.measured.startup.trans configured)
    exact ⟨_, _, executed, startup, records room, rfl, rfl, rfl, rfl, rfl, rfl, rfl, reports.measured.port,
      reports.measured.time, reports.recorder, reports.peers, link⟩
  case fields =>
    refine ⟨rfl, rfl, Nat.mod_eq_of_lt (natAt_lt bytes 2 2), clampNat_limited (by decide) _, fun k b place => ?profile,
      clampInt_limited (by decide) _, clampNat_limited (by decide) _, clampNat_limited (by decide) _,
      clampNat_limited (by decide) _, clampNat_limited (by decide) _, clampNat_limited (by decide) _,
      clampNat_limited (by decide) _, clampNat_limited (by decide) _, clampNat_limited (by decide) _,
      clampNat_limited (by decide) _, clampNat_limited (by decide) _, clampNat_limited (by decide) _,
      fun i line => ?line⟩
    case profile =>
      have at_ : b = profilePlace k := by rcases place with ⟨rfl, rfl⟩ | ⟨rfl, rfl⟩ | ⟨rfl, rfl⟩ | ⟨rfl, rfl⟩ <;> rfl
      rw [clampConfig_profile, at_]
      exact clampProfile_limited bytes _
    case line =>
      have flags : 59 + 4 * i = 56 + 4 * i + 3 := by omega
      rw [clampConfig_line bytes line, flags]
      exact ⟨readLine_mask bytes _, rfl, rfl, rfl⟩

end Sys2Proof.Machine
end

section
/-! PROOF. Numbers, loudnesses and stamps written in bytes and read back, and the fields of a layout (R122, R135,
R181). -/

namespace Sys2Proof.Machine

/-! ### Numbers (R1, R122, R181) -/

theorem beNat_beBytes_from (n : Nat) : ∀ k acc : Nat,
    (beBytes k n).foldl (fun acc b => acc * 256 + b.toNat) acc = acc * 256 ^ k + n % 256 ^ k
  | 0, acc => by simp [beBytes, Nat.mod_one]
  | k + 1, acc => by
    have split : n % 256 ^ (k + 1) = n % 256 ^ k + 256 ^ k * (n / 256 ^ k % 256) := by rw [Nat.pow_succ, Nat.mod_mul]
    have first : (BitVec.ofNat 8 (n / 256 ^ k)).toNat = n / 256 ^ k % 256 := BitVec.toNat_ofNat ..
    rw [beBytes, List.foldl_cons, beNat_beBytes_from n k, first, split, Nat.pow_succ']
    ring

/-- The number that `k` bytes spell is the one written, up to what they can hold. -/
theorem beNat_beBytes (k n : Nat) : beNat (beBytes k n) = n % 256 ^ k :=
  (beNat_beBytes_from n k 0).trans (by rw [Nat.zero_mul, Nat.zero_add])

theorem beNat_beBytes_of_lt {k n : Nat} (fits : n < 256 ^ k) : beNat (beBytes k n) = n :=
  (beNat_beBytes k n).trans (Nat.mod_eq_of_lt fits)

theorem beNat_single (b : Byte) : beNat [b] = b.toNat := by simp [beNat]

@[simp] theorem signedBytes_length (k : Nat) (i : Int) : (signedBytes k i).length = k := beBytes_length ..

/-- A number written in two's complement, read back. -/
theorem signedOf_signedBytes {k : Nat} {i : Int} (wide : 0 < k) (low : -2 ^ (8 * k - 1) ≤ i)
    (high : i < 2 ^ (8 * k - 1)) : signedOf (8 * k) (beNat (signedBytes k i)) = i := by
  have fits : (BitVec.ofInt (8 * k) i).toNat < 256 ^ k := by
    rw [show 256 ^ k = 2 ^ (8 * k) from (Nat.pow_mul 2 8 k).symm]
    exact (BitVec.ofInt (8 * k) i).isLt
  unfold signedBytes signedOf
  rw [beNat_beBytes_of_lt fits, BitVec.ofNat_toNat, BitVec.setWidth_eq]
  exact BitVec.toInt_ofInt_eq_self (by omega) low high

/-! ### What stands at a place -/

/-- What stands within `n` bytes from a place, read from the whole. -/
theorem natAt_of_window {bytes field : List Byte} {at_ n : Nat} (window : (bytes.drop at_).take n = field) {j k : Nat}
    (inside : j + k ≤ n) : natAt bytes (at_ + j) k = natAt field j k := by
  unfold natAt
  rw [← window, List.drop_take, List.take_take, List.drop_drop, Nat.min_eq_left (by omega)]

theorem byteAt_of_window {bytes field : List Byte} {at_ n : Nat} (window : (bytes.drop at_).take n = field) {j : Nat}
    (inside : j < n) : byteAt bytes (at_ + j) = byteAt field j := by
  unfold byteAt
  rw [← window, List.getD_eq_getElem?_getD, List.getD_eq_getElem?_getD, List.getElem?_take_of_lt inside,
    List.getElem?_drop]

/-- A layout's field, at the sum of the widths before it. -/
theorem window_of_fields {fields : List (List Byte)} {widths : List Nat} (sized : fields.map List.length = widths)
    {i at_ n : Nat} {field : List Byte} (is : fields[i]? = some field) (width : widths[i]? = some n)
    (place : (widths.take i).sum = at_) : (fields.flatten.drop at_).take n = field := by
  obtain ⟨inside, rfl⟩ := List.getElem?_eq_some_iff.mp is
  subst sized
  have wide : fields[i].length = n := by simpa [List.getElem?_map, is] using width
  have front : (fields.take i).flatten.length = at_ := by
    rw [← place, List.length_flatten, List.map_take]
  have parts : fields.flatten = (fields.take i).flatten ++ (fields[i] ++ (fields.drop (i + 1)).flatten) := by
    rw [← List.flatten_cons, ← List.drop_eq_getElem_cons inside, ← List.flatten_append, List.take_append_drop]
  rw [parts, List.drop_left' front, List.take_left' wide]

/-! ### Loudnesses and stamps (R132, R135, R136) -/

@[simp] theorem loudnessBytes_length (x : Option Int) : (loudnessBytes x).length = 2 := by
  cases x with
  | none => rfl
  | some i => exact signedBytes_length 2 i

@[simp] theorem stampBytes_length (t : Stamp) : (stampBytes t).length = 9 := by
  simp [stampBytes, timeBytes]

/-- A loudness read from the two bytes it was written in; NONE is −32,768 (R136). -/
theorem intAt_of_loudness {bytes : List Byte} {at_ : Nat} {x : Option Int}
    (window : (bytes.drop at_).take 2 = loudnessBytes x) :
    (x = none → intAt bytes at_ 2 = -32768) ∧ (∀ i, x = some i → -32768 ≤ i → i ≤ 32767 → intAt bytes at_ 2 = i) := by
  unfold intAt natAt
  rw [window]
  refine ⟨?_, ?_⟩
  · rintro rfl
    rfl
  · rintro i rfl low high
    exact signedOf_signedBytes (k := 2) (by decide) low (Int.lt_of_le_sub_one high)

/-- The time class and the CORRECTING flag of a time quality byte (R132). -/
theorem qualityByte_read (c : TimeClass) (correcting : Bool) :
    TimeClass.ofNumber? ((qualityByte c correcting).toNat % 8) = some c ∧
      (qualityByte c correcting).getLsbD 7 = correcting := by
  cases c <;> cases correcting <;> decide

/-- A shelf time read from the eight bytes it was written in (R182). -/
theorem readTime_timeBytes {t : Nat} (within : t ≤ shelfMax) :
    natAt (timeBytes t) 0 4 * second + natAt (timeBytes t) 4 4 = t := by
  have seconds : natAt (timeBytes t) 0 4 = secondsOf t := by
    refine beNat_beBytes_of_lt (k := 4) ?_
    unfold secondsOf second
    unfold shelfMax at within
    omega
  have micros : natAt (timeBytes t) 4 4 = microsOf t := by
    refine beNat_beBytes_of_lt (k := 4) ?_
    unfold microsOf second
    omega
  rw [seconds, micros, Nat.mul_comm]
  exact Nat.div_add_mod t second

/-- A stamp read from the nine bytes it was written in (R135). -/
theorem readStamp?_of_stamp {bytes : List Byte} {at_ : Nat} {t : Stamp}
    (window : (bytes.drop at_).take 9 = stampBytes t) (within : t.time ≤ shelfMax) :
    readStamp? bytes at_ = some t := by
  have time : readTime bytes at_ = t.time := by
    have seconds := natAt_of_window window (j := 0) (k := 4) (by decide)
    have micros := natAt_of_window window (j := 4) (k := 4) (by decide)
    rw [Nat.add_zero] at seconds
    unfold readTime
    rw [seconds, micros]
    exact readTime_timeBytes within
  have quality : byteAt bytes (at_ + 8) = qualityByte t.cls t.correcting :=
    byteAt_of_window window (j := 8) (by decide)
  obtain ⟨cls, correcting⟩ := qualityByte_read t.cls t.correcting
  unfold readStamp?
  rw [quality, cls, correcting, time]

end Sys2Proof.Machine
end

section
/-! PROOF. The verdict cursor at its requests and at an issue, and the bytes of a verdict (R78, R182, R185). Settles
O20. -/

namespace Sys2Proof.Machine

/-! ### The requests and their commits (R182, R185) -/

theorem request_served {s : State} (idle : s.evidence.txn = none) (serve : State → State) :
    s.request serve = .next (serve s) := by
  unfold State.request
  rw [idle]

theorem cursorVerdict_of_end {s : State} (end_ : s.evidence.verdictCursor = none) : s.cursorVerdict = none := by
  unfold State.cursorVerdict
  rw [end_]
  rfl

theorem cursorVerdict_of_named {s : State} {n : Nat} (named : s.evidence.verdictCursor = some n) :
    s.cursorVerdict = s.verdicts.history.find? (fun x => x.serial == n) := by
  unfold State.cursorVerdict
  rw [named]
  rfl

theorem exec_verdictNext_some {s : State} (idle : s.evidence.txn = none) {v : Verdict} (at_ : s.cursorVerdict = some v) :
    exec .verdictNext s = .next (s.answer (0x00 :: verdictBytesOf v) (.verdictAfter v.serial)) := by
  change execVerdictNext s = _
  unfold execVerdictNext
  rw [request_served idle, at_]

theorem exec_verdictNext_none {s : State} (idle : s.evidence.txn = none) (at_ : s.cursorVerdict = none) :
    exec .verdictNext s = .next (s.answer (0x01 :: List.replicate 42 0) .nothing) := by
  change execVerdictNext s = _
  unfold execVerdictNext
  rw [request_served idle, at_]

theorem exec_verdictRewind {s : State} (idle : s.evidence.txn = none) :
    exec .verdictRewind s = .next (s.answer [0x00] .verdictOldest) :=
  (show exec .verdictRewind s = execVerdictRewind s from rfl).trans (request_served idle _)

/-! ### An issue (R78, R185) -/

/-- A verdict issued moves the cursor on from the end, and from a verdict that has left the history (R185). -/
theorem issue_evidence (s : State) (v : Verdict) :
    let history := newest 16 (s.verdicts.history ++ [{ v with serial := s.verdicts.nextSerial }])
    (s.evidence.verdictCursor = none →
      (s.issue v).evidence = { s.evidence with verdictCursor := some s.verdicts.nextSerial }) ∧
    (∀ n, s.evidence.verdictCursor = some n → (∃ x ∈ history, x.serial = n) → (s.issue v).evidence = s.evidence) ∧
    (∀ n, s.evidence.verdictCursor = some n → (∀ x ∈ history, x.serial ≠ n) →
      (s.issue v).evidence = { s.evidence with verdictCursor := history.head?.map (fun x => x.serial) }) := by
  intro history
  have named : ∀ n, history.any (fun x => x.serial == n) = true ↔ ∃ x ∈ history, x.serial = n := by simp
  unfold State.issue
  dsimp only
  refine ⟨fun end_ => ?_, fun n cursor held => ?_, fun n cursor gone => ?_⟩
  · rw [end_]
    rfl
  · rw [cursor]
    dsimp only
    rw [if_pos ((named n).mpr held)]
    rfl
  · rw [cursor]
    have left : ¬ history.any (fun x => x.serial == n) = true := fun held => by
      obtain ⟨x, member, is⟩ := (named n).mp held
      exact gone x member is
    dsimp only
    rw [if_neg left]
    rfl

/-! ### The 42 bytes (R185) -/

/-- The fields of a verdict's bytes, in order (R185). -/
def verdictFields (v : Verdict) : List (List Byte) :=
  [[BitVec.ofNat 8 v.kind.code], beBytes 4 v.id.toNat, [BitVec.ofNat 8 v.cls.code], [BitVec.ofNat 8 v.scope.code],
    stampBytes v.startStamp, stampBytes v.endStamp, loudnessBytes v.figures.integrated,
    loudnessBytes v.figures.maxMomentary, loudnessBytes v.figures.maxShortTerm, signedBytes 2 v.figures.maxPeak,
    beBytes 4 v.figures.offered, beBytes 2 (v.coverage.getD 65535), [(sourceBytes v.source).1],
    [BitVec.ofNat 8 (markBit 0 v.impaired)], [(sourceBytes v.source).2]]

/-- The widths of a verdict's fields, in order (R185). -/
def verdictWidths : List Nat := [1, 4, 1, 1, 9, 9, 2, 2, 2, 2, 4, 2, 1, 1, 1]

theorem verdictBytesOf_eq (v : Verdict) : verdictBytesOf v = (verdictFields v).flatten := by
  simp [verdictBytesOf, verdictBodyBytes, verdictFields]

theorem verdictFields_sized (v : Verdict) : (verdictFields v).map List.length = verdictWidths := by
  simp [verdictFields, verdictWidths]

theorem verdictBytesOf_length (v : Verdict) : (verdictBytesOf v).length = 42 := by
  rw [verdictBytesOf_eq, List.length_flatten, verdictFields_sized]
  rfl

section Fields

variable {v : Verdict} {i at_ n : Nat} {field : List Byte} (is : (verdictFields v)[i]? = some field)
  (width : verdictWidths[i]? = some n) (place : (verdictWidths.take i).sum = at_)

include is width place

theorem verdict_window : ((verdictBytesOf v).drop at_).take n = field := by
  rw [verdictBytesOf_eq]
  exact window_of_fields (verdictFields_sized v) is width place

theorem verdict_natAt : natAt (verdictBytesOf v) at_ n = beNat field := congrArg beNat (verdict_window is width place)

end Fields

theorem VerdictKind.code_toNat (k : VerdictKind) :
    (BitVec.ofNat 8 k.code).toNat = (match k with | .segment => 1 | .programme => 2) := by cases k <;> rfl

theorem SegClass.code_toNat (c : SegClass) : (BitVec.ofNat 8 c.code).toNat = c.code := by cases c <;> rfl

theorem Scope.code_toNat (c : Scope) : (BitVec.ofNat 8 c.code).toNat = c.code := by cases c <;> rfl

theorem sourceBytes_code (x : VerdictSource) :
    (sourceBytes x).1.toNat = (match x with | .own => 1 | .proxy _ => 2 | .unmeasured => 3) := by cases x <;> rfl

theorem sourceBytes_station (x : VerdictSource) :
    (sourceBytes x).2 = (match x with | .own => 0 | .proxy station => station | .unmeasured => 0) := by cases x <;> rfl

theorem markBit_toNat (b : Bool) : (BitVec.ofNat 8 (markBit 0 b)).toNat = (if b then 1 else 0) := by cases b <;> rfl

/-- Settles O20: the requests by what the cursor names, the issue by where the cursor stood, the bytes field by field. -/
theorem verdictCursor : Obligations.VerdictCursor := by
  refine ⟨fun s idle => ⟨fun n v cursor found => ⟨?next, verdictBytesOf_length v⟩, fun end_ => ?atEnd,
    exec_verdictRewind idle, fun response n => rfl, fun response => rfl⟩,
    fun s v => ⟨issue_verdicts s v, issue_evidence s v⟩, fun v start stop => ?bytes⟩
  case next => exact exec_verdictNext_some idle ((cursorVerdict_of_named cursor).trans found)
  case atEnd => exact exec_verdictNext_none idle (cursorVerdict_of_end end_)
  case bytes =>
    refine ⟨verdictBytesOf_length v, ?kind, ?id, ?cls, ?scope,
      readStamp?_of_stamp (verdict_window (i := 4) rfl rfl rfl) start,
      readStamp?_of_stamp (verdict_window (i := 5) rfl rfl rfl) stop,
      intAt_of_loudness (verdict_window (i := 6) rfl rfl rfl), intAt_of_loudness (verdict_window (i := 7) rfl rfl rfl),
      intAt_of_loudness (verdict_window (i := 8) rfl rfl rfl), intAt_of_loudness (verdict_window (i := 9) rfl rfl rfl),
      fun fits => ?offered, fun none => ?uncovered, fun c some small => ?covered, ?source, ?impaired, ?station⟩
    case kind => exact (verdict_natAt (i := 0) rfl rfl rfl).trans ((beNat_single _).trans v.kind.code_toNat)
    case id => exact (verdict_natAt (i := 1) rfl rfl rfl).trans (beNat_beBytes_of_lt v.id.isLt)
    case cls => exact (verdict_natAt (i := 2) rfl rfl rfl).trans ((beNat_single _).trans v.cls.code_toNat)
    case scope => exact (verdict_natAt (i := 3) rfl rfl rfl).trans ((beNat_single _).trans v.scope.code_toNat)
    case offered => exact (verdict_natAt (i := 10) rfl rfl rfl).trans (beNat_beBytes_of_lt fits)
    case uncovered =>
      refine (verdict_natAt (i := 11) rfl rfl rfl).trans ?_
      rw [none]
      exact beNat_beBytes_of_lt (k := 2) (by decide)
    case covered =>
      refine (verdict_natAt (i := 11) rfl rfl rfl).trans ?_
      rw [some]
      exact beNat_beBytes_of_lt (k := 2) (Nat.lt_of_le_of_lt small (by decide))
    case source => exact (verdict_natAt (i := 12) rfl rfl rfl).trans ((beNat_single _).trans (sourceBytes_code _))
    case impaired => exact (verdict_natAt (i := 13) rfl rfl rfl).trans ((beNat_single _).trans (markBit_toNat _))
    case station =>
      exact (byteAt_of_window (verdict_window (i := 14) (at_ := 41) rfl rfl rfl) (j := 0) (by decide)).trans
        (sourceBytes_station _)

end Sys2Proof.Machine
end

section
/-! PROOF. What a record of a category that retains evidence leaves of the log (R169, R173): its hold, whether placed or
refused, changes of the records only their holds and flags, and may add HOLD_REFUSED behind them. -/

namespace Sys2Proof.Machine

/-- A record without what the Recorder's reports change in it: its hold and its flags (R173). -/
def BreachRecord.told (r : BreachRecord) : BreachRecord :=
  { r with hold := none, flags := ⟨false, false, false, false, false, false, false⟩ }

/-- The log's records, without their holds and flags. -/
def State.told (s : State) : List BreachRecord := s.log.records.map BreachRecord.told

theorem told_length (s : State) : s.told.length = s.log.records.length := List.length_map ..

theorem changeRecord_told (s : State) (n : Option Nat) {f : BreachRecord → BreachRecord}
    (same : ∀ r, (f r).told = r.told) : (s.changeRecord n f).told = s.told := by
  cases n with
  | none => rfl
  | some number =>
    refine (List.map_map ..).trans (List.map_congr_left fun r _ => ?_)
    rw [Function.comp_apply]
    split
    · exact same r
    · rfl

theorem evictHold_told (s : State) (slot : Nat) : (s.evictHold slot).told = s.told := by
  unfold State.evictHold
  split
  · rfl
  · next h _ =>
    have evicted : ((s.setRecorder (s.recorder.freeHold slot)).reportEvicted h.breach).told = s.told :=
      changeRecord_told _ _ fun r => rfl
    dsimp only
    split <;> exact evicted

theorem evictAll_told : ∀ (l : List Nat) (s : State), (s.evictAll l).told = s.told
  | [], _ => rfl
  | slot :: l, s => (evictAll_told l (s.evictHold slot)).trans (evictHold_told s slot)

theorem placeHold_told (s : State) (p : Priority) (a : Nat) (b : Option Nat) (n : Option Nat) :
    (s.placeHold p a b n).1.told = s.told := by
  unfold State.placeHold
  split
  · rfl
  · dsimp only
    split
    · rfl
    · next evicted _ =>
      split
      · rfl
      · refine Eq.trans (changeRecord_told _ _ fun r => ?_) (evictAll_told evicted s)
        rfl

/-- The record a creation enters stands behind the others, where the log has room (R169, R172). -/
theorem enterRecord_records {s : State} (room : s.log.records.length < 128) (q : BreachRequest) :
    (s.enterRecord q).1.log.records =
      s.log.records ++ [{ s.recordOf q s.log.drawn with serial := s.log.nextSerial }] := by
  obtain ⟨-, stored, -⟩ := storeRecord_log
    ((s.setLog { s.log with nextNumber := numberAfter s.log.drawn }).triggerPulses (fun l => l.watches q.category))
    (s.recordOf q s.log.drawn)
  rw [triggerPulses_log] at stored
  unfold State.enterRecord State.pulseForCategory
  dsimp only
  split <;> exact stored room

theorem createHoldRefused_records {s : State} (room : s.log.records.length < 128) (n : Option Nat) :
    ∃ refused, (s.createHoldRefused n).log.records = s.log.records ++ [refused] :=
  ⟨_, (congrArg BreachLog.records (announce_log _ _ _)).trans (enterRecord_records room _)⟩

/-- The hold of a record leaves the records, and a refusal adds one behind them (R114, R169). -/
theorem holdForRecord_told {s : State} (room : s.log.records.length < 128) (q : BreachRequest) (n : Option Nat) :
    ∃ more, (s.holdForRecord q n).told = s.told ++ more := by
  unfold State.holdForRecord
  split
  · dsimp only
    have placed := placeHold_told s .own q.startStamp.time (q.endStamp.map (fun t => t.time)) n
    split
    · have still := congrArg List.length placed
      rw [told_length, told_length] at still
      obtain ⟨refused, records⟩ := createHoldRefused_records (still ▸ room) n
      refine ⟨[refused.told], ?_⟩
      rw [← placed]
      exact (congrArg (List.map BreachRecord.told) records).trans List.map_append
    · exact ⟨[], placed.trans (List.append_nil _).symm⟩
  · exact ⟨[], (List.append_nil _).symm⟩

/-- The record of a creation request is in the log behind it, whatever became of its hold (R169). -/
theorem raise_told {s : State} (room : s.log.records.length < 127) (q : BreachRequest) :
    ∃ r ∈ (s.raise q).log.records, r.told = BreachRecord.told { s.recordOf q s.log.drawn with
      serial := s.log.nextSerial } := by
  have entered := enterRecord_records (Nat.lt_succ_of_lt room) q
  have left : (s.enterRecord q).1.log.records.length < 128 := by
    rw [entered, List.length_append, List.length_singleton]
    omega
  obtain ⟨more, held⟩ := holdForRecord_told left q
    (if (s.enterRecord q).2.2 then some (s.enterRecord q).2.1 else none)
  have log : (s.raise q).told = (s.enterRecord q).1.told ++ more :=
    (congrArg (fun l : BreachLog => l.records.map BreachRecord.told) (announce_log _ _ _)).trans held
  refine List.mem_map.mp (?_ : _ ∈ (s.raise q).told)
  unfold State.told at log
  rw [State.told, log, entered, List.map_append]
  exact List.mem_append_left _ (List.mem_append_right _ (List.mem_singleton_self _))

end Sys2Proof.Machine
end

section
/-! PROOF. What a formed verdict meets, the pending list, and the verdict cache (R72 to R77, R160 to R163). Settles
O46. -/

namespace Sys2Proof.Machine

/-! ### The loudness check (R74) -/

/-- The request of a loudness check (R74). -/
def Verdict.outside (v : Verdict) (proxy : Bool) (category : Category) (i : Int) : BreachRequest where
  category := category
  startStamp := v.startStamp
  endStamp := some v.endStamp
  figure := some i
  segment := some v.name
  proxy := proxy

section LoudnessCheck

variable {s : State} {v : Verdict} {proxy : Bool}

theorem checkLoudness_none (none : v.figures.integrated = none) : s.checkLoudness v proxy = s := by
  unfold State.checkLoudness loudnessBreach
  rw [none]

variable {i : Int} (figure : v.figures.integrated = some i)

include figure

theorem checkLoudness_high (high : (s.config.profile v.cls).target + (s.config.profile v.cls).tolerance < i) :
    s.checkLoudness v proxy = s.raise (v.outside proxy .loudnessHigh i) := by
  unfold State.checkLoudness loudnessBreach Verdict.outside
  rw [figure]
  dsimp only
  rw [if_pos high]

theorem checkLoudness_low (low : i < (s.config.profile v.cls).target - (s.config.profile v.cls).tolerance) :
    s.checkLoudness v proxy = s.raise (v.outside proxy .loudnessLow i) := by
  have notHigh : ¬ (s.config.profile v.cls).target + (s.config.profile v.cls).tolerance < i := by omega
  unfold State.checkLoudness loudnessBreach Verdict.outside
  rw [figure]
  dsimp only
  rw [if_neg notHigh, if_pos low]

theorem checkLoudness_inside (above : (s.config.profile v.cls).target - (s.config.profile v.cls).tolerance ≤ i)
    (below : i ≤ (s.config.profile v.cls).target + (s.config.profile v.cls).tolerance) :
    s.checkLoudness v proxy = s := by
  unfold State.checkLoudness loudnessBreach
  rw [figure]
  dsimp only
  rw [if_neg (Int.not_lt.mpr below), if_neg (Int.not_lt.mpr above)]

end LoudnessCheck

theorem checkLoudness_keeps (s : State) (v : Verdict) (proxy : Bool) : KeepsMeasured s (s.checkLoudness v proxy) := by
  unfold State.checkLoudness
  split
  · exact .refl s
  · exact raise_keeps s _

/-- The record of a loudness outside the band, behind whatever its hold adds (R74, R169). -/
theorem raise_outside_record {s : State} (room : s.log.records.length < 127) (v : Verdict) (proxy : Bool)
    (category : Category) (i : Int) : ∃ r ∈ (s.raise (v.outside proxy category i)).log.records,
      r.category = category ∧ r.startStamp = v.startStamp ∧ r.endStamp = some v.endStamp ∧ r.figure = some i ∧
      r.segmentId = v.id := by
  obtain ⟨r, member, told⟩ := raise_told room (v.outside proxy category i)
  exact ⟨r, member, congrArg BreachRecord.category told, congrArg BreachRecord.startStamp told,
    congrArg BreachRecord.endStamp told, congrArg BreachRecord.figure told, congrArg BreachRecord.segmentId told⟩

/-! ### A verdict issued (R74, R75, R77, R162) -/

/-- A verdict issued OWN, before its loudness check (R77). -/
def State.noticed (s : State) (v : Verdict) : State :=
  (s.issue { v with source := .own }).offer (Verdict.notice { v with source := .own }) []

theorem issueOwn_eq (s : State) (v : Verdict) :
    s.issueOwn v = (s.noticed v).checkLoudness { v with source := .own } false := rfl

theorem issue_config (s : State) (v : Verdict) : (s.issue v).config = s.config := by
  unfold State.issue
  dsimp only
  split
  · rfl
  · split <;> rfl

theorem noticed_keeps (s : State) (v : Verdict) : KeepsMeasured (s.issue { v with source := .own }) (s.noticed v) :=
  offer_keeps _ _ _

theorem noticed_log (s : State) (v : Verdict) : (s.noticed v).log = s.log := (offer_log _ _ _).trans (issue_log s _)

theorem noticed_config (s : State) (v : Verdict) : (s.noticed v).config = s.config :=
  (noticed_keeps s v).config.trans (issue_config s _)

theorem issueOwn_history (s : State) (v : Verdict) : (s.issueOwn v).verdicts.history =
    newest 16 (s.verdicts.history ++ [{ v with source := .own, serial := s.verdicts.nextSerial }]) := by
  rw [issueOwn_eq, (checkLoudness_keeps _ _ _).verdicts, (noticed_keeps s v).verdicts, issue_verdicts]

theorem issueUnmeasured_eq (s : State) (v : Verdict) :
    s.issueUnmeasured v = (s.issue { v with source := .unmeasured }).raise v.lost := rfl

theorem issueUnmeasured_history (s : State) (v : Verdict) : (s.issueUnmeasured v).verdicts.history =
    newest 16 (s.verdicts.history ++ [{ v with source := .unmeasured, serial := s.verdicts.nextSerial }]) := by
  rw [issueUnmeasured_eq, (raise_keeps _ _).verdicts, issue_verdicts]

/-- The MEASUREMENT_LOST record of a verdict (R75). -/
theorem issueUnmeasured_record {s : State} (room : s.log.records.length < 128) (v : Verdict) :
    ∃ r ∈ (s.issueUnmeasured v).log.records, r.category = .measurementLost ∧ r.startStamp = v.startStamp ∧
      r.endStamp = some v.endStamp ∧ r.figure = none ∧ r.segmentId = v.id := by
  have plain : v.lost.category.retains = false := rfl
  rw [← issue_log s { v with source := .unmeasured }] at room
  rw [issueUnmeasured_eq, raise_records plain room]
  exact ⟨_, List.mem_append_right _ (List.mem_singleton_self _), rfl, rfl, rfl, rfl, rfl⟩

/-- A verdict with a candidate's figures, its source that candidate's sender (R162). -/
def Verdict.adopting (v : Verdict) (c : CacheEntry) : Verdict :=
  { v with figures := c.verdict.figures, source := .proxy c.sender }

theorem resolveProxy_eq (s : State) (v : Verdict) (c : CacheEntry) :
    s.resolveProxy v c = (s.issue (v.adopting c)).checkLoudness (v.adopting c) true := rfl

theorem resolveProxy_history (s : State) (v : Verdict) (c : CacheEntry) : (s.resolveProxy v c).verdicts.history =
    newest 16 (s.verdicts.history ++ [{ v.adopting c with serial := s.verdicts.nextSerial }]) := by
  rw [resolveProxy_eq, (checkLoudness_keeps _ _ _).verdicts, issue_verdicts]

/-- A resolution leaves peer table, pending list and cache as they are (R162). -/
theorem resolveProxy_peers (s : State) (v : Verdict) (c : CacheEntry) :
    (s.resolveProxy v c).peers.table = s.peers.table ∧
    (s.resolveProxy v c).peers.pendingVerdicts = s.peers.pendingVerdicts ∧
    (s.resolveProxy v c).peers.cache = s.peers.cache := by
  have checked := checkLoudness_keeps (s.issue (v.adopting c)) (v.adopting c) true
  rw [resolveProxy_eq, checked.table, checked.proxies, checked.cache, issue_peers]
  exact ⟨rfl, rfl, rfl⟩

/-! ### Candidates (R162) -/

/-- A cache entry has the figures of a verdict that this station lost (R162). -/
def State.Fits (s : State) (c : CacheEntry) (v : Verdict) : Prop :=
  c.verdict.kind = v.kind ∧ c.verdict.id = v.id ∧ c.verdict.impaired = false ∧
    ∃ e d, s.peer? c.sender = some e ∧ e.relation = .common d

theorem Relation.isCommon_iff (r : Relation) : r.isCommon = true ↔ ∃ d, r = .common d := by
  cases r <;> simp [Relation.isCommon]

theorem isCommonPeer_iff (s : State) (station : Byte) :
    s.isCommonPeer station = true ↔ ∃ e d, s.peer? station = some e ∧ e.relation = .common d := by
  unfold State.isCommonPeer
  cases s.peer? station with
  | none => simp
  | some e => simpa using Relation.isCommon_iff e.relation

theorem isCandidate_iff (s : State) (c : CacheEntry) (v : Verdict) : s.isCandidate c v = true ↔ s.Fits c v := by
  unfold State.isCandidate State.Fits
  rw [← isCommonPeer_iff]
  simp [and_assoc]

/-- Candidates are judged by the peer table alone. -/
theorem fits_of_table {s t : State} (table : t.peers.table = s.peers.table) (c : CacheEntry) (v : Verdict) :
    t.Fits c v ↔ s.Fits c v := by
  unfold State.Fits State.peer?
  rw [table]

theorem candidateFor_none {s : State} {v : Verdict} (none : ∀ c, ¬ (c ∈ s.peers.cache ∧ s.Fits c v)) :
    s.candidateFor v s.peers.cache = .none := by
  refine (leastBy_eq_none_iff _ _).mpr (List.filter_eq_nil_iff.mpr fun c member candidate => ?_)
  exact none c ⟨member, (isCandidate_iff s c v).mp candidate⟩

/-- The candidate taken is the one of the lowest station number (R162). -/
theorem candidateFor_lowest {s : State} {v : Verdict} {c : CacheEntry} (member : c ∈ s.peers.cache) (fits : s.Fits c v)
    (lowest : ∀ x, x ∈ s.peers.cache ∧ s.Fits x v → x ≠ c → c.sender.toNat < x.sender.toNat) :
    s.candidateFor v s.peers.cache = some c := by
  have candidate : c ∈ s.peers.cache.filter (fun c => s.isCandidate c v) :=
    List.mem_filter.mpr ⟨member, (isCandidate_iff s c v).mpr fits⟩
  cases taken : s.candidateFor v s.peers.cache with
  | none =>
    rw [(leastBy_eq_none_iff _ _).mp taken] at candidate
    exact absurd candidate List.not_mem_nil
  | some x =>
    have least : x.sender.toNat ≤ c.sender.toNat := leastBy_le _ taken c candidate
    obtain ⟨cached, xCandidate⟩ := List.mem_filter.mp (leastBy_mem _ _ x taken)
    by_cases same : x = c
    · rw [same]
    · exact absurd (lowest x ⟨cached, (isCandidate_iff s x v).mp xCandidate⟩ same) (Nat.not_lt.mpr least)

/-! ### The pending list (R161) -/

/-- The state with another pending list. -/
def State.withPending (s : State) (l : List PendingVerdict) : State :=
  s.setPeers { s.peers with pendingVerdicts := l }

/-- Where an element is placed: behind all that stay ahead of it, before the first that is later. -/
theorem placeBefore_split {α : Type} (later : α → Bool) (x : α) : ∀ l : List α, ∃ ahead behind,
    l = ahead ++ behind ∧ placeBefore later x l = ahead ++ x :: behind ∧ (∀ y ∈ ahead, later y = false) ∧
      ∀ y, behind.head? = some y → later y = true
  | [] => ⟨[], [], rfl, rfl, by simp, by simp⟩
  | z :: zs => by
    unfold placeBefore
    by_cases first : later z = true
    · exact ⟨[], z :: zs, rfl, if_pos first, by simp, by simpa using first⟩
    · obtain ⟨ahead, behind, parts, placed, before, after⟩ := placeBefore_split later x zs
      refine ⟨z :: ahead, behind, congrArg (z :: ·) parts, (if_neg first).trans (congrArg (z :: ·) placed), ?_, after⟩
      exact List.forall_mem_cons.mpr ⟨Bool.eq_false_iff.mpr first, before⟩

theorem makeRoom_of_room {s : State} (room : s.peers.pendingVerdicts.length < 4) : s.makeRoom = s := by
  unfold State.makeRoom
  split
  · exact if_neg (Nat.not_le.mpr room)
  · rfl

/-- A full list resolves its first entry UNMEASURED (R161). -/
theorem makeRoom_full {s : State} {first : PendingVerdict} {rest : List PendingVerdict}
    (list : s.peers.pendingVerdicts = first :: rest) (full : 3 ≤ rest.length) :
    s.makeRoom = (s.withPending rest).issueUnmeasured first.verdict := by
  have four : 4 ≤ (first :: rest).length := Nat.succ_le_succ full
  unfold State.makeRoom State.resolveUnmeasured PeerMonitor.takePending State.withPending
  rw [list]
  dsimp only
  rw [if_pos four, List.erase_cons_head]

theorem issueUnmeasured_pending (s : State) (v : Verdict) :
    (s.issueUnmeasured v).peers.pendingVerdicts = s.peers.pendingVerdicts := by
  rw [issueUnmeasured_eq, (raise_keeps _ _).proxies, issue_peers]

/-- The pending entry of a verdict, with its deadline (R161). -/
def State.pendingOf (s : State) (v : Verdict) : PendingVerdict := ⟨v, v.endStamp.time + s.config.proxyWait * second⟩

/-- The handoff without a candidate (R161). -/
theorem handOff_none {s : State} {v : Verdict} (none : ∀ c, ¬ (c ∈ s.peers.cache ∧ s.Fits c v)) :
    s.handOff v = if (s.pendingOf v).deadline < s.now then s.makeRoom.issueUnmeasured v
      else s.makeRoom.setPeers (s.makeRoom.peers.placeProxy (s.pendingOf v)) := by
  unfold State.handOff
  rw [candidateFor_none none]
  rfl

/-- An entry joins the pending list in order of end stamp (R161). -/
theorem placeProxy_placed (p : PeerMonitor) (e : PendingVerdict) : ∃ ahead behind,
    p.pendingVerdicts = ahead ++ behind ∧ (p.placeProxy e).pendingVerdicts = ahead ++ e :: behind ∧
      (∀ y ∈ ahead, y.verdict.endStamp.time ≤ e.verdict.endStamp.time) ∧
      (∀ y, behind.head? = some y → e.verdict.endStamp.time < y.verdict.endStamp.time) := by
  obtain ⟨ahead, behind, parts, placed, before, after⟩ :=
    placeBefore_split (fun y => e.verdict.endStamp.time < y.verdict.endStamp.time) e p.pendingVerdicts
  exact ⟨ahead, behind, parts, placed, fun y early => Nat.le_of_not_lt (of_decide_eq_false (before y early)),
    fun y late => of_decide_eq_true (after y late)⟩

/-! ### Checking a cache entry (R160, R162) -/

/-- The check of one pending entry against a cache entry (R162). -/
def State.checkPending (c : CacheEntry) (t : State) (e : PendingVerdict) : State :=
  if t.isCandidate c e.verdict then (t.setPeers (t.peers.takePending e)).resolveProxy e.verdict c else t

theorem checkEntry_eq (s : State) (c : CacheEntry) :
    s.checkEntry c = s.peers.pendingVerdicts.foldl (State.checkPending c) s := rfl

theorem checkPending_skips {s : State} {c : CacheEntry} : ∀ {l : List PendingVerdict},
    (∀ e ∈ l, ¬ s.Fits c e.verdict) → l.foldl (State.checkPending c) s = s
  | [], _ => rfl
  | e :: l, unfit => by
    have first : State.checkPending c s e = s := if_neg fun candidate =>
      unfit e (List.mem_cons_self ..) ((isCandidate_iff s c e.verdict).mp candidate)
    rw [List.foldl_cons, first]
    exact checkPending_skips fun x member => unfit x (List.mem_cons_of_mem _ member)

theorem checkEntry_unfit {s : State} {c : CacheEntry} (unfit : ∀ e ∈ s.peers.pendingVerdicts, ¬ s.Fits c e.verdict) :
    s.checkEntry c = s := checkPending_skips unfit

/-- The first entry that fits is resolved, and the check goes on behind it (R162). -/
theorem checkEntry_fit {s : State} {c : CacheEntry} {older newer : List PendingVerdict} {e : PendingVerdict}
    (list : s.peers.pendingVerdicts = older ++ e :: newer) (unfit : ∀ x ∈ older, ¬ s.Fits c x.verdict)
    (fits : s.Fits c e.verdict) : s.checkEntry c =
      ((s.withPending (older ++ newer)).resolveProxy e.verdict c).checkEntry c := by
  have first : e ∉ older := fun member => unfit e member fits
  have left : s.peers.takePending e = { s.peers with pendingVerdicts := older ++ newer } := by
    unfold PeerMonitor.takePending
    rw [list, List.erase_append_right _ first, List.erase_cons_head]
  have resolved : State.checkPending c s e =
      (s.withPending (older ++ newer)).resolveProxy e.verdict c :=
    (if_pos ((isCandidate_iff s c e.verdict).mpr fits)).trans (by rw [left, State.withPending])
  obtain ⟨table, pending, -⟩ := resolveProxy_peers (s.withPending (older ++ newer)) e.verdict c
  have still : ∀ x ∈ older, ¬ ((s.withPending (older ++ newer)).resolveProxy e.verdict c).Fits c x.verdict :=
    fun x member => mt (fits_of_table (s := s) table c x.verdict).mp (unfit x member)
  have behind : ((s.withPending (older ++ newer)).resolveProxy e.verdict c).peers.pendingVerdicts = older ++ newer :=
    pending
  rw [checkEntry_eq s, checkEntry_eq, behind, list, List.foldl_append, List.foldl_cons, checkPending_skips unfit,
    resolved, List.foldl_append, checkPending_skips still]

/-- The peers of the own service, whose verdicts are kept (R160). -/
theorem takeVerdict_eq (s : State) (station : Byte) (rx : FrameRx) (v : VerdictNotice) :
    let c : CacheEntry := ⟨station, v, rx.stamp⟩
    let accepted := ∃ e p, s.peer? station = some e ∧ e.status = some p ∧ p.serviceId = s.config.serviceId
    (¬ accepted → s.takeVerdict station rx v = s) ∧
    (accepted → s.takeVerdict station rx v =
      (s.setPeers { s.peers with cache := storeVerdict c s.peers.cache }).checkEntry c) := by
  intro c accepted
  have test : (s.peer? station).any (fun e => e.status.any (fun p => p.serviceId == s.config.serviceId)) = true ↔
      accepted := by
    simp [accepted, Option.any_eq_true, ← exists_and_left]
  exact ⟨fun refused => if_neg (mt test.mp refused), fun taken => if_pos (test.mpr taken)⟩

/-- A stored verdict takes the place of the sender's earlier one of that kind and id (R160). -/
theorem storeVerdict_eq (c : CacheEntry) (cache : List CacheEntry) : storeVerdict c cache =
    newest 8 (cache.filter (fun x => !decide (x.sender = c.sender ∧ x.verdict.kind = c.verdict.kind ∧
      x.verdict.id = c.verdict.id)) ++ [c]) := by
  refine congrArg (fun l => newest 8 (l ++ [c])) (List.filter_congr fun x _ => congrArg Bool.not ?_)
  rw [Bool.eq_iff_iff]
  simp [and_assoc]

/-! ### Dealing with a verdict (R72, R76) -/

section Deal

variable {s : State} {v : Verdict}

theorem deal_clear (clear : v.impaired = false) : s.deal v = s.issueOwn v := by
  unfold State.deal
  rw [clear]
  rfl

theorem deal_regional (impaired : v.impaired = true) (regional : v.scope = .regional) :
    s.deal v = s.issueUnmeasured v := by
  unfold State.deal
  rw [impaired, regional]
  rfl

theorem deal_national (impaired : v.impaired = true) (national : v.scope = .national) : s.deal v = s.handOff v := by
  unfold State.deal
  rw [impaired, national]
  rfl

theorem deal_overdue (impaired : v.impaired = true) (national : v.scope = .national)
    (none : ∀ c, ¬ (c ∈ s.peers.cache ∧ s.Fits c v)) (late : (s.pendingOf v).deadline < s.now) :
    s.deal v = s.makeRoom.issueUnmeasured v :=
  (deal_national impaired national).trans ((handOff_none none).trans (if_pos late))

theorem deal_waits (impaired : v.impaired = true) (national : v.scope = .national)
    (none : ∀ c, ¬ (c ∈ s.peers.cache ∧ s.Fits c v)) (early : s.now ≤ (s.pendingOf v).deadline) :
    s.deal v = s.makeRoom.setPeers (s.makeRoom.peers.placeProxy (s.pendingOf v)) :=
  (deal_national impaired national).trans ((handOff_none none).trans (if_neg (Nat.not_lt.mpr early)))

theorem deal_candidate (impaired : v.impaired = true) (national : v.scope = .national) {c : CacheEntry}
    (candidate : c ∈ s.peers.cache ∧ s.Fits c v)
    (lowest : ∀ x, x ∈ s.peers.cache ∧ s.Fits x v → x ≠ c → c.sender.toNat < x.sender.toNat) :
    s.deal v = s.resolveProxy v c := by
  rw [deal_national impaired national]
  unfold State.handOff
  rw [candidateFor_lowest candidate.1 candidate.2 lowest]

/-- The notice of a verdict with the mark clear carries it clear (R77, R136). -/
theorem issueOwn_clear (clear : v.impaired = false) : s.issueOwn v =
    ((s.issue { v with source := .own }).offer (.verdict ⟨v.kind, v.id, v.cls, v.scope, v.startStamp, v.endStamp,
      v.figures, v.coverage, false⟩) []).checkLoudness { v with source := .own } false := by
  rw [issueOwn_eq, State.noticed, Verdict.notice, clear]

/-- A verdict issued OWN against the band of its profile (R74): outside it, a record of it; inside, the log as it was. -/
theorem issueOwn_log {i : Int} (room : s.log.records.length < 127) (figure : v.figures.integrated = some i) :
    let profile := s.config.profile v.cls
    let recorded := fun category => ∃ r ∈ (s.issueOwn v).log.records, r.category = category ∧
      r.startStamp = v.startStamp ∧ r.endStamp = some v.endStamp ∧ r.figure = some i ∧ r.segmentId = v.id
    (profile.target + profile.tolerance < i → recorded .loudnessHigh) ∧
    (i < profile.target - profile.tolerance → recorded .loudnessLow) ∧
    (profile.target - profile.tolerance ≤ i → i ≤ profile.target + profile.tolerance →
      (s.issueOwn v).log = s.log) := by
  dsimp only
  rw [← noticed_log s v] at room
  rw [← noticed_config s v, ← noticed_log s v, issueOwn_eq]
  refine ⟨fun high => ?_, fun low => ?_, fun above below => ?_⟩
  · rw [checkLoudness_high (v := { v with source := .own }) figure high]
    exact raise_outside_record room _ _ _ _
  · rw [checkLoudness_low (v := { v with source := .own }) figure low]
    exact raise_outside_record room _ _ _ _
  · rw [checkLoudness_inside (v := { v with source := .own }) figure above below]

theorem issueOwn_log_none (none : v.figures.integrated = none) : (s.issueOwn v).log = s.log := by
  rw [issueOwn_eq, checkLoudness_none (v := { v with source := .own }) none, noticed_log]

end Deal

/-- Settles O46: the loudness check by the band, a formed verdict by its mark, scope and candidates, a cache entry by the
first pending verdict it fits. -/
theorem verdictRouting : Obligations.VerdictRouting := by
  refine ⟨fun s v proxy => ⟨checkLoudness_none, fun i figure =>
      ⟨checkLoudness_high figure, checkLoudness_low figure, checkLoudness_inside figure⟩⟩,
    fun s v => ⟨fun clear => ?clear, fun impaired regional => ?regional,
      fun impaired national none late => ⟨fun room => ?overdue, fun first rest list full => ?overdueFull⟩,
      fun impaired national none early => ⟨fun room => ?waits, fun first rest list full => ?waitsFull⟩,
      fun c impaired national candidate lowest => ?proxied⟩,
    fun s v c => rfl, fun s station rx v => ?taken, fun s c => ⟨checkEntry_unfit, fun older e newer => checkEntry_fit⟩,
    fun s station => rfl⟩
  case clear =>
    rw [deal_clear clear]
    exact ⟨issueOwn_history s v, issueOwn_clear clear, fun room i figure => issueOwn_log room figure, issueOwn_log_none⟩
  case regional =>
    rw [deal_regional impaired regional]
    exact ⟨rfl, issueUnmeasured_history s v, fun room => issueUnmeasured_record room v⟩
  case overdue =>
    rw [deal_overdue impaired national none late, makeRoom_of_room room]
    rfl
  case overdueFull =>
    rw [deal_overdue impaired national none late, makeRoom_full list full]
    rfl
  case waits =>
    rw [deal_waits impaired national none early, makeRoom_of_room room]
    exact ⟨placeProxy_placed s.peers (s.pendingOf v), rfl⟩
  case waitsFull =>
    rw [deal_waits impaired national none early, makeRoom_full list full]
    have left := issueUnmeasured_pending (s.withPending rest) first.verdict
    refine ⟨?_, _, rfl, rfl⟩
    have placed := placeProxy_placed ((s.withPending rest).issueUnmeasured first.verdict).peers (s.pendingOf v)
    rw [left] at placed
    exact placed
  case proxied =>
    obtain ⟨-, pending, cache⟩ := resolveProxy_peers s v c
    rw [deal_candidate impaired national candidate lowest]
    exact ⟨rfl, resolveProxy_history s v c, pending, cache⟩
  case taken =>
    have stored := takeVerdict_eq s station rx v
    dsimp only at stored
    rw [storeVerdict_eq] at stored
    exact stored

end Sys2Proof.Machine
end

section
/-! PROOF. Peaks and the histogram: the peak figure as a logarithm rounded (R66), the magnitudes credited (R65), the bins
of a histogram and the gate (R62, R64). -/

namespace Sys2Proof.Machine

/-! ### The peak figure (R66) -/

/-- The exact peak of a magnitude in multiples of 2^-27, in tenths of a dB, before rounding (R66). -/
noncomputable def exactPeak (magnitude : Nat) : ℝ := 10 * (20 * Real.logb 10 ((magnitude : ℝ) / 2 ^ 27))

/-- The integer test of R66 is the bound it stands for: n - 0.5 is at most the exact peak. -/
theorem peakAtLeast_iff {magnitude : Nat} (nonzero : 0 < magnitude) (n : Int) :
    peakAtLeast magnitude n = true ↔ n ≤ ⌊exactPeak magnitude + 1 / 2⌋ := by
  have quotient : ((magnitude ^ 400 : Nat) : ℝ) / ((2 ^ 10800 : Nat) : ℝ) = ((magnitude : ℝ) / 2 ^ 27) ^ 400 := by
    rw [div_pow, ← pow_mul, Nat.cast_pow, Nat.cast_pow, Nat.cast_ofNat]
  have scale : 0 < 2 ^ 10800 := pow_pos Nat.two_pos _
  have power : peakAtLeast magnitude n = true ↔ (10 : ℝ) ^ (2 * n - 1) ≤ ((magnitude : ℝ) / 2 ^ 27) ^ 400 := by
    rw [← quotient]
    unfold peakAtLeast
    split
    · next up => exact decide_eq_true_iff.trans (tenPow_mul_le_iff scale up)
    · next down => exact decide_eq_true_iff.trans (le_mul_tenPow_iff scale (by omega))
  have positive : (0 : ℝ) < (magnitude : ℝ) / 2 ^ 27 := div_pos (Nat.cast_pos.mpr nonzero) (by positivity)
  rw [power, tenPow_le_pow_iff positive, Int.le_floor]
  unfold exactPeak
  push_cast
  constructor <;> intro h <;> linarith

theorem peakFigure_zero : peakFigure 0 = -999 := if_pos rfl

/-- Rounding to the nearest with ties to the greater, within the limits of the search (R66). -/
theorem peakFigure_of_pos {magnitude : Nat} (nonzero : 0 < magnitude) :
    peakFigure magnitude = max (-999) (min 19 ⌊exactPeak magnitude + 1 / 2⌋) :=
  (if_neg (Nat.ne_of_gt nonzero)).trans
    (greatest_sub_eq (peakAtLeast_iff nonzero) (span := 1018) (by norm_num) (by norm_num))

/-- A greater magnitude has no lesser figure (R66). -/
theorem peakFigure_mono {m n : Nat} (le : m ≤ n) : peakFigure m ≤ peakFigure n := by
  rcases Nat.eq_zero_or_pos m with rfl | positive
  · rcases Nat.eq_zero_or_pos n with rfl | nonzero
    · exact Int.le_refl _
    · rw [peakFigure_zero, peakFigure_of_pos nonzero]
      exact le_max_left _ _
  · have nonzero : 0 < n := Nat.lt_of_lt_of_le positive le
    have scaled : (m : ℝ) / 2 ^ 27 ≤ (n : ℝ) / 2 ^ 27 := div_le_div_of_nonneg_right (Nat.cast_le.mpr le) (by positivity)
    have peaks : exactPeak m ≤ exactPeak n := by
      have logarithms := (Real.logb_le_logb (by norm_num : (1 : ℝ) < 10) (by positivity) (by positivity)).mpr scaled
      unfold exactPeak
      linarith
    rw [peakFigure_of_pos positive, peakFigure_of_pos nonzero]
    exact max_le_max_left _ (min_le_min_left _ (Int.floor_le_floor (by linarith)))

/-! ### Magnitudes (R65, R66) -/

theorem creditedMagnitude_short {history : List Int} (short : history.length < 3) (x : Int) :
    creditedMagnitude history x = (16 * x).natAbs := by
  unfold creditedMagnitude
  split
  · exact absurd short (by simp)
  · rw [Int.mul_comm]

/-- Behind three samples the midpoint estimate is credited too (R65). -/
theorem creditedMagnitude_three (a b c x : Int) :
    creditedMagnitude [a, b, c] x = max (16 * x).natAbs (9 * b + 9 * c - a - x).natAbs := by
  rw [Int.mul_comm]
  rfl

theorem greatestOf_eq (l : List Nat) : greatestOf l = l.max?.getD 0 := by
  unfold greatestOf
  rw [List.foldl_max, Nat.zero_max]

theorem le_greatestOf {l : List Nat} {m : Nat} (member : m ∈ l) : m ≤ greatestOf l :=
  greatestOf_eq l ▸ List.le_max?_getD_of_mem member

theorem greatestOf_mem {l : List Nat} (some : l ≠ []) : greatestOf l ∈ l := by
  rw [greatestOf_eq]
  cases greatest : l.max? with
  | none => exact absurd (List.max?_eq_none_iff.mp greatest) some
  | some m => exact List.max?_mem greatest

/-- Channel maxima are merged by index (log 38). -/
theorem maxEach_getD : ∀ (l m : List Nat) (i : Nat), (maxEach l m).getD i 0 = max (l.getD i 0) (m.getD i 0)
  | [], m, i => by simp [maxEach]
  | x :: xs, [], i => by simp [maxEach]
  | x :: xs, y :: ys, 0 => rfl
  | x :: xs, y :: ys, i + 1 => maxEach_getD xs ys i

/-! ### The bins of a histogram (R62) -/

/-- Where a bin stands, or goes, in a histogram whose bins rise. -/
theorem bins_split {h : List Bin} (rising : h.Pairwise (fun x y => x.bin < y.bin)) (k : Nat) :
    ∃ before after : List Bin, (∀ x ∈ before, x.bin < k) ∧ (∀ x ∈ after, k < x.bin) ∧
      (h = before ++ after ∨ ∃ x, x.bin = k ∧ h = before ++ x :: after) := by
  induction rising with
  | nil => exact ⟨[], [], by simp, by simp, .inl rfl⟩
  | @cons x xs first _ ih =>
    rcases Nat.lt_trichotomy x.bin k with less | same | more
    · obtain ⟨before, after, below, above, parts⟩ := ih
      refine ⟨x :: before, after, List.forall_mem_cons.mpr ⟨less, below⟩, above, ?_⟩
      exact parts.imp (congrArg (x :: ·)) fun ⟨y, is, parts⟩ => ⟨y, is, congrArg (x :: ·) parts⟩
    · exact ⟨[], xs, by simp, fun y member => same ▸ first y member, .inr ⟨x, same, rfl⟩⟩
    · refine ⟨[], x :: xs, by simp, List.forall_mem_cons.mpr ⟨more, fun y member => ?_⟩, .inl rfl⟩
      exact Nat.lt_trans more (first y member)

/-- A block goes past the lower bins. -/
theorem enterBin_past {k : Nat} (energy : Nat) (l : List Bin) : ∀ {before : List Bin}, (∀ x ∈ before, x.bin < k) →
    enterBin k energy (before ++ l) = before ++ enterBin k energy l
  | [], _ => rfl
  | x :: xs, below => by
    obtain ⟨first, rest⟩ := List.forall_mem_cons.mp below
    rw [List.cons_append, List.cons_append, ← enterBin_past energy l rest, enterBin,
      if_neg (Nat.lt_asymm first), if_neg (Nat.ne_of_gt first)]

theorem enterBin_new {k : Nat} (energy : Nat) {after : List Bin} (above : ∀ x ∈ after, k < x.bin) :
    enterBin k energy after = ⟨k, 1, energy⟩ :: after := by
  cases after with
  | nil => rfl
  | cons x xs => exact if_pos (above x (List.mem_cons_self ..))

/-- A bin after a block: it grows unless its count holds (R62). -/
def Bin.grown (energy : Nat) (x : Bin) : Bin :=
  if x.count < 4294967295 then ⟨x.bin, x.count + 1, x.energySum + energy⟩ else x

theorem Bin.grown_bin (energy : Nat) (x : Bin) : (x.grown energy).bin = x.bin := by
  unfold Bin.grown
  split <;> rfl

theorem enterBin_held (energy : Nat) (x : Bin) (after : List Bin) :
    enterBin x.bin energy (x :: after) = x.grown energy :: after := by
  rw [enterBin, if_neg (Nat.lt_irrefl _), if_pos rfl]
  rfl

/-- What a block of bin `k` makes of a histogram whose bins rise (R62). -/
structure Entered (k energy : Nat) (h t : List Bin) : Prop where
  rising : t.Pairwise (fun x y => x.bin < y.bin)
  others : t.filter (fun x => x.bin != k) = h.filter (fun x => x.bin != k)
  fresh  : (∀ x ∈ h, x.bin ≠ k) → ⟨k, 1, energy⟩ ∈ t
  grows  : ∀ x ∈ h, x.bin = k → x.count < 4294967295 → ⟨k, x.count + 1, x.energySum + energy⟩ ∈ t
  holds  : ∀ x ∈ h, x.bin = k → 4294967295 ≤ x.count → t = h

/-- Bins rise through a bin `k` between lower and higher ones. -/
theorem rising_through {before after : List Bin} {x : Bin}
    (rising : (before ++ after).Pairwise (fun x y => x.bin < y.bin))
    (below : ∀ y ∈ before, y.bin < x.bin) (above : ∀ y ∈ after, x.bin < y.bin) :
    (before ++ x :: after).Pairwise (fun x y => x.bin < y.bin) := by
  obtain ⟨first, last, across⟩ := List.pairwise_append.mp rising
  refine List.pairwise_append.mpr ⟨first, List.pairwise_cons.mpr ⟨above, last⟩, fun y early z late => ?_⟩
  rcases List.mem_cons.mp late with rfl | behind
  · exact below y early
  · exact across y early z behind

theorem enterBin_entered {h : List Bin} (rising : h.Pairwise (fun x y => x.bin < y.bin)) (k energy : Nat) :
    Entered k energy h (enterBin k energy h) := by
  obtain ⟨before, after, below, above, rfl | ⟨x, rfl, rfl⟩⟩ := bins_split rising k
  · have none : ∀ y ∈ before ++ after, y.bin ≠ k := fun y member =>
      (List.mem_append.mp member).elim (fun early => Nat.ne_of_lt (below y early)) fun late => Nat.ne_of_gt (above y late)
    rw [enterBin_past energy after below, enterBin_new energy above]
    exact {
      rising := rising_through rising below above
      others := by simp [List.filter_append]
      fresh := fun _ => by simp
      grows := fun y member same => absurd same (none y member)
      holds := fun y member same => absurd same (none y member) }
  · have only : ∀ y ∈ before ++ x :: after, y.bin = x.bin → y = x := fun y member same =>
      (List.mem_append.mp member).elim (fun early => absurd same (Nat.ne_of_lt (below y early))) fun late =>
        (List.mem_cons.mp late).elim id fun behind => absurd same (Nat.ne_of_gt (above y behind))
    have shorter : (before ++ after).Pairwise (fun x y => x.bin < y.bin) :=
      rising.sublist (List.Sublist.append_left (List.sublist_cons_self x after) before)
    rw [enterBin_past energy _ below, enterBin_held]
    exact {
      rising := rising_through shorter (by simpa [Bin.grown_bin] using below) (by simpa [Bin.grown_bin] using above)
      others := by simp [List.filter_append, Bin.grown_bin]
      fresh := fun none => absurd rfl (none x (by simp))
      grows := fun y member same room => by
        obtain rfl := only y member same
        simp [Bin.grown, room]
      holds := fun y member same full => by
        obtain rfl := only y member same
        rw [Bin.grown, if_neg (Nat.not_lt.mpr full)] }

theorem enterBlock_gated {energy : Nat} {momentary : Int} {h : List Bin} (gated : momentary < -7000) :
    enterBlock energy momentary h = h := if_pos gated

theorem enterBlock_entered {h : List Bin} (rising : h.Pairwise (fun x y => x.bin < y.bin)) (energy : Nat)
    {momentary : Int} (counted : -7000 ≤ momentary) :
    Entered ((momentary + 7000) / 10).toNat energy h (enterBlock energy momentary h) := by
  unfold enterBlock
  rw [if_neg (Int.not_lt.mpr counted)]
  exact enterBin_entered rising _ energy

/-! ### The gate (R64) -/

theorem gateBin_le_iff (gate : Int) (bin : Nat) : gateBin gate ≤ bin ↔ gate + 7000 ≤ 10 * (bin : Int) := by
  unfold gateBin
  omega

theorem integratedLoudness_none {h : List Bin} (none : countSum h = 0) : integratedLoudness h = .none := if_pos none

/-- The bins at or above the relative gate are integrated (R64). -/
theorem integratedLoudness_some {h : List Bin} (some : 0 < countSum h) :
    let gate := loudnessOfQuotient (energyTotal h) (countSum h * 2 ^ 48) - 1000
    let gated := h.filter (fun x => decide (gate + 7000 ≤ 10 * (x.bin : Int)))
    integratedLoudness h = .some (loudnessOfQuotient (energyTotal gated) (countSum gated * 2 ^ 48)) := by
  intro gate gated
  have same : h.filter (fun x => gateBin gate ≤ x.bin) = gated :=
    List.filter_congr fun x _ => decide_eq_decide.mpr (gateBin_le_iff gate x.bin)
  refine (if_neg (Nat.ne_of_gt some)).trans ?_
  change Option.some (loudnessOfQuotient (energyTotal (h.filter (fun x => gateBin gate ≤ x.bin)))
    (countSum (h.filter (fun x => gateBin gate ≤ x.bin)) * 2 ^ 48)) = _
  rw [same]

end Sys2Proof.Machine
end

section
/-! PROOF. The measurement contexts and the two breaches judged within a segment (R60 to R71). Settles O45. -/

namespace Sys2Proof.Machine

/-! ### PEAK_EXCESS (R68) -/

/-- A sub-block belongs to the open SEGMENT context (R61). -/
def State.Measures (s : State) (r : SubBlock) : Prop :=
  ∃ c, s.loudness.segmentCtx = some c ∧ r.opening.segment = c.opening

theorem measures_iff (s : State) (r : SubBlock) :
    s.loudness.segmentCtx.any (fun c => r.opening.inSegment c) = true ↔ s.Measures r := by
  simp [State.Measures, Opening.inSegment, Option.any_eq_true]

/-- PEAK_EXCESS is raised by a sub-block (R68). -/
def State.PeakExceeds (s : State) (r : SubBlock) (peaks : List Nat) : Prop :=
  s.Measures r ∧ s.loudness.peakRaised = false ∧ r.impaired = false ∧
    (s.config.profile s.segments.current.cls).peakLimit < peakFigure (greatestOf peaks)

theorem peakExceeds_iff (s : State) (r : SubBlock) (peaks : List Nat) :
    (s.loudness.segmentCtx.any (fun c => r.opening.inSegment c) && !s.loudness.peakRaised && !r.impaired
      && (s.config.profile s.segments.current.cls).peakLimit < peakFigure (greatestOf peaks)) = true ↔
    s.PeakExceeds r peaks := by
  unfold State.PeakExceeds
  rw [← measures_iff]
  simp [and_assoc]

theorem judgePeak_raises {s : State} {r : SubBlock} {peaks : List Nat} (judged : s.PeakExceeds r peaks) :
    s.judgePeak r peaks = (s.setLoudness { s.loudness with peakRaised := true }).raise
      { category := .peakExcess, startStamp := r.lastStamp, segment := some s.segments.current.name
        impaired := s.segments.current.impaired } := if_pos ((peakExceeds_iff s r peaks).mpr judged)

theorem judgePeak_passes {s : State} {r : SubBlock} {peaks : List Nat} (passed : ¬ s.PeakExceeds r peaks) :
    s.judgePeak r peaks = s := if_neg (mt (peakExceeds_iff s r peaks).mp passed)

/-- The judgement of PEAK_EXCESS touches the Loudness Unit's mark alone. -/
theorem judgePeak_loudness (s : State) (r : SubBlock) (peaks : List Nat) : (s.judgePeak r peaks).loudness =
    { s.loudness with peakRaised := (s.judgePeak r peaks).loudness.peakRaised } := by
  by_cases judged : s.PeakExceeds r peaks
  · rw [judgePeak_raises judged, (raise_keeps _ _).loudness]
    rfl
  · rw [judgePeak_passes judged]

/-! ### The short-term excess run (R70, R71) -/

/-- The state with another short-term excess run. -/
def State.withExcess (s : State) (x : ExcessRun) : State := s.setLoudness { s.loudness with excess := x }

/-- The records of the ring from the same opening of a segment as a sub-block's (R54). -/
def State.sameSegment (s : State) (r : SubBlock) : List SubBlock :=
  s.loudness.ring.filter (fun x => x.opening.segment == r.opening.segment)

/-- The short-term excess run is active at a sub-block (R70). -/
def State.ExcessActive (s : State) (r : SubBlock) : Prop :=
  (s.segments.current.cls = .advert ∨ s.segments.current.cls = .promotion) ∧
    (s.config.profile s.segments.current.cls).margin ≠ 0 ∧ r.impaired = false ∧ 10 ≤ (s.sameSegment r).length ∧
    s.Measures r

/-- The figure a sub-block's opening of a segment is judged by (R54, R70). -/
def State.excessFigure (s : State) (r : SubBlock) : Int :=
  loudnessOf (((s.sameSegment r).map (fun x => x.energy)).sum / (s.sameSegment r).length)

theorem excessLevel_iff (p : ClassProfile) (cls : SegClass) (level : Int) : excessLevel p cls = some level ↔
    (cls = .advert ∨ cls = .promotion) ∧ p.margin ≠ 0 ∧ p.target + p.margin = level := by
  cases cls <;> simp [excessLevel]

theorem segmentShortTerm_iff (s : State) (r : SubBlock) (figure : Int) :
    segmentShortTerm s.loudness.ring r.opening = some figure ↔
      10 ≤ (s.sameSegment r).length ∧ s.excessFigure r = figure := by
  change shortTermOf (s.sameSegment r) = some figure ↔ _
  rw [shortTermOf_eq]
  split
  · next short => simp [Nat.not_le.mpr short]
  · next long => simp [Nat.le_of_not_lt long, State.excessFigure]

theorem clear_measures_iff (s : State) (r : SubBlock) :
    (r.impaired || !s.loudness.segmentCtx.any (fun c => r.opening.inSegment c)) = false ↔
      r.impaired = false ∧ s.Measures r := by
  rw [← measures_iff]
  simp

theorem stepExcess_idle {s : State} {r : SubBlock} (idle : ¬ s.ExcessActive r) : s.stepExcess r = s := by
  unfold State.stepExcess
  dsimp only
  split
  · next level figure isLevel isFigure =>
    obtain ⟨cls, margin, -⟩ := (excessLevel_iff _ _ _).mp isLevel
    obtain ⟨ten, -⟩ := (segmentShortTerm_iff s r figure).mp isFigure
    refine if_pos (Bool.eq_true_of_not_eq_false fun measured => ?_)
    obtain ⟨clear, measures⟩ := (clear_measures_iff s r).mp measured
    exact idle ⟨cls, margin, clear, ten, measures⟩
  · rfl

section ExcessRun

variable {s : State} {r : SubBlock} (active : s.ExcessActive r)

include active

theorem stepExcess_active : s.stepExcess r =
    let profile := s.config.profile s.segments.current.cls
    if profile.target + profile.margin < s.excessFigure r then
      (s.withExcess (s.loudness.excess.above (s.excessFigure r) r.lastStamp)).openExcess
    else (s.closeExcess r.lastStamp).withExcess .initial := by
  obtain ⟨cls, margin, clear, ten, measures⟩ := active
  unfold State.stepExcess
  dsimp only
  rw [(excessLevel_iff _ _ _).mpr ⟨cls, margin, rfl⟩, (segmentShortTerm_iff s r _).mpr ⟨ten, rfl⟩]
  dsimp only
  rw [(clear_measures_iff s r).mpr ⟨clear, measures⟩]
  rfl

theorem stepExcess_below (below : s.excessFigure r ≤ (s.config.profile s.segments.current.cls).target +
    (s.config.profile s.segments.current.cls).margin) :
    s.stepExcess r = (s.closeExcess r.lastStamp).withExcess .initial :=
  (stepExcess_active active).trans (if_neg (Int.not_lt.mpr below))

theorem stepExcess_above (above : (s.config.profile s.segments.current.cls).target +
    (s.config.profile s.segments.current.cls).margin < s.excessFigure r) :
    s.stepExcess r = (s.withExcess (s.loudness.excess.above (s.excessFigure r) r.lastStamp)).openExcess :=
  (stepExcess_active active).trans (if_pos above)

end ExcessRun

theorem closeExcess_closed {s : State} (closed : s.loudness.excess.recordOpen = false) (stop : Stamp) :
    s.closeExcess stop = s := if_neg (Bool.eq_false_iff.mp closed)

theorem closeExcess_open {s : State} (open_ : s.loudness.excess.recordOpen = true) (stop : Stamp) :
    s.closeExcess stop = (s.withExcess { s.loudness.excess with recordOpen := false }).closeBreach .shortTermExcess stop
      s.loudness.excess.maximum s.segments.current.impaired := if_pos open_

theorem openExcess_early {s : State} (early : s.loudness.excess.count ≠ 30) : s.openExcess = s := by
  unfold State.openExcess
  split
  · rfl
  · exact if_neg fun due => early due.1

theorem openExcess_open {s : State} (open_ : s.loudness.excess.recordOpen = true) : s.openExcess = s := by
  unfold State.openExcess
  split
  · rfl
  · exact if_neg fun due => Bool.false_ne_true (due.2.symm.trans open_)

/-- The thirtieth figure above the level opens the record (R71). -/
theorem openExcess_due {s : State} {start : Stamp} (started : s.loudness.excess.start = some start)
    (thirty : s.loudness.excess.count = 30) (closed : s.loudness.excess.recordOpen = false) :
    s.openExcess = (s.withExcess { s.loudness.excess with recordOpen := true }).raise
      { category := .shortTermExcess, startStamp := start, segment := some s.segments.current.name
        impaired := s.segments.current.impaired } := by
  unfold State.openExcess
  rw [started]
  exact if_pos ⟨thirty, closed⟩

theorem above_first {e : ExcessRun} (first : e.count = 0) (figure : Int) (last : Stamp) :
    e.above figure last = ⟨1, some last, some figure, e.recordOpen⟩ := if_pos first

theorem above_next {e : ExcessRun} (begun : 1 ≤ e.count) (early : e.count < 29) (figure : Int) (last : Stamp) :
    e.above figure last = ⟨e.count + 1, e.start, maxFigure e.maximum (some figure), e.recordOpen⟩ := by
  unfold ExcessRun.above
  rw [if_neg (Nat.ne_of_gt begun), Nat.min_eq_left (by omega)]

theorem above_late {e : ExcessRun} (late : 29 ≤ e.count) (figure : Int) (last : Stamp) :
    e.above figure last = ⟨30, e.start, maxFigure e.maximum (some figure), e.recordOpen⟩ := by
  unfold ExcessRun.above
  rw [if_neg (by omega), Nat.min_eq_right (by omega)]

theorem withExcess_loudness (s : State) (x : ExcessRun) : (s.withExcess x).loudness = { s.loudness with excess := x } :=
  rfl

/-! What the run's judgements change of the Loudness Unit: the run alone. -/

theorem closeExcess_loudness (s : State) (stop : Stamp) :
    ∃ x, (s.closeExcess stop).loudness = { s.loudness with excess := x } := by
  cases run : s.loudness.excess.recordOpen with
  | false => exact ⟨_, congrArg State.loudness (closeExcess_closed run stop)⟩
  | true => exact ⟨_, (congrArg State.loudness (closeExcess_open run stop)).trans (closeBreach_keeps _ _ _ _ _).loudness⟩

theorem openExcess_loudness (s : State) : ∃ x, s.openExcess.loudness = { s.loudness with excess := x } := by
  unfold State.openExcess
  split
  · exact ⟨_, rfl⟩
  · split
    · exact ⟨_, (raise_keeps _ _).loudness⟩
    · exact ⟨_, rfl⟩

theorem stepExcess_loudness (s : State) (r : SubBlock) :
    ∃ x, (s.stepExcess r).loudness = { s.loudness with excess := x } := by
  by_cases active : s.ExcessActive r
  · rw [stepExcess_active active]
    dsimp only
    split
    · obtain ⟨x, opened⟩ := openExcess_loudness (s.withExcess (s.loudness.excess.above (s.excessFigure r) r.lastStamp))
      exact ⟨x, opened⟩
    · obtain ⟨x, closed⟩ := closeExcess_loudness s r.lastStamp
      exact ⟨_, by rw [withExcess_loudness, closed]⟩
  · exact ⟨_, congrArg State.loudness (stepExcess_idle active)⟩

/-! ### Closing a context (R63, R69, R71) -/

/-- The records that close with a SEGMENT context: the excess run's, then PEAK_EXCESS where it was raised (R69, R71). -/
theorem closeExcess_closePeak {s : State} {c : Context} (open_ : s.loudness.segmentCtx = some c) (stop : Stamp)
    (impaired : Bool) : (s.closeExcess stop).closePeak stop impaired = if s.loudness.peakRaised then
      (s.closeExcess stop).closeBreach .peakExcess stop (some (peakFigure (greatestOf c.peaks))) impaired
    else s.closeExcess stop := by
  obtain ⟨x, closed⟩ := closeExcess_loudness s stop
  unfold State.closePeak
  rw [closed]
  dsimp only
  rw [open_]

theorem closePeak_keeps (s : State) (stop : Stamp) (impaired : Bool) : KeepsMeasured s (s.closePeak stop impaired) := by
  unfold State.closePeak
  split
  · exact .refl s
  · split
    · exact closeBreach_keeps _ _ _ _ _
    · exact .refl s

/-- What closing the SEGMENT context makes of the Loudness Unit, whichever records close with it (R63). -/
theorem closeSegmentContext_eq (s : State) (r : SegmentRecord) (stop : Stamp) :
    s.closeSegmentContext r stop = (((s.closeExcess stop).closePeak stop r.impaired).setLoudness { s.loudness with
        segmentCtx := none, peakRaised := false, excess := ⟨0, none, none, false⟩
        programmeCtx := s.loudness.programmeCtx.map (fun p => if r.opening.programme = some p.opening then
          { p with maxShortTerm := maxFigure p.maxShortTerm (s.loudness.segmentCtx.bind (fun c => c.maxShortTerm)) }
          else p) },
      s.loudness.segmentCtx.map (fun c => { c with endStamp := some stop, impaired := r.impaired })) := by
  obtain ⟨x, closed⟩ := closeExcess_loudness s stop
  have member : ∀ p : Context, (r.opening.inProgramme p = true) = (r.opening.programme = some p.opening) :=
    fun p => propext beq_iff_eq
  unfold State.closeSegmentContext
  dsimp only
  rw [(closePeak_keeps _ _ _).loudness, closed]
  simp only [member]
  rfl

/-! ### The block offered and the peaks credited (R61, R62, R66) -/

/-- A context behind a block chain: it takes the block of a full chain all of whose sub-blocks belong to it (R61). -/
def Context.offeredBlock (chain : List SubBlock) (belongs : SubBlock → Context → Bool) (c : Context) : Context :=
  if chain.length = 4 ∧ ∀ x ∈ chain, belongs x c = true then
    c.offer ((chain.map (fun x => x.energy)).sum / 4) (loudnessOf ((chain.map (fun x => x.energy)).sum / 4))
  else c

/-- A context behind a sub-block: the block of its chain, then its channel maxima (R61, R66). -/
def Context.credited (chain : List SubBlock) (r : SubBlock) (peaks : List Nat) (belongs : SubBlock → Context → Bool)
    (c : Context) : Context :=
  if belongs r c = true then (c.offeredBlock chain belongs).creditPeaks peaks else c.offeredBlock chain belongs

/-- A SEGMENT context takes the short-term figure of its own opening (R54, R61). -/
def Context.figured (r : SubBlock) (figure : Option Int) (c : Context) : Context :=
  if r.opening.inSegment c = true then { c with maxShortTerm := maxFigure c.maxShortTerm figure } else c

theorem offeredBlock_opening (chain : List SubBlock) (belongs : SubBlock → Context → Bool) (c : Context) :
    (c.offeredBlock chain belongs).opening = c.opening := by
  unfold Context.offeredBlock
  split <;> rfl

theorem offeredBlock_full {chain : List SubBlock} (full : chain.length = 4) (belongs : SubBlock → Context → Bool)
    (c : Context) : c.offeredBlock chain belongs = if chain.all (fun x => belongs x c) then
      c.offer (meanEnergy (chain.map (fun x => x.energy))) (loudnessOf (meanEnergy (chain.map (fun x => x.energy))))
      else c := by
  unfold Context.offeredBlock
  simp only [meanEnergy_map, full, true_and, List.all_eq_true]

theorem offeredBlock_short {chain : List SubBlock} (short : chain.length ≠ 4) (belongs : SubBlock → Context → Bool)
    (c : Context) : c.offeredBlock chain belongs = c := if_neg fun full => short full.1

/-- The block of a chain, offered to both contexts (R50, R52, R61). -/
theorem formBlock_eq (l : LoudnessUnit) : l.formBlock = { l with
    momentary := l.momentaryBehind l.chain
    segmentCtx := l.segmentCtx.map (Context.offeredBlock l.chain (fun x c => x.opening.inSegment c))
    programmeCtx := l.programmeCtx.map (Context.offeredBlock l.chain (fun x c => x.opening.inProgramme c)) } := by
  unfold LoudnessUnit.formBlock LoudnessUnit.momentaryBehind blockEnergy
  by_cases full : l.chain.length = 4
  · rw [if_pos full, if_pos full, ← meanEnergy_map]
    simp only [funext (offeredBlock_full full _)]
  · have still : ∀ belongs, Context.offeredBlock l.chain belongs = id := fun b => funext (offeredBlock_short full b)
    rw [if_neg full, if_neg full, still, still, Option.map_id_fun, id_eq, id_eq]

/-- The Loudness Unit behind the block and the peak credits of a sub-block (R50, R52, R61, R66). -/
theorem blocked_eq (l : LoudnessUnit) (r : SubBlock) (peaks : List Nat) :
    let chain := (l.take r).chain
    (l.take r).formBlock.creditPeaks r.opening peaks = { l.take r with
      momentary := l.momentaryBehind chain
      segmentCtx := l.segmentCtx.map (Context.credited chain r peaks (fun x c => x.opening.inSegment c))
      programmeCtx := l.programmeCtx.map (Context.credited chain r peaks (fun x c => x.opening.inProgramme c)) } := by
  intro chain
  have segment : ∀ c : Context, r.opening.inSegment (c.offeredBlock chain (fun x c => x.opening.inSegment c)) =
      r.opening.inSegment c := fun c => congrArg (r.opening.segment == ·) (offeredBlock_opening ..)
  have programme : ∀ c : Context, r.opening.inProgramme (c.offeredBlock chain (fun x c => x.opening.inProgramme c)) =
      r.opening.inProgramme c := fun c => congrArg (r.opening.programme == some ·) (offeredBlock_opening ..)
  rw [formBlock_eq]
  unfold LoudnessUnit.creditPeaks
  dsimp only
  rw [Option.map_map, Option.map_map]
  simp only [Function.comp_def, segment, programme, chain]
  rfl

/-! ### The Caption Checker leaves the Loudness Unit alone (R84) -/

theorem closeAbsent_loudness (s : State) (t : Stamp) : (s.closeAbsent t).loudness = s.loudness := by
  unfold State.closeAbsent
  split
  · exact (closeBreach_keeps _ _ _ _ _).loudness
  · rfl

theorem closeStuck_loudness (s : State) (t : Stamp) : (s.closeStuck t).loudness = s.loudness := by
  unfold State.closeStuck
  split
  · exact (closeBreach_keeps _ _ _ _ _).loudness
  · rfl

theorem openAbsent_loudness (s : State) (r : CheckingRecord) : (s.openAbsent r).loudness = s.loudness := by
  unfold State.openAbsent
  split
  · rfl
  · split
    · exact (raise_keeps _ _).loudness
    · rfl

theorem openStuck_loudness (s : State) (r : CheckingRecord) : (s.openStuck r).loudness = s.loudness := by
  unfold State.openStuck
  split
  · rfl
  · split
    · exact (raise_keeps _ _).loudness
    · rfl

theorem gapStep_loudness (s : State) (r : CheckingRecord) (j : Judgement) (i : Option CaptionIdentity) :
    (s.gapStep r j i).loudness = s.loudness := by
  unfold State.gapStep
  dsimp only
  split
  · exact closeAbsent_loudness s _
  · split
    · exact openAbsent_loudness _ _
    · rfl

theorem stuckStep_loudness (s : State) (r : CheckingRecord) (j : Judgement) (i : Option CaptionIdentity) :
    (s.stuckStep r j i).loudness = s.loudness := by
  unfold State.stuckStep
  dsimp only
  split
  · exact closeStuck_loudness s _
  · split
    · exact openStuck_loudness _ _
    · rfl

theorem judgeCaptions_loudness (s : State) (j : Judgement) : (s.judgeCaptions j).loudness = s.loudness := by
  unfold State.judgeCaptions State.captionSteps
  dsimp only
  split
  · rfl
  · split
    · exact (stuckStep_loudness _ _ _ _).trans (gapStep_loudness _ _ _ _)
    · rfl

/-! ### A completed sub-block and the contexts (R49) -/

/-- Behind the excess run a completion touches the Loudness Unit's signatures alone, and behind the captions no record
(R49, R56). -/
theorem completeSubBlock_behind (s : State) (b : SubBlockInProgress) (impaired : Bool) (g : MediaTime) :
    let r := b.record impaired
    let t := s.completeSubBlock b impaired g
    (∃ signature lastSub own, t.loudness = { (s.figured r b.peaks).loudness with
      signature := signature, lastSub := lastSub, ownHistory := own }) ∧ t.log = (s.heard r b.peaks).log := by
  intro r t
  have heard : (s.heard r b.peaks).loudness = (s.figured r b.peaks).loudness := judgeCaptions_loudness _ _
  have assigned : ∃ signature lastSub, (s.assigned r b.peaks).loudness = { (s.figured r b.peaks).loudness with
      signature := signature, lastSub := lastSub } := by
    rw [← heard]
    exact ⟨_, _, rfl⟩
  obtain ⟨signature, lastSub, is⟩ := assigned
  cases ends : isMediaSecond g with
  | false =>
    rw [show t = s.assigned r b.peaks from completeSubBlock_within ends s b impaired]
    exact ⟨⟨signature, lastSub, _, is⟩, State.setLoudness_log _ _⟩
  | true =>
    rw [show t = _ from completeSubBlock_second ends s b impaired]
    refine ⟨⟨none, lastSub, placeOwn (s.signatureBehind r) s.loudness.ownHistory, ?_⟩, ?_⟩
    · dsimp only [State.offerSignature, State.setLink_loudness, State.setLoudness_loudness]
      rw [is]
    · simp only [State.offerSignature, State.assigned, State.setLink_log, State.setLoudness_log, r]

/-- The state behind the block and the peak credits of a sub-block, before PEAK_EXCESS is judged (R61, R66; log 9). -/
def State.blocked (s : State) (r : SubBlock) (peaks : List Nat) : State :=
  s.setLoudness ((s.loudness.take r).formBlock.creditPeaks r.opening peaks)

/-- The state behind the short-term figures, before the excess run is judged (R53, R54; log 9). -/
def State.formed (s : State) (r : SubBlock) (peaks : List Nat) : State :=
  (s.peaked r peaks).setLoudness ((s.peaked r peaks).loudness.formShortTerm r.opening)

theorem peaked_loudness (s : State) (r : SubBlock) (peaks : List Nat) : ∃ raised, (s.peaked r peaks).loudness =
    { (s.loudness.take r).formBlock.creditPeaks r.opening peaks with peakRaised := raised } :=
  ⟨_, judgePeak_loudness (s.blocked r peaks) r peaks⟩

/-- The SEGMENT context behind the block, the peak credits and the figure of a sub-block (R61, R66). -/
theorem formed_segmentCtx (s : State) (r : SubBlock) (peaks : List Nat) : (s.formed r peaks).loudness.segmentCtx =
    s.loudness.segmentCtx.map (fun c =>
      (c.credited (s.loudness.take r).chain r peaks (fun x c => x.opening.inSegment c)).figured r
        (segmentShortTerm (s.loudness.take r).ring r.opening)) := by
  obtain ⟨raised, peaked⟩ := peaked_loudness s r peaks
  unfold State.formed LoudnessUnit.formShortTerm
  rw [peaked, blocked_eq]
  exact Option.map_map ..

theorem formed_programmeCtx (s : State) (r : SubBlock) (peaks : List Nat) : (s.formed r peaks).loudness.programmeCtx =
    s.loudness.programmeCtx.map
      (Context.credited (s.loudness.take r).chain r peaks (fun x c => x.opening.inProgramme c)) := by
  obtain ⟨raised, peaked⟩ := peaked_loudness s r peaks
  unfold State.formed LoudnessUnit.formShortTerm
  rw [peaked, blocked_eq]
  rfl

/-- Forming the figures changes the short-term figure and the SEGMENT context alone (R53, R54). -/
theorem formed_eq (s : State) (r : SubBlock) (peaks : List Nat) : s.formed r peaks =
    (s.peaked r peaks).setLoudness { (s.peaked r peaks).loudness with
      shortTerm := shortTermOf (s.loudness.take r).ring, segmentCtx := (s.formed r peaks).loudness.segmentCtx } := by
  have ring : (s.peaked r peaks).loudness.ring = (s.loudness.take r).ring := (peaked_run s r peaks).1.loudness.ring
  rw [← ring]
  rfl

/-- The contexts and breaches behind a completion are those its judgements leave (R49). -/
theorem completeSubBlock_judged (s : State) (b : SubBlockInProgress) (impaired : Bool) (g : MediaTime) :
    let r := b.record impaired
    let t := s.completeSubBlock b impaired g
    t.loudness.segmentCtx = (s.formed r b.peaks).loudness.segmentCtx ∧
    t.loudness.programmeCtx = (s.formed r b.peaks).loudness.programmeCtx ∧
    t.loudness.momentary = s.loudness.momentaryBehind (s.loudness.take r).chain ∧
    t.loudness.peakRaised = (s.peaked r b.peaks).loudness.peakRaised ∧
    t.loudness.excess = ((s.formed r b.peaks).stepExcess r).loudness.excess ∧
    t.log = (s.heard r b.peaks).log := by
  intro r t
  obtain ⟨⟨signature, lastSub, own, behind⟩, log⟩ := completeSubBlock_behind s b impaired g
  obtain ⟨x, run⟩ := stepExcess_loudness (s.formed r b.peaks) r
  obtain ⟨_, _, same⟩ := completeSubBlock_loudness s b impaired g
  have judged : t.loudness = { (s.formed r b.peaks).loudness with
      excess := x, signature := signature, lastSub := lastSub, ownHistory := own } := by
    rw [behind, show (s.figured r b.peaks).loudness = _ from run]
  exact ⟨(congrArg LoudnessUnit.segmentCtx judged :), (congrArg LoudnessUnit.programmeCtx judged :), same.momentary,
    (congrArg LoudnessUnit.peakRaised judged :),
    (congrArg LoudnessUnit.excess judged).trans (congrArg LoudnessUnit.excess run).symm, log⟩

/-- Settles O45: the figures by their search and the histogram by its bins; a completion by the state before and behind
each of its judgements; the two breaches by whether they are judged. The model has the name `peakFigure` already. -/
theorem peakFigure_holds : Obligations.PeakFigure := by
  refine ⟨fun m => ⟨?zero, peakFigure_of_pos⟩, fun m n => peakFigure_mono,
    fun history x => ⟨rfl, fun short => creditedMagnitude_short short x, ?three⟩,
    fun l => ⟨fun m => le_greatestOf, fun none => ?noPeak, greatestOf_mem⟩,
    fun c peaks => ⟨rfl, maxEach_getD _ _, rfl⟩, fun x y => ⟨rfl, rfl, rfl, rfl⟩, fun l n stamp => ⟨rfl, rfl⟩, ?completed,
    fun energy momentary h rising => ⟨enterBlock_gated, fun counted => ?bins⟩,
    fun h => ⟨integratedLoudness_none, integratedLoudness_some⟩,
    fun s r peaks => ⟨judgePeak_raises, judgePeak_passes⟩, ?excess, ?closing, fun s p => rfl⟩
  case zero =>
    rintro rfl
    exact peakFigure_zero
  case three =>
    rintro a b c rfl
    exact creditedMagnitude_three a b c x
  case noPeak => rw [none]; rfl
  case bins =>
    have entered := enterBlock_entered rising energy counted
    exact ⟨entered.rising, entered.others, entered.fresh, entered.grows, entered.holds⟩
  case completed =>
    intro s b impaired g t r ring chain energy offered credited inSegment inProgramme same figureOf figured
    obtain ⟨segment, programme, momentary, peak, excess, log⟩ := completeSubBlock_judged s b impaired g
    have figure : ∀ l, shortTermOf l = figureOf l := shortTermOf_eq
    refine ⟨?_, ?_, s.blocked r b.peaks, s.formed r b.peaks, ?_, ?_, peak, excess, ?_⟩
    · rw [segment, formed_segmentCtx, segmentShortTerm, figure]
      rfl
    · rw [programme, formed_programmeCtx]
      rfl
    · rw [momentary, State.blocked, blocked_eq]
      rfl
    · rw [segment, ← figure]
      exact formed_eq s r b.peaks
    · rw [log, ← figure]
      rfl
  case excess =>
    intro s r current profile e withRun same active figure level highest
    refine ⟨stepExcess_idle, fun judged below => ?_, fun judged above => ?_⟩
    · rw [stepExcess_below judged below]
      refine ⟨fun closed => ?_, fun open_ => ?_⟩
      · rw [closeExcess_closed closed]
        rfl
      · rw [closeExcess_open open_]
        rfl
    · rw [stepExcess_above judged above]
      refine ⟨fun first => ?_, fun begun early => ?_, fun start late started => ⟨fun open_ => ?_, fun closed => ?_⟩⟩
      · rw [above_first first]
        exact openExcess_early (show 1 ≠ 30 by decide)
      · rw [above_next begun early]
        exact openExcess_early (show e.count + 1 ≠ 30 by omega)
      · rw [above_late late, started, open_]
        exact openExcess_open rfl
      · rw [above_late late, started, closed]
        exact openExcess_due rfl rfl rfl
  case closing =>
    intro s r stop e fallen
    refine ⟨fun c open_ => ?_, fun none => ?_⟩
    · rw [closeSegmentContext_eq, closeExcess_closePeak open_, open_]
      rfl
    · rw [closeSegmentContext_eq, none]
      rfl

end Sys2Proof.Machine
end

section
/-! PROOF. The caption timeline (R81, R82) and the caption shown at a media time (R83). Settles O47. -/

namespace Sys2Proof.Machine

/-! ### The entry of a payload (R81) -/

/-- The timeline entry that a CAPTION payload spells (R81). -/
theorem readCaption_fields (p : List Byte) :
    let e := readCaption p
    e.presentation.toNat = natAt p 0 5 ∧
    (natAt p 5 2 = 0 → e.stop = none) ∧
    (natAt p 5 2 ≠ 0 → ∃ x, e.stop = some x ∧ x.toNat = (natAt p 0 5 + 48 * natAt p 5 2) % 2 ^ 40) ∧
    e.textLength = natAt p 10 2 ∧ e.language.toNat = natAt p 7 3 ∧
    (natAt p 10 2 = 0 → e.digest = none) ∧
    (natAt p 10 2 ≠ 0 → e.digest = some (crc16 ((p.drop 12).take (natAt p 10 2)))) :=
  ⟨Nat.mod_eq_of_lt (natAt_lt p 0 5), fun endless => if_pos endless,
    fun timed => ⟨_, if_neg timed, by rw [← BitVec.ofNat_add, BitVec.toNat_ofNat]⟩,
    rfl, Nat.mod_eq_of_lt (natAt_lt p 7 3), fun clear => if_pos clear, fun text => if_neg text⟩

/-! ### The timeline (R82) -/

theorem newest_of_length_le {α : Type} {n : Nat} {l : List α} (short : l.length ≤ n) : newest n l = l := by
  unfold newest
  rw [Nat.sub_eq_zero_of_le short, List.drop_zero]

section TakeCaption

variable {c : CaptionChecker} {payload : List Byte}

theorem takeCaption_first (empty : c.timeline = []) :
    c.takeCaption payload = { c with timeline := [readCaption payload] } := by
  unfold CaptionChecker.takeCaption
  rw [empty]
  rfl

variable {older : List CaptionEntry} {last : CaptionEntry} (timeline : c.timeline = older ++ [last])

include timeline

theorem takeCaption_late (late : ((readCaption payload).presentation - last.presentation).toInt < 0) :
    c.takeCaption payload = { c with lateCount := min (c.lateCount + 1) 4294967295 } := by
  unfold CaptionChecker.takeCaption
  rw [timeline, List.getLast?_concat]
  exact if_pos late

theorem takeCaption_joins (inOrder : 0 ≤ ((readCaption payload).presentation - last.presentation).toInt) :
    c.takeCaption payload = { c with timeline := newest 16 (c.timeline ++ [readCaption payload]) } := by
  unfold CaptionChecker.takeCaption
  rw [timeline, List.getLast?_concat]
  exact if_neg (Int.not_lt.mpr inOrder)

theorem newest_joined_short (short : older.length < 15) (e : CaptionEntry) :
    newest 16 (c.timeline ++ [e]) = c.timeline ++ [e] := by
  refine newest_of_length_le ?_
  simp only [timeline, List.length_append, List.length_singleton]
  omega

/-- The seventeenth entry takes the oldest one's place (R82). -/
theorem newest_joined_full (full : older.length = 15) (e : CaptionEntry) :
    newest 16 (c.timeline ++ [e]) = c.timeline.drop 1 ++ [e] := by
  have sixteen : c.timeline.length = 16 := by rw [timeline, List.length_append, full]; rfl
  unfold newest
  rw [List.length_append, sixteen, List.length_singleton]
  exact List.drop_append_of_le_length (by omega : 1 ≤ c.timeline.length)

end TakeCaption

/-! ### The caption shown (R83) -/

theorem currentEntry_none {timeline : List CaptionEntry} {t : MediaTime}
    (later : ∀ x ∈ timeline, 0 < (x.presentation - t).toInt) : currentEntry timeline t = none := by
  have nothing : timeline.filter (fun e => mediaDiff e.presentation t ≤ 0) = [] :=
    List.filter_eq_nil_iff.mpr fun x member => by simpa [mediaDiff] using later x member
  unfold currentEntry
  rw [nothing]
  rfl

/-- The last entry that is not later than the time is the current one, whatever stands before it (R83). -/
theorem currentEntry_last (older : List CaptionEntry) {newer : List CaptionEntry} {e : CaptionEntry} {t : MediaTime}
    (reached : (e.presentation - t).toInt ≤ 0) (later : ∀ x ∈ newer, 0 < (x.presentation - t).toInt) :
    currentEntry (older ++ e :: newer) t = some e := by
  have ahead : (newer.filter (fun x => mediaDiff x.presentation t ≤ 0)).getLast? = none := currentEntry_none later
  unfold currentEntry
  rw [List.filter_append, List.filter_cons_of_pos (by exact decide_eq_true reached), List.getLast?_append,
    List.getLast?_cons, ahead]
  rfl

section Shown

variable {timeline : List CaptionEntry} {t : MediaTime} {e : CaptionEntry} (current : currentEntry timeline t = some e)

include current

theorem shownIdentity_shown (text : e.textLength ≠ 0)
    (lasts : e.stop = none ∨ ∃ x, e.stop = some x ∧ (t - x).toInt < 0) :
    shownIdentity timeline t = some ⟨e.digest.getD 0, e.language⟩ := by
  have runs : e.stop.all (fun x => mediaDiff t x < 0) = true := by
    rcases lasts with endless | ⟨x, stop, before⟩
    · rw [endless]; rfl
    · rw [stop]; exact decide_eq_true before
  unfold shownIdentity
  rw [current]
  exact if_pos ⟨text, runs⟩

theorem shownIdentity_hidden (ended : e.textLength = 0 ∨ ∃ x, e.stop = some x ∧ 0 ≤ (t - x).toInt) :
    shownIdentity timeline t = none := by
  unfold shownIdentity
  rw [current]
  refine if_neg fun ⟨text, runs⟩ => ?_
  rcases ended with clear | ⟨x, stop, passed⟩
  · exact text clear
  · rw [stop] at runs
    exact absurd (of_decide_eq_true runs) (Int.not_lt.mpr passed)

end Shown

theorem shownIdentity_none {timeline : List CaptionEntry} {t : MediaTime} (none : currentEntry timeline t = none) :
    shownIdentity timeline t = .none := by
  unfold shownIdentity
  rw [none]

/-- Settles O47: the fields of the entry, its place by the newest entry's presentation, the current entry's text and end. -/
theorem captionTimeline : Obligations.CaptionTimeline := by
  refine ⟨readCaption_fields, fun c payload => ⟨takeCaption_first, fun older last timeline => ⟨fun inOrder short => ?_,
    fun inOrder full => ?_, takeCaption_late timeline⟩⟩, fun older newer e t reached later => ?_,
    fun timeline t later => shownIdentity_none (currentEntry_none later)⟩
  · rw [takeCaption_joins timeline inOrder, newest_joined_short timeline short]
  · rw [takeCaption_joins timeline inOrder, newest_joined_full timeline full]
  · have current := currentEntry_last older reached later
    exact ⟨fun shown => shownIdentity_shown current shown.1 shown.2, shownIdentity_hidden current⟩

end Sys2Proof.Machine
end

section
/-! PROOF. The caption timers and the records they open and close, coverage, and the Caption Checker at a segment's opening
and close (R84 to R95). Settles O48. -/

namespace Sys2Proof.Machine

/-- The state with another gap timer. -/
def State.withGap (s : State) (g : GapTimer) : State := s.setCaptions { s.captions with gap := g }

/-- The state with another stuck timer. -/
def State.withStuck (s : State) (k : StuckTimer) : State := s.setCaptions { s.captions with stuck := k }

/-! ### A run of counted sub-blocks (R87, R89) -/

theorem runStep_first (limit : Nat) (start : Option Stamp) (last : Stamp) : runStep limit 0 start last = (1, some last) :=
  if_pos rfl

theorem runStep_next {limit count : Nat} (begun : 1 ≤ count) (below : count < limit) (start : Option Stamp)
    (last : Stamp) : runStep limit count start last = (count + 1, start) :=
  (if_neg (Nat.ne_of_gt begun)).trans (if_pos below)

theorem runStep_full {limit count : Nat} (begun : 1 ≤ count) (full : limit ≤ count) (start : Option Stamp)
    (last : Stamp) : runStep limit count start last = (count, start) :=
  (if_neg (Nat.ne_of_gt begun)).trans (if_neg (Nat.not_lt.mpr full))

/-! ### Records closed (R88, R90, R91) -/

theorem closeAbsent_closed {s : State} (closed : s.captions.gap.recordOpen = false) (stop : Stamp) :
    s.closeAbsent stop = s := if_neg (Bool.eq_false_iff.mp closed)

theorem closeAbsent_open {s : State} (open_ : s.captions.gap.recordOpen = true) (stop : Stamp) :
    s.closeAbsent stop = (s.setCaptions { s.captions with
      gap := { s.captions.gap with recordOpen := false }, absentNote := false }).closeBreach .captionAbsent stop none
        s.captions.absentNote := if_pos open_

theorem closeStuck_closed {s : State} (closed : s.captions.stuck.recordOpen = false) (stop : Stamp) :
    s.closeStuck stop = s := if_neg (Bool.eq_false_iff.mp closed)

theorem closeStuck_open {s : State} (open_ : s.captions.stuck.recordOpen = true) (stop : Stamp) :
    s.closeStuck stop = (s.setCaptions { s.captions with
      stuck := { s.captions.stuck with recordOpen := false }, stuckNote := false }).closeBreach .captionStuck stop none
        s.captions.stuckNote := if_pos open_

/-- The close of CAPTION_ABSENT touches its timer's mark and its note alone. -/
theorem closeAbsent_captions (s : State) (stop : Stamp) : ∃ note, (s.closeAbsent stop).captions =
    { s.captions with gap := { s.captions.gap with recordOpen := false }, absentNote := note } := by
  cases record : s.captions.gap.recordOpen with
  | false => exact ⟨s.captions.absentNote, by rw [closeAbsent_closed record, ← record]⟩
  | true => exact ⟨false, by rw [closeAbsent_open record, (closeBreach_keeps _ _ _ _ _).captions]; rfl⟩

/-- The close of CAPTION_STUCK touches its timer's mark and its note alone. -/
theorem closeStuck_captions (s : State) (stop : Stamp) : ∃ note, (s.closeStuck stop).captions =
    { s.captions with stuck := { s.captions.stuck with recordOpen := false }, stuckNote := note } := by
  cases record : s.captions.stuck.recordOpen with
  | false => exact ⟨s.captions.stuckNote, by rw [closeStuck_closed record, ← record]⟩
  | true => exact ⟨false, by rw [closeStuck_open record, (closeBreach_keeps _ _ _ _ _).captions]; rfl⟩

/-! ### Records opened (R88, R90, R91) -/

/-- The request for a caption record of a checked segment (R88, R90). -/
def CheckingRecord.request (r : CheckingRecord) (category : Category) (start : Stamp) (impaired : Bool) : BreachRequest where
  category := category
  startStamp := start
  segment := some r.name
  impaired := impaired

/-- A caption record asked for stands open in a log with room. -/
theorem raise_caption_opens {s : State} (room : s.log.records.length < 127) (r : CheckingRecord) (category : Category)
    (start : Stamp) (impaired : Bool) : ∃ x ∈ (s.raise (r.request category start impaired)).log.records,
      x.category = category ∧ x.isOpen = true ∧ x.startStamp = start ∧ x.segmentId = r.segmentId := by
  obtain ⟨x, member, told⟩ := raise_told room (r.request category start impaired)
  exact ⟨x, member, (congrArg BreachRecord.category told :), (congrArg BreachRecord.isOpen told :),
    (congrArg BreachRecord.startStamp told :), (congrArg BreachRecord.segmentId told :)⟩

theorem openAbsent_below {s : State} (below : s.captions.gap.count ≠ s.config.gapLimit * 10) (r : CheckingRecord) :
    s.openAbsent r = s := by
  unfold State.openAbsent
  split
  · rfl
  · exact if_neg fun due => below due.1

theorem openAbsent_open {s : State} (open_ : s.captions.gap.recordOpen = true) (r : CheckingRecord) :
    s.openAbsent r = s := by
  unfold State.openAbsent
  split
  · rfl
  · exact if_neg fun due => Bool.false_ne_true (due.2.symm.trans open_)

theorem openAbsent_due {s : State} {start : Stamp} (started : s.captions.gap.runStart = some start)
    (full : s.captions.gap.count = s.config.gapLimit * 10) (closed : s.captions.gap.recordOpen = false)
    (r : CheckingRecord) : s.openAbsent r = (s.setCaptions { s.captions with
        gap := { s.captions.gap with recordOpen := true }, absentNote := s.segments.current.impaired }).raise
      (r.request .captionAbsent start s.segments.current.impaired) := by
  unfold State.openAbsent
  rw [started]
  exact if_pos ⟨full, closed⟩

theorem openStuck_below {s : State} (below : s.captions.stuck.count ≠ s.config.stuckLimit * 10) (r : CheckingRecord) :
    s.openStuck r = s := by
  unfold State.openStuck
  split
  · rfl
  · exact if_neg fun due => below due.1

theorem openStuck_open {s : State} (open_ : s.captions.stuck.recordOpen = true) (r : CheckingRecord) :
    s.openStuck r = s := by
  unfold State.openStuck
  split
  · rfl
  · exact if_neg fun due => Bool.false_ne_true (due.2.symm.trans open_)

theorem openStuck_due {s : State} {start : Stamp} (started : s.captions.stuck.runStart = some start)
    (full : s.captions.stuck.count = s.config.stuckLimit * 10) (closed : s.captions.stuck.recordOpen = false)
    (r : CheckingRecord) : s.openStuck r = (s.setCaptions { s.captions with
        stuck := { s.captions.stuck with recordOpen := true }, stuckNote := s.segments.current.impaired }).raise
      (r.request .captionStuck start s.segments.current.impaired) := by
  unfold State.openStuck
  rw [started]
  exact if_pos ⟨full, closed⟩

theorem openAbsent_captions (s : State) (r : CheckingRecord) : ∃ g note, (s.openAbsent r).captions =
    { s.captions with gap := g, absentNote := note } := by
  unfold State.openAbsent
  split
  · exact ⟨_, _, rfl⟩
  · split
    · exact ⟨_, _, (raise_keeps _ _).captions⟩
    · exact ⟨_, _, rfl⟩

theorem openStuck_captions (s : State) (r : CheckingRecord) : ∃ k note, (s.openStuck r).captions =
    { s.captions with stuck := k, stuckNote := note } := by
  unfold State.openStuck
  split
  · exact ⟨_, _, rfl⟩
  · split
    · exact ⟨_, _, (raise_keeps _ _).captions⟩
    · exact ⟨_, _, rfl⟩

/-! ### The gap timer row by row (R87) -/

section GapRows

variable {s : State} {r : CheckingRecord} {j : Judgement}

theorem gapStep_shown (i : CaptionIdentity) :
    s.gapStep r j (some i) = (s.closeAbsent j.lastStamp).withGap ⟨0, none, false⟩ := by
  obtain ⟨note, closed⟩ := closeAbsent_captions s j.lastStamp
  show (s.closeAbsent j.lastStamp).withGap { (s.closeAbsent j.lastStamp).captions.gap with count := 0, runStart := none } = _
  rw [closed]

theorem gapStep_none : s.gapStep r j none = if j.sound && !j.impaired then
      (s.withGap { s.captions.gap with
        count := (runStep (s.config.gapLimit * 10) s.captions.gap.count s.captions.gap.runStart j.lastStamp).1
        runStart := (runStep (s.config.gapLimit * 10) s.captions.gap.count s.captions.gap.runStart
          j.lastStamp).2 }).openAbsent r
    else s := if_neg Bool.false_ne_true

theorem gapStep_paused (pause : j.sound = false ∨ j.impaired = true) : s.gapStep r j none = s := by
  refine gapStep_none.trans (if_neg fun counted => ?_)
  rcases pause with silent | impaired
  · simp [silent] at counted
  · simp [impaired] at counted

/-- A sub-block of uncaptioned sound that is not impaired counts (R87). -/
theorem gapStep_counts (sound : j.sound = true) (clear : j.impaired = false) {count : Nat} {start : Option Stamp}
    (counted : runStep (s.config.gapLimit * 10) s.captions.gap.count s.captions.gap.runStart j.lastStamp = (count, start)) :
    s.gapStep r j none = (s.withGap { s.captions.gap with count := count, runStart := start }).openAbsent r := by
  rw [gapStep_none, counted]
  exact if_pos (by simp [sound, clear])

section GapCounts

variable (sound : j.sound = true) (clear : j.impaired = false)

include sound clear

theorem gapStep_first (limit : 2 ≤ s.config.gapLimit * 10) (first : s.captions.gap.count = 0) :
    s.gapStep r j none = s.withGap { s.captions.gap with count := 1, runStart := some j.lastStamp } := by
  rw [gapStep_counts sound clear (first ▸ runStep_first _ _ _), openAbsent_below]
  exact Nat.ne_of_lt limit

theorem gapStep_next (begun : 1 ≤ s.captions.gap.count) (below : s.captions.gap.count + 1 < s.config.gapLimit * 10) :
    s.gapStep r j none = s.withGap { s.captions.gap with count := s.captions.gap.count + 1 } := by
  rw [gapStep_counts sound clear (runStep_next begun (Nat.lt_of_succ_lt below) _ _), openAbsent_below]
  exact Nat.ne_of_lt below

/-- The count reaches the gap limit: CAPTION_ABSENT opens, backdated to the run start (R88). -/
theorem gapStep_due {start : Stamp} (begun : 1 ≤ s.captions.gap.count)
    (last : s.captions.gap.count + 1 = s.config.gapLimit * 10) (started : s.captions.gap.runStart = some start)
    (closed : s.captions.gap.recordOpen = false) : s.gapStep r j none = (s.setCaptions { s.captions with
        gap := ⟨s.config.gapLimit * 10, some start, true⟩, absentNote := s.segments.current.impaired }).raise
      (r.request .captionAbsent start s.segments.current.impaired) := by
  rw [gapStep_counts sound clear (runStep_next begun (last ▸ Nat.lt_succ_self _) _ _), started, last]
  exact openAbsent_due (s := s.withGap ⟨s.config.gapLimit * 10, some start, s.captions.gap.recordOpen⟩) rfl rfl
    closed r

theorem gapStep_full (limit : 2 ≤ s.config.gapLimit * 10) (full : s.config.gapLimit * 10 ≤ s.captions.gap.count)
    (open_ : s.captions.gap.recordOpen = true) : s.gapStep r j none = s := by
  rw [gapStep_counts sound clear (runStep_full (by omega) full _ _)]
  exact openAbsent_open (s := s.withGap _) open_ r

end GapCounts

end GapRows

/-- The gap timer step touches the gap timer and its note alone. -/
theorem gapStep_captions (s : State) (r : CheckingRecord) (j : Judgement) (shown : Option CaptionIdentity) :
    ∃ g note, (s.gapStep r j shown).captions = { s.captions with gap := g, absentNote := note } := by
  unfold State.gapStep
  dsimp only
  split
  · obtain ⟨note, closed⟩ := closeAbsent_captions s j.lastStamp
    exact ⟨_, note, by rw [State.setCaptions_captions, closed]⟩
  · split
    · obtain ⟨g, note, opened⟩ := openAbsent_captions (s.withGap _) r
      exact ⟨g, note, opened⟩
    · exact ⟨_, _, rfl⟩

/-! ### The stuck timer row by row (R89) -/

section StuckRows

variable {s : State} {r : CheckingRecord} {j : Judgement}

/-- No caption, or another than the one held: the record closes and the timer takes what is shown (R89, R90). -/
theorem stuckStep_changed {shown : Option CaptionIdentity} (changed : shown = none ∨ s.captions.stuck.held ≠ shown) :
    s.stuckStep r j shown = (s.closeStuck j.lastStamp).withStuck
      (StuckTimer.hold { s.captions.stuck with recordOpen := false } shown j.sound j.lastStamp) := by
  obtain ⟨note, closed⟩ := closeStuck_captions s j.lastStamp
  have row : (shown.isNone || shown != s.captions.stuck.held) = true := by
    rcases changed with none_ | other
    · simp [none_]
    · simp [Ne.symm other]
  unfold State.stuckStep
  rw [if_pos row]
  dsimp only
  rw [closed, State.withStuck, closed]

theorem stuckStep_same {i : CaptionIdentity} (held : s.captions.stuck.held = some i) :
    s.stuckStep r j (some i) = if j.sound then
      (s.withStuck { s.captions.stuck with
        count := (runStep (s.config.stuckLimit * 10) s.captions.stuck.count s.captions.stuck.runStart j.lastStamp).1
        runStart := (runStep (s.config.stuckLimit * 10) s.captions.stuck.count s.captions.stuck.runStart
          j.lastStamp).2 }).openStuck r
    else s := if_neg (by simp [held])

theorem stuckStep_paused {i : CaptionIdentity} (held : s.captions.stuck.held = some i) (silent : j.sound = false) :
    s.stuckStep r j (some i) = s := (stuckStep_same held).trans (if_neg (Bool.eq_false_iff.mp silent))

/-- A sub-block of sound under the identity held counts (R89). -/
theorem stuckStep_counts {i : CaptionIdentity} (held : s.captions.stuck.held = some i) (sound : j.sound = true)
    {count : Nat} {start : Option Stamp} (counted : runStep (s.config.stuckLimit * 10) s.captions.stuck.count
      s.captions.stuck.runStart j.lastStamp = (count, start)) :
    s.stuckStep r j (some i) = (s.withStuck { s.captions.stuck with count := count, runStart := start }).openStuck r := by
  rw [stuckStep_same held, if_pos sound, counted]

section StuckCounts

variable {i : CaptionIdentity} (held : s.captions.stuck.held = some i) (sound : j.sound = true)

include held sound

theorem stuckStep_first (limit : 2 ≤ s.config.stuckLimit * 10) (first : s.captions.stuck.count = 0) :
    s.stuckStep r j (some i) = s.withStuck { s.captions.stuck with count := 1, runStart := some j.lastStamp } := by
  rw [stuckStep_counts held sound (first ▸ runStep_first _ _ _), openStuck_below]
  exact Nat.ne_of_lt limit

theorem stuckStep_next (begun : 1 ≤ s.captions.stuck.count)
    (below : s.captions.stuck.count + 1 < s.config.stuckLimit * 10) :
    s.stuckStep r j (some i) = s.withStuck { s.captions.stuck with count := s.captions.stuck.count + 1 } := by
  rw [stuckStep_counts held sound (runStep_next begun (Nat.lt_of_succ_lt below) _ _), openStuck_below]
  exact Nat.ne_of_lt below

/-- The count reaches the stuck limit: CAPTION_STUCK opens, backdated to the run start (R90). -/
theorem stuckStep_due {start : Stamp} (begun : 1 ≤ s.captions.stuck.count)
    (last : s.captions.stuck.count + 1 = s.config.stuckLimit * 10) (started : s.captions.stuck.runStart = some start)
    (closed : s.captions.stuck.recordOpen = false) : s.stuckStep r j (some i) = (s.setCaptions { s.captions with
        stuck := ⟨some i, s.config.stuckLimit * 10, some start, true⟩, stuckNote := s.segments.current.impaired }).raise
      (r.request .captionStuck start s.segments.current.impaired) := by
  rw [stuckStep_counts held sound (runStep_next begun (last ▸ Nat.lt_succ_self _) _ _), started, last,
    ← held]
  exact openStuck_due (s := s.withStuck ⟨_, s.config.stuckLimit * 10, some start, s.captions.stuck.recordOpen⟩) rfl
    rfl closed r

theorem stuckStep_full (limit : 2 ≤ s.config.stuckLimit * 10) (full : s.config.stuckLimit * 10 ≤ s.captions.stuck.count)
    (open_ : s.captions.stuck.recordOpen = true) : s.stuckStep r j (some i) = s := by
  rw [stuckStep_counts held sound (runStep_full (by omega) full _ _)]
  exact openStuck_open (s := s.withStuck _) open_ r

end StuckCounts

end StuckRows

/-- The stuck timer step touches the stuck timer and its note alone. -/
theorem stuckStep_captions (s : State) (r : CheckingRecord) (j : Judgement) (shown : Option CaptionIdentity) :
    ∃ k note, (s.stuckStep r j shown).captions = { s.captions with stuck := k, stuckNote := note } := by
  unfold State.stuckStep
  dsimp only
  split
  · obtain ⟨note, closed⟩ := closeStuck_captions s j.lastStamp
    exact ⟨_, note, by rw [State.setCaptions_captions, closed]⟩
  · split
    · obtain ⟨k, note, opened⟩ := openStuck_captions (s.withStuck _) r
      exact ⟨k, note, opened⟩
    · exact ⟨_, _, rfl⟩

/-! ### Evaluation and coverage (R84, R85, R92, R93) -/

theorem CaptionChecker.showPair_eq (c : CaptionChecker) (shown : Option CaptionIdentity) : c.showPair shown =
    { c with pairShown := shown.isSome, pairDigest := (shown.map (fun i => i.digest)).getD 0 } := by
  cases shown <;> rfl

theorem CaptionChecker.cover_eq (c : CaptionChecker) (sound : Bool) (shown : Option CaptionIdentity) :
    c.cover sound shown.isSome = { c with
      soundCount := if sound = true ∧ c.soundCount < 4294967295 then c.soundCount + 1 else c.soundCount
      coveredCount := if sound = true ∧ c.soundCount < 4294967295 ∧ shown ≠ none then c.coveredCount + 1
        else c.coveredCount } := by
  unfold CaptionChecker.cover
  by_cases counted : sound = true ∧ c.soundCount < 4294967295
  · obtain ⟨sound, below⟩ := counted
    cases shown <;> simp [sound, below, count32Max]
  · have uncounted : ¬ (sound && decide (c.soundCount < count32Max)) = true := by
      rwa [Bool.and_eq_true, decide_eq_true_eq]
    rw [if_neg uncounted, if_neg counted, if_neg fun all => counted ⟨all.1, all.2.1⟩]

/-- A segment's counts join the programme's sums: it is checked and tied to the open programme (R93). -/
def CaptionChecker.Tied (c : CaptionChecker) (programme : Option Nat) : Prop :=
  ∃ r, c.checking = some r ∧ r.checked = true ∧ r.opening.programme = programme ∧ programme ≠ none

theorem CaptionChecker.addToProgramme_tied {c : CaptionChecker} {programme : Option Nat} (tied : c.Tied programme) :
    c.addToProgramme programme = { c with
      progSound := min (c.progSound + c.soundCount) 4294967295
      progCovered := min (c.progCovered + c.coveredCount) (min (c.progSound + c.soundCount) 4294967295)
      progChecked := true } := by
  obtain ⟨r, checking, checked, rfl, open_⟩ := tied
  unfold CaptionChecker.addToProgramme
  rw [checking]
  exact if_pos (by simp [checked, Option.isSome_iff_ne_none.mpr open_])

theorem CaptionChecker.addToProgramme_untied {c : CaptionChecker} {programme : Option Nat} (untied : ¬ c.Tied programme) :
    c.addToProgramme programme = c := by
  unfold CaptionChecker.addToProgramme
  split
  · rfl
  · next r checking =>
    refine if_neg fun joined => untied ?_
    simp only [Bool.and_eq_true, beq_iff_eq] at joined
    obtain ⟨⟨checked, open_⟩, same⟩ := joined
    exact ⟨r, checking, checked, same, same ▸ Option.isSome_iff_ne_none.mp open_⟩

theorem CaptionChecker.segmentCoverage_checked {c : CaptionChecker} {r : CheckingRecord} (checking : c.checking = some r)
    (checked : r.checked = true) : c.segmentCoverage = coverageOf c.coveredCount c.soundCount :=
  if_pos (by simp [checking, checked])

theorem CaptionChecker.segmentCoverage_unchecked {c : CaptionChecker}
    (unchecked : ∀ r, c.checking = some r → r.checked = false) : c.segmentCoverage = none :=
  if_neg (by simpa [Option.any_eq_true] using unchecked)

/-! ### The segment close (R95) -/

/-- The Caption Checker behind the close of both records. -/
theorem closeRecords_captions (s : State) (stop : Stamp) : ∃ absentNote stuckNote,
    ((s.closeAbsent stop).closeStuck stop).captions = { s.captions with
      gap := { s.captions.gap with recordOpen := false }, stuck := { s.captions.stuck with recordOpen := false }
      absentNote := absentNote, stuckNote := stuckNote } := by
  obtain ⟨absentNote, absent⟩ := closeAbsent_captions s stop
  obtain ⟨stuckNote, stuck⟩ := closeStuck_captions (s.closeAbsent stop) stop
  exact ⟨absentNote, stuckNote, by rw [stuck, absent]⟩

/-- The two closes of a segment close: the second finds the stuck timer and its note as they were. -/
theorem closeStuck_behind (s : State) (stop : Stamp) : (s.closeAbsent stop).closeStuck stop =
    if s.captions.stuck.recordOpen then ((s.closeAbsent stop).setCaptions { (s.closeAbsent stop).captions with
      stuck := { s.captions.stuck with recordOpen := false }, stuckNote := false }).closeBreach .captionStuck stop none
        s.captions.stuckNote
    else s.closeAbsent stop := by
  obtain ⟨absentNote, absent⟩ := closeAbsent_captions s stop
  unfold State.closeStuck
  rw [absent]

/-- What the close leaves of the Caption Checker and hands on, whichever records close with it (R93 to R95). -/
theorem closeCaptions_eq (s : State) (stop : Stamp) (programme : Option Nat) : s.closeCaptions stop programme =
    (((s.closeAbsent stop).closeStuck stop).setCaptions (s.captions.addToProgramme programme).giveUp,
      s.captions.segmentCoverage) := by
  obtain ⟨absentNote, stuckNote, closed⟩ := closeRecords_captions s stop
  unfold State.closeCaptions
  dsimp only
  rw [closed]
  refine Prod.ext (congrArg _ ?_) rfl
  by_cases tied : s.captions.Tied programme
  · rw [CaptionChecker.addToProgramme_tied tied, CaptionChecker.addToProgramme_tied (by exact tied)]
    rfl
  · rw [CaptionChecker.addToProgramme_untied tied, CaptionChecker.addToProgramme_untied (by exact tied)]
    rfl

/-! ### A sub-block judged (R84) -/

/-- The state with a sub-block's evaluation in the caption pair (R84, R85). -/
def State.paired (s : State) (j : Judgement) : State :=
  s.setCaptions (s.captions.showPair (shownIdentity s.captions.timeline (probeTime j.start)))

theorem judgeCaptions_unchecked {s : State} (j : Judgement)
    (unchecked : ∀ r, s.captions.checking = some r → r.checked = false) : s.judgeCaptions j = s.paired j := by
  have checking : (s.paired j).captions.checking = s.captions.checking := by
    rw [State.paired, State.setCaptions_captions, CaptionChecker.showPair_eq]
  unfold State.judgeCaptions
  dsimp only
  split
  · rfl
  · next r found => exact if_neg (Bool.eq_false_iff.mp (unchecked r (checking ▸ found)))

theorem judgeCaptions_checked {s : State} {r : CheckingRecord} (checking : s.captions.checking = some r)
    (checked : r.checked = true) (j : Judgement) : s.judgeCaptions j =
      (s.paired j).captionSteps r j (shownIdentity s.captions.timeline (probeTime j.start)) := by
  have found : (s.paired j).captions.checking = some r := by
    rw [State.paired, State.setCaptions_captions, CaptionChecker.showPair_eq, checking]
  unfold State.judgeCaptions
  dsimp only
  rw [show (s.setCaptions _).captions.checking = some r from found]
  exact if_pos checked

/-- The three steps of a checked segment's sub-block; the timers' steps leave the coverage counts alone (R84, R92). -/
theorem captionSteps_eq (s : State) (r : CheckingRecord) (j : Judgement) (shown : Option CaptionIdentity) :
    let timed := ((s.setCaptions (s.captions.noteMark j.impaired)).gapStep r j shown).stuckStep r j shown
    s.captionSteps r j shown = timed.setCaptions { timed.captions with
      soundCount := if j.sound = true ∧ s.captions.soundCount < 4294967295 then s.captions.soundCount + 1
        else s.captions.soundCount
      coveredCount := if j.sound = true ∧ s.captions.soundCount < 4294967295 ∧ shown ≠ none then
          s.captions.coveredCount + 1
        else s.captions.coveredCount } := by
  intro timed
  obtain ⟨g, absentNote, gapped⟩ := gapStep_captions (s.setCaptions (s.captions.noteMark j.impaired)) r j shown
  obtain ⟨k, stuckNote, stuck⟩ :=
    stuckStep_captions ((s.setCaptions (s.captions.noteMark j.impaired)).gapStep r j shown) r j shown
  rw [gapped] at stuck
  have sounds : timed.captions.soundCount = s.captions.soundCount := (congrArg CaptionChecker.soundCount stuck :)
  have covers : timed.captions.coveredCount = s.captions.coveredCount := (congrArg CaptionChecker.coveredCount stuck :)
  show timed.setCaptions (timed.captions.cover j.sound shown.isSome) = _
  rw [CaptionChecker.cover_eq, sounds, covers]

/-! ### O48 -/

/-- A row that opens a record: the record's request, the timer behind it, and the record in a log with room. -/
theorem opens_record {s t : State} {r : CheckingRecord} {category : Category} {start : Stamp} {impaired : Bool}
    {c : CaptionChecker} (opened : t = (s.setCaptions c).raise (r.request category start impaired)) :
    t.captions = c ∧ (s.log.records.length < 127 → ∃ x ∈ t.log.records, x.category = category ∧ x.isOpen = true ∧
      x.startStamp = start ∧ x.segmentId = r.segmentId) := by
  subst opened
  exact ⟨(raise_keeps _ _).captions,
    fun room => raise_caption_opens (s := s.setCaptions c) room r category start impaired⟩

/-- Settles O48: the timers row by row, the sub-block judged by its steps, the close by its records and sums. -/
theorem captionTimers : Obligations.CaptionTimers := by
  refine ⟨fun s r j i => ⟨fun closed => ?_, fun open_ => ?_, gapStep_paused, fun sound clear limit =>
    ⟨gapStep_first sound clear limit, gapStep_next sound clear, fun start last started closed begun => ?_,
      gapStep_full sound clear limit⟩, ?_, fun other => ?_, stuckStep_paused, fun held sound limit =>
    ⟨stuckStep_first held sound limit, stuckStep_next held sound, fun start last started closed begun => ?_,
      stuckStep_full held sound limit⟩⟩, fun s j => ⟨fun unchecked => ?_, fun r checking checked => ?_⟩,
    fun s stop programme => ?_, fun c config r => ⟨rfl, rfl⟩⟩
  · rw [gapStep_shown, closeAbsent_closed closed]
    rfl
  · rw [gapStep_shown, closeAbsent_open open_]
    rfl
  · have due := gapStep_due (r := r) sound clear begun last started closed
    obtain ⟨behind, record⟩ := opens_record due
    exact ⟨due, congrArg CaptionChecker.gap behind, record⟩
  · exact stuckStep_changed (.inl rfl)
  · exact stuckStep_changed (.inr other)
  · have due := stuckStep_due (r := r) held sound begun last started closed
    obtain ⟨behind, record⟩ := opens_record due
    exact ⟨due, congrArg CaptionChecker.stuck behind, record⟩
  · rw [judgeCaptions_unchecked j unchecked, State.paired, CaptionChecker.showPair_eq]
    rfl
  · rw [judgeCaptions_checked checking checked, captionSteps_eq, State.paired, CaptionChecker.showPair_eq]
    rfl
  · dsimp only
    rw [closeCaptions_eq, closeStuck_behind]
    refine ⟨fun untied => ?_, fun tied => ?_, fun ⟨r, checking, checked⟩ => ?_, ?_, fun checked => if_pos checked,
      fun unchecked => if_neg (Bool.eq_false_iff.mp unchecked)⟩
    · rw [CaptionChecker.addToProgramme_untied untied]
      rfl
    · rw [CaptionChecker.addToProgramme_tied tied]
      rfl
    · exact CaptionChecker.segmentCoverage_checked checking checked
    · exact CaptionChecker.segmentCoverage_unchecked

end Sys2Proof.Machine
end

section
/-! PROOF. O4, O5: the page store's form, the hold table, the pinned-page total and the pin budget (R98, R103, R112). A command
runs an operation that `Proceeds`, or leaves the Recorder alone; the lemmas below say which. -/

namespace Sys2Proof.Machine

/-- A state reached by an outcome has the Recorder within its limits when the state before had. -/
def KeepsStore (s : State) (o : Host.Outcome State Fault Refusal) : Prop :=
  ∀ t, o = .next t → s.recorder.Within → t.recorder.Within

namespace KeepsStore

variable {s t : State}

theorem next (h : s.recorder.Within → t.recorder.Within) : KeepsStore s (.next t) :=
  fun _ e w => Host.Outcome.next.inj e ▸ h w

theorem proceeds (h : Proceeds s t) : KeepsStore s (.next t) := next h.store

/-- A command after which the Recorder is as it was. -/
theorem still (same : t.recorder = s.recorder) : KeepsStore s (.next t) := next fun w => same ▸ w

theorem idle (s : State) : KeepsStore s (.next s) := still rfl

/-- A request keeps the store when what it serves does (R181). -/
theorem request (serve : State → State) (h : s.recorder.Within → (serve s).recorder.Within) :
    KeepsStore s (s.request serve) := by
  unfold State.request
  split
  · exact next h
  · exact idle s

/-- A request that is only answered leaves the Recorder alone. -/
theorem answered (serve : State → State) (same : (serve s).recorder = s.recorder) : KeepsStore s (s.request serve) :=
  request serve fun w => same ▸ w

end KeepsStore

open KeepsStore

/-! ### Start-up and restart -/

theorem execFullReset_keepsStore (s : State) : KeepsStore s (execFullReset s) := next fun _ => Recorder.reset_within

theorem execConfigLoaded_keepsStore (bytes : List Byte) (s : State) : KeepsStore s (execConfigLoaded bytes s) := by
  unfold execConfigLoaded
  split
  · refine next fun w => ?_
    rw [State.setStartup_recorder]
    split
    · exact (raise_proceeds _ _).store w
    · exact w
  · exact idle s

theorem execMemoryCheckDone_keepsStore (failed : CheckReport) (s : State) :
    KeepsStore s (execMemoryCheckDone failed s) := by
  unfold execMemoryCheckDone
  split
  · refine next fun w => ?_
    split
    · exact (settleTimeRecords_proceeds _).store w
    · exact w
  · exact idle s

theorem cuts_within {s : State} (w : s.recorder.Within) : s.cutRecords.cutHolds.recorder.Within := by
  rw [cuts_eq]
  exact w.changeOpen _

theorem beginWithdrawal_recorder (s : State) : s.beginWithdrawal.recorder = s.recorder := by
  unfold State.beginWithdrawal
  split <;> rfl

theorem execRestart_keepsStore (s : State) : KeepsStore s (execRestart s) := by
  refine request _ fun w => ?_
  split
  · exact w
  · exact w
  · exact cuts_within w
  all_goals
    split
    · exact w
    · exact (beginWithdrawal_recorder _).symm ▸ w

/-- The clearing of the blocks leaves the Recorder to what losing the followed peer does (R42, R192). -/
theorem clearForRestart_store {s : State} (w : s.recorder.Within) : s.clearForRestart.recorder.Within :=
  (forgetFollowed_proceeds _).store w

theorem execRestartSequence_keepsStore (s : State) : KeepsStore s (execRestartSequence s) := by
  unfold execRestartSequence
  split
  · exact next fun w => clearForRestart_store
      (((resolveAll_proceeds _).trans (requestMark_proceeds _ _)).store (cuts_within w))
  · exact idle s

/-! ### The Media Port and the Recorder -/

theorem dropUnit_store {s : State} (w : s.recorder.Within) : s.dropUnit.recorder.Within := by
  unfold State.dropUnit
  split
  · exact w
  · exact (raise_proceeds _ _).store w

theorem arrive_store {s : State} (w : s.recorder.Within) (k : UnitKind) (h : UnitHeader) :
    (s.arrive k h).recorder.Within := by
  have admitted : (if s.port.hasRoom h.length then s.enqueue k h else s.dropUnit).recorder.Within := by
    split
    · exact w
    · exact dropUnit_store w
  unfold State.arrive
  split
  · exact w
  · exact w
  · exact admitted
  · exact admitted
  · exact admitted
  · exact w

theorem execUnitHeaderComplete_keepsStore (bytes : List Byte) (s : State) :
    KeepsStore s (execUnitHeaderComplete bytes s) := by
  unfold execUnitHeaderComplete
  split
  · exact idle s
  · dsimp only
    split
    · exact still rfl
    · exact next fun w => arrive_store (by exact w) _ _

theorem execMissingDelimiter_keepsStore (a b : Byte) (s : State) : KeepsStore s (execMissingDelimiter a b s) := by
  unfold execMissingDelimiter
  split
  · exact still rfl
  · exact idle s

theorem execPayloadComplete_keepsStore (payload : List Byte) (s : State) :
    KeepsStore s (execPayloadComplete payload s) := by
  unfold execPayloadComplete
  split
  · exact idle s
  · split
    · split <;> exact still rfl
    · exact idle s

theorem execUnitDelivery_keepsStore (s : State) : KeepsStore s (execUnitDelivery s) := by
  unfold execUnitDelivery
  split
  · exact idle s
  · split
    · exact idle s
    · split
      · exact proceeds (deliver_proceeds s _ _)
      · exact idle s

/-- A unit written, with what is being written done (R100). -/
theorem execRecorderWriteComplete_keepsStore (s : State) : KeepsStore s (execRecorderWriteComplete s) := by
  unfold execRecorderWriteComplete
  split
  · exact idle s
  · exact next fun w => (w.append _).setRest _ _

theorem execMarkUnitWrite_keepsStore (s : State) : KeepsStore s (execMarkUnitWrite s) := by
  unfold execMarkUnitWrite
  split
  · exact idle s
  · split
    · dsimp only
      split
      · next ready => exact next fun w => ((readyPage_proceeds ready).store (w.setRest _ _)).append _
      · exact next fun w => w.setRest _ _
    · exact idle s

/-! ### Shelf link and peers -/

theorem execLineQuiet_keepsStore (received : List Byte) (s : State) : KeepsStore s (execLineQuiet received s) := by
  unfold execLineQuiet
  split
  · exact idle s
  · dsimp only
    split
    · exact still rfl
    · split <;> exact still rfl

theorem execFrameStart_keepsStore (s : State) : KeepsStore s (execFrameStart s) := by
  unfold execFrameStart
  split
  · exact still rfl
  · exact idle s

theorem enterListenOnly_recorder (s : State) : s.enterListenOnly.recorder = s.recorder := by
  unfold State.enterListenOnly
  dsimp only
  split <;> rfl

theorem duplicateHeard_store {s : State} (w : s.recorder.Within) (rx : FrameRx) :
    (s.duplicateHeard rx).recorder.Within := by
  unfold State.duplicateHeard
  split
  · exact (enterListenOnly_recorder _).symm ▸ (raise_proceeds s _).store w
  · exact (enterListenOnly_recorder _).symm ▸ (raise_proceeds s _).store w
  all_goals exact w

theorem judgeFrame_store {s : State} (w : s.recorder.Within) (bytes : List Byte) (rx : FrameRx) :
    (s.judgeFrame bytes rx).recorder.Within := by
  unfold State.judgeFrame
  split
  · exact w
  · split
    · exact duplicateHeard_store w rx
    · exact (takeFrame_proceeds s _ rx).store w

theorem execFrameComplete_keepsStore (bytes : List Byte) (s : State) : KeepsStore s (execFrameComplete bytes s) := by
  unfold execFrameComplete
  split
  · exact idle s
  · split
    · split
      · exact still rfl
      · split
        · exact next fun w => judgeFrame_store (s := s.setLink { s.link with rx := none }) w _ _
        · exact idle s
    · exact idle s

theorem execAttemptStart_keepsStore (s : State) : KeepsStore s (execAttemptStart s) := by
  unfold execAttemptStart
  split
  · exact idle s
  · split
    · exact still rfl
    · exact idle s

theorem execCollision_keepsStore (s : State) : KeepsStore s (execCollision s) := by
  unfold execCollision
  split
  · split
    · exact still rfl
    · dsimp only
      split <;> exact still rfl
  · exact idle s

theorem execNoticeCommitted_keepsStore (s : State) : KeepsStore s (execNoticeCommitted s) := by
  unfold execNoticeCommitted
  split
  · exact still rfl
  · exact idle s

theorem execFrameSent_keepsStore (s : State) : KeepsStore s (execFrameSent s) := by
  unfold execFrameSent
  split
  · dsimp only
    split <;> exact still rfl
  · exact idle s

theorem execOccupancyBucketEnd_keepsStore (s : State) : KeepsStore s (execOccupancyBucketEnd s) := by
  unfold execOccupancyBucketEnd
  split
  · exact still rfl
  · exact idle s

/-! ### Evidence port -/

theorem commit_recorder (s : State) (e : CommitEffect) : (s.commit e).recorder = s.recorder := by
  cases e <;> rfl

theorem execReadingRequestCommit_keepsStore (s : State) : KeepsStore s (execReadingRequestCommit s) := by
  unfold execReadingRequestCommit
  split
  · exact idle s
  · exact still (commit_recorder _ _)

theorem execUnknownRequest_keepsStore (code : Byte) (s : State) : KeepsStore s (execUnknownRequest code s) :=
  answered _ rfl

theorem execReadSummary_keepsStore (s : State) : KeepsStore s (execReadSummary s) := answered _ rfl

theorem execLogRewind_keepsStore (s : State) : KeepsStore s (execLogRewind s) := answered _ rfl

theorem execLogAck_keepsStore (number : BitVec 16) (s : State) : KeepsStore s (execLogAck number s) := answered _ rfl

theorem execVerdictRewind_keepsStore (s : State) : KeepsStore s (execVerdictRewind s) := answered _ rfl

theorem execHoldList_keepsStore (s : State) : KeepsStore s (execHoldList s) := answered _ rfl

theorem execLogNext_keepsStore (s : State) : KeepsStore s (execLogNext s) := answered _ (by split <;> rfl)

theorem execVerdictNext_keepsStore (s : State) : KeepsStore s (execVerdictNext s) := answered _ (by split <;> rfl)

theorem execHoldPlace_keepsStore (a b c d : Word32) (s : State) : KeepsStore s (execHoldPlace a b c d s) :=
  request _ (placeController_proceeds s _ _).store

theorem execHoldRelease_keepsStore (slot : Byte) (s : State) : KeepsStore s (execHoldRelease slot s) := by
  refine request _ fun w => ?_
  split
  · exact w
  · exact (releaseHold_proceeds s _).store w

theorem execUnitSeek_keepsStore (slot : Byte) (a b : Word32) (s : State) : KeepsStore s (execUnitSeek slot a b s) :=
  answered _ (by split <;> rfl)

theorem execUnitRead_keepsStore (s : State) : KeepsStore s (execUnitRead s) := by
  refine answered _ ?_
  split
  · rfl
  · split
    · rfl
    · split <;> rfl

/-! ### Every command -/

/-- Every command keeps the Recorder within its limits. -/
theorem exec_keepsStore (c : Instr) (s : State) : KeepsStore s (exec c s) := by
  cases c with
  | fullReset => exact execFullReset_keepsStore s
  | configLoaded bytes => exact execConfigLoaded_keepsStore bytes s
  | memoryCheckDone failed => exact execMemoryCheckDone_keepsStore failed s
  | listeningEnd => exact proceeds (listeningEnd_proceeds s)
  | oscillatorTick => exact still rfl
  | unitHeaderComplete bytes => exact execUnitHeaderComplete_keepsStore bytes s
  | payloadComplete payload => exact execPayloadComplete_keepsStore payload s
  | unitDelivery => exact execUnitDelivery_keepsStore s
  | recorderWriteComplete => exact execRecorderWriteComplete_keepsStore s
  | markUnitWrite => exact execMarkUnitWrite_keepsStore s
  | overrunExpiry => exact proceeds (overrunExpiry_proceeds s)
  | audioAbsentDeadline => exact proceeds (audioAbsentDeadline_proceeds s)
  | qualitySilenceExpiry => exact proceeds (qualitySilenceExpiry_proceeds s)
  | tallyBucketBoundary => exact proceeds (tallyBucketBoundary_proceeds s)
  | recoveryExpiry => exact proceeds (recoveryExpiry_proceeds s)
  | historyEntryExpiry => exact proceeds (historyEntryExpiry_proceeds s)
  | referenceSilenceExpiry => exact proceeds (referenceSilenceExpiry_proceeds s)
  | holdoverExpiry => exact proceeds (holdoverExpiry_proceeds s)
  | lineBusy => exact still rfl
  | lineQuiet received => exact execLineQuiet_keepsStore received s
  | frameStart => exact execFrameStart_keepsStore s
  | frameComplete bytes => exact execFrameComplete_keepsStore bytes s
  | attemptStart => exact execAttemptStart_keepsStore s
  | collision => exact execCollision_keepsStore s
  | noticeCommitted => exact execNoticeCommitted_keepsStore s
  | frameSent => exact execFrameSent_keepsStore s
  | occupancyBucketEnd => exact execOccupancyBucketEnd_keepsStore s
  | statusTimerExpiry => exact proceeds (statusTimerExpiry_proceeds s)
  | downshiftDeadline => exact proceeds (downshiftDeadline_proceeds s)
  | peerStaleDeadline station => exact proceeds (peerStaleDeadline_proceeds s station)
  | peerRemovalDeadline station => exact proceeds (peerRemovalDeadline_proceeds s station)
  | divergenceExpiry => exact proceeds (divergenceExpiry_proceeds s)
  | proxyDeadline => exact proceeds (proxyDeadline_proceeds s)
  | holdIntervalClose slot => exact proceeds (holdIntervalClose_proceeds s slot.toNat)
  | holdMaxLengthExpiry slot => exact proceeds (holdMaxLengthExpiry_proceeds s slot.toNat)
  | pulseEnd line => exact proceeds (endPulse_proceeds s line.toNat)
  | chipSelectRise => exact still rfl
  | readingRequestCommit => exact execReadingRequestCommit_keepsStore s
  | unknownRequest code => exact execUnknownRequest_keepsStore code s
  | readSummary => exact execReadSummary_keepsStore s
  | logNext => exact execLogNext_keepsStore s
  | logRewind => exact execLogRewind_keepsStore s
  | logAck number => exact execLogAck_keepsStore number s
  | verdictNext => exact execVerdictNext_keepsStore s
  | verdictRewind => exact execVerdictRewind_keepsStore s
  | holdList => exact execHoldList_keepsStore s
  | holdPlace a b c d => exact execHoldPlace_keepsStore a b c d s
  | holdRelease slot => exact execHoldRelease_keepsStore slot s
  | unitSeek slot seconds micros => exact execUnitSeek_keepsStore slot seconds micros s
  | unitRead => exact execUnitRead_keepsStore s
  | restart => exact execRestart_keepsStore s
  | restartSequence => exact execRestartSequence_keepsStore s
  | missingDelimiter first second => exact execMissingDelimiter_keepsStore first second s

/-- Settles O4: a step idles, or runs the front command on the state with the queue's rest, whose Recorder is the same. -/
theorem everyStepKeepsPinBudget : Obligations.EveryStepKeepsPinBudget := by
  intro s t w h
  unfold step at h
  split at h
  · exact Host.Outcome.next.inj h ▸ w
  · exact exec_keepsStore _ _ t h w

/-- Settles O5: the blocks' own limits at full reset. -/
theorem resetWithinLimits : Obligations.ResetWithinLimits :=
  ⟨State.reset_within [] false, Recorder.reset_within, Nat.zero_le _⟩

end Sys2Proof.Machine
end

section
/-! PROOF. RESTART in FAULT (R193): the cuts of R121 and R180 alone. Settles O15. -/

namespace Sys2Proof.Machine

/-- RESTART in FAULT makes the cuts and answers ACCEPTED (R193). -/
theorem exec_restart_fault {s : State} (idle : s.evidence.txn = none) (fault : s.startup.station = .fault) :
    exec .restart s = .next (s.cutRecords.cutHolds.answer [0x00] .nothing) := by
  change execRestart s = _
  unfold execRestart
  rw [request_served idle, fault]

/-- A record as a restart leaves it: closed, with its end and RESTART_CUT where it was OPEN (R180). -/
theorem restartCut_fields (stop : Stamp) (holds : List Hold) (r : BreachRecord) :
    let x := r.restartCut stop holds
    x.isOpen = false ∧ (r.isOpen = true → x.endStamp = some stop ∧ x.flags.restartCut = true) ∧
      (r.isOpen = false → x.endStamp = r.endStamp) ∧
      x = { r with endStamp := x.endStamp, isOpen := false, flags := { r.flags with restartCut := x.flags.restartCut } } := by
  refine ⟨rfl, fun open_ => ?_, fun closed => ?_, rfl⟩
  · simp [BreachRecord.restartCut, open_]
  · simp [BreachRecord.restartCut, closed]

/-- Settles O15: records and holds by what the cuts make of each. -/
theorem restartInFault : Obligations.RestartInFault := by
  intro s idle fault
  refine ⟨_, exec_restart_fault idle fault, ?_⟩
  rw [cuts_eq]
  exact ⟨rfl, rfl, List.forall₂_map_right_iff.mpr (List.forall₂_same.mpr fun r _ => restartCut_fields _ _ r), rfl,
    cutHold_slots s.recorder s.now, rfl, rfl⟩

end Sys2Proof.Machine
end

section
/-! SUPPORT. What the hold table and the page store read as behind each of the Recorder's operations (R98, R103, R107, R116), and
what the log and the noted breaches read as behind a report about a hold (R159, R173). -/

namespace Sys2Proof.Machine

/-! ### Slots -/

/-- What stands in a slot behind a change of one slot. -/
theorem changeAt_getD {α : Type} (f : α → α) (d : α) (n : Nat) (l : List α) (m : Nat) :
    (changeAt f n l).getD m d = if m = n ∧ m < l.length then f (l.getD m d) else l.getD m d := by
  rw [changeAt_eq_mapIdx, List.getD_eq_getElem?_getD, List.getD_eq_getElem?_getD, List.getElem?_mapIdx]
  by_cases inside : m < l.length
  · rw [List.getElem?_eq_getElem inside]
    by_cases here : m = n
    · subst here
      simp [inside]
    · simp [here]
  · simp [inside]

namespace Recorder

variable (r : Recorder)

theorem hold?_lt {r : Recorder} {n : Nat} {h : Hold} (held : r.hold? n = some h) : n < r.slots.length := by
  by_contra outside
  simp [hold?, Nat.le_of_not_lt outside] at held

theorem hold?_of_getElem? {r : Recorder} {n : Nat} {x : HoldSlot} (at_ : r.slots[n]? = some x) : r.hold? n = x.hold := by
  simp [hold?, at_]

/-- The slots of a Recorder whose slot `n` was changed. -/
theorem hold?_changeAt {q : Recorder} {n : Nat} {f : HoldSlot → HoldSlot} (slots : q.slots = changeAt f n r.slots) (m : Nat) :
    q.hold? m = if m = n ∧ m < r.slots.length then (f (r.slots.getD m ⟨0, none⟩)).hold else r.hold? m := by
  unfold hold?
  rw [slots, changeAt_getD]
  split <;> rfl

theorem tenure_changeAt {q : Recorder} {n : Nat} {f : HoldSlot → HoldSlot} (slots : q.slots = changeAt f n r.slots) (m : Nat) :
    q.tenure m = if m = n ∧ m < r.slots.length then (f (r.slots.getD m ⟨0, none⟩)).tenure else r.tenure m := by
  unfold tenure
  rw [slots, changeAt_getD]
  split <;> rfl

theorem hold?_changeHold (n : Nat) (f : Hold → Hold) (m : Nat) :
    (r.changeHold n f).hold? m = if m = n then (r.hold? m).map f else r.hold? m := by
  rw [hold?_changeAt r (by rfl)]
  by_cases here : m = n
  · by_cases inside : m < r.slots.length
    · rw [if_pos ⟨here, inside⟩, if_pos here]
      rfl
    · have none_ : r.hold? m = none := by simp [hold?, Nat.le_of_not_lt inside]
      rw [if_neg fun both => inside both.2, if_pos here, none_]
      rfl
  · rw [if_neg fun both => here both.1, if_neg here]

@[simp] theorem tenure_changeHold (n : Nat) (f : Hold → Hold) (m : Nat) : (r.changeHold n f).tenure m = r.tenure m := by
  rw [tenure_changeAt r (by rfl)]
  split <;> rfl

/-- A change that leaves the hold in the slot as it is leaves the Recorder as it is. -/
theorem changeHold_same {r : Recorder} {n : Nat} {f : Hold → Hold} (same : ∀ h, r.hold? n = some h → f h = h) :
    r.changeHold n f = r := by
  have slots : changeAt (fun x : HoldSlot => { x with hold := x.hold.map f }) n r.slots = r.slots := by
    rw [changeAt_eq_mapIdx]
    refine List.ext_getElem (List.length_mapIdx ..) fun m _ inside => ?_
    rw [List.getElem_mapIdx]
    split
    · next here =>
      have held := hold?_of_getElem? (List.getElem?_eq_getElem inside)
      subst here
      cases kept : r.slots[m].hold with
      | none => rw [Option.map_none, ← kept]
      | some h => rw [Option.map_some, same h (held.trans kept), ← kept]
    · rfl
  unfold changeHold
  rw [slots]

/-- Steps 1 and 2 of R116 for a slot that is not FREE. -/
theorem freeHold_eq {r : Recorder} {n : Nat} {h : Hold} (held : r.hold? n = some h) : r.freeHold n = { r with
    pages := r.pages.map (fun q => if r.covers h q then { q with pins := q.pins - 1 } else q)
    pinnedTotal := r.pinnedTotal - (r.pages.filter (fun q => r.covers h q && q.pins == 1)).length
    slots := r.slots.mapIdx (fun k x => if k = n then { x with hold := none } else x) } := by
  unfold freeHold
  rw [held, ← changeAt_eq_mapIdx]
  rfl

/-- What a hold freed leaves besides its slot (R116). -/
theorem freeHold_rest {r : Recorder} {n : Nat} {h : Hold} (held : r.hold? n = some h) : r.freeHold n = { r with
    slots := (r.freeHold n).slots
    pages := r.pages.map (fun q => if r.covers h q then { q with pins := q.pins - 1 } else q)
    pinnedTotal := r.pinnedTotal - (r.pages.filter (fun q => r.covers h q && q.pins == 1)).length } := by
  rw [freeHold_eq held]

theorem freeHold_free {r : Recorder} {n : Nat} (free : r.hold? n = none) : r.freeHold n = r := by
  unfold freeHold
  rw [free]

@[simp] theorem hold?_freeHold (n m : Nat) : (r.freeHold n).hold? m = if m = n then none else r.hold? m := by
  cases held : r.hold? n with
  | none =>
    rw [freeHold_free held]
    split
    · next here => exact here ▸ held
    · rfl
  | some h =>
    rw [freeHold_eq held, hold?_changeAt r (changeAt_eq_mapIdx _ _ _).symm]
    by_cases here : m = n
    · rw [if_pos here, if_pos ⟨here, here ▸ hold?_lt held⟩]
    · rw [if_neg here, if_neg fun both => here both.1]

@[simp] theorem tenure_freeHold (n m : Nat) : (r.freeHold n).tenure m = r.tenure m := by
  cases held : r.hold? n with
  | none => rw [freeHold_free held]
  | some h =>
    rw [freeHold_eq held, tenure_changeAt r (changeAt_eq_mapIdx _ _ _).symm]
    split <;> rfl

/-- What several holds freed leave of each slot. -/
theorem hold?_freeAll (l : List Nat) : ∀ (r : Recorder) (m : Nat),
    (l.foldl freeHold r).hold? m = if m ∈ l then none else r.hold? m := by
  induction l with
  | nil => exact fun r m => rfl
  | cons n l ih =>
    intro r m
    rw [List.foldl_cons, ih, hold?_freeHold]
    by_cases here : m = n <;> by_cases later : m ∈ l <;> simp [here, later]

@[simp] theorem tenure_freeAll (l : List Nat) : ∀ (r : Recorder) (m : Nat), (l.foldl freeHold r).tenure m = r.tenure m := by
  induction l with
  | nil => exact fun r m => rfl
  | cons n l ih => exact fun r m => (ih _ m).trans (tenure_freeHold r n m)

/-- The page a Recorder writes in is not changed by freeing holds, nor are the counter, what is written and the MARK requests. -/
theorem freeAll_eq (l : List Nat) : ∀ r : Recorder, l.foldl freeHold r = { r with
    pages := (l.foldl freeHold r).pages, slots := (l.foldl freeHold r).slots
    pinnedTotal := (l.foldl freeHold r).pinnedTotal } := by
  induction l with
  | nil => exact fun r => rfl
  | cons n l ih =>
    intro r
    rw [List.foldl_cons]
    refine (ih (r.freeHold n)).trans ?_
    have rest : ∀ (p : List Page) (x : List HoldSlot) (t : Nat), { r.freeHold n with pages := p, slots := x, pinnedTotal := t }
        = { r with pages := p, slots := x, pinnedTotal := t } := by
      intro p x t
      unfold freeHold
      split <;> rfl
    exact rest _ _ _

/-- The last page of a hold that closes now, said by what is current (R110). -/
theorem lastNow_eq (h : Hold) :
    r.lastNow h = ((r.current.bind r.page?).map (fun p => p.seq)).getD (h.first - 1) := by
  unfold lastNow currentSeq currentPage
  cases r.current <;> rfl

end Recorder

/-! ### Reports about a hold (R159, R173) -/

/-- A report changes the records of the number it names, in place. -/
theorem changeRecord_eq (s : State) (number : Option Nat) (f : BreachRecord → BreachRecord) : s.changeRecord number f =
    s.setLog { s.log with records := s.log.records.map (fun r => if number = some r.number then f r else r) } := by
  cases number with
  | none =>
    have same : s.log.records.map (fun r => if (none : Option Nat) = some r.number then f r else r) = s.log.records :=
      (List.map_congr_left fun r _ => if_neg (by simp)).trans (List.map_id _)
    rw [same]
    rfl
  | some n =>
    simp only [State.changeRecord, BreachLog.change, State.setLog, Option.some.injEq, beq_iff_eq, eq_comm (a := n)]

/-- A record whose hold was evicted (R173). -/
def BreachRecord.evicted (r : BreachRecord) : BreachRecord :=
  { r with hold := none, flags := { r.flags with holdEvicted := true } }

/-- A record whose hold was released (R173). -/
def BreachRecord.released (r : BreachRecord) : BreachRecord := { r with hold := none }

/-- The state without a hold: its slot FREE, the record it names told, and a sympathetic link cleared (R116, R117). -/
def State.withoutHold (s : State) (slot : Nat) (h : Hold) (told : BreachRecord → BreachRecord) : State :=
  ((s.setRecorder (s.recorder.freeHold slot)).setLog { s.log with records := s.log.records.map (fun r =>
    if h.breach = some r.number then told r else r) }).setPeers { s.peers with noted := s.peers.noted.map (fun e =>
      if h.priority = .sympathetic ∧ e.hold = some ⟨slot, s.recorder.tenure slot⟩ then { e with hold := none } else e) }

/-- The link of a hold that is not SYMPATHETIC is not cleared, and that of one that is, is (R159). -/
theorem withoutHold_eq (s : State) (slot : Nat) (h : Hold) (told : BreachRecord → BreachRecord) :
    (h.priority = .sympathetic → s.withoutHold slot h told =
      ((s.setRecorder (s.recorder.freeHold slot)).changeRecord h.breach told).unlinkHold ⟨slot, s.recorder.tenure slot⟩) ∧
    (h.priority ≠ .sympathetic → s.withoutHold slot h told =
      (s.setRecorder (s.recorder.freeHold slot)).changeRecord h.breach told) := by
  refine ⟨fun sympathetic => ?_, fun other => ?_⟩
  · simp [changeRecord_eq, State.withoutHold, State.unlinkHold, sympathetic]
  · simp [changeRecord_eq, State.withoutHold, other]
    rfl

theorem evictHold_eq {s : State} {slot : Nat} {h : Hold} (held : s.recorder.hold? slot = some h) :
    s.evictHold slot = s.withoutHold slot h BreachRecord.evicted := by
  obtain ⟨linked, unlinked⟩ := withoutHold_eq s slot h BreachRecord.evicted
  unfold State.evictHold
  rw [held]
  dsimp only
  split
  · next sympathetic => exact (linked sympathetic).symm
  · next own => exact (unlinked (by simp [own])).symm
  · next controller => exact (unlinked (by simp [controller])).symm

theorem releaseHold_eq {s : State} {slot : Nat} {h : Hold} (held : s.recorder.hold? slot = some h) :
    s.releaseHold slot = s.withoutHold slot h BreachRecord.released := by
  obtain ⟨linked, unlinked⟩ := withoutHold_eq s slot h BreachRecord.released
  unfold State.releaseHold
  rw [held]
  dsimp only
  split
  · next sympathetic => exact (linked sympathetic).symm
  · next own => exact (unlinked (by simp [own])).symm
  · next controller => exact (unlinked (by simp [controller])).symm

theorem evictHold_free {s : State} {slot : Nat} (free : s.recorder.hold? slot = none) : s.evictHold slot = s := by
  unfold State.evictHold
  rw [free]

/-! ### Several holds evicted (R113, R115, R116) -/

/-- Whether one of the slots holds a hold that names the record. -/
def Recorder.names (r : Recorder) (slots : List Nat) (number : Nat) : Bool :=
  slots.any (fun k => (r.hold? k).any (fun h => h.breach == some number))

/-- Whether a sympathetic hold stands in one of the slots under the tenure that a link names. -/
def Recorder.linksTo (r : Recorder) (slots : List Nat) (x : SlotRef) : Bool :=
  decide (x.slot ∈ slots ∧ x.tenure = r.tenure x.slot) && (r.hold? x.slot).any (fun h => h.priority == .sympathetic)

/-- What the evictions tell a record (R173). -/
def Recorder.tell (r : Recorder) (slots : List Nat) (x : BreachRecord) : BreachRecord :=
  if r.names slots x.number then x.evicted else x

/-- What the evictions leave of a noted breach (R159). -/
def Recorder.unlink (r : Recorder) (slots : List Nat) (e : NotedBreach) : NotedBreach :=
  if e.hold.any (r.linksTo slots) then { e with hold := none } else e

theorem Recorder.tell_cons {r : Recorder} {slot : Nat} {h : Hold} (held : r.hold? slot = some h) (slots : List Nat)
    (x : BreachRecord) :
    (r.freeHold slot).tell slots (if h.breach = some x.number then x.evicted else x) = r.tell (slot :: slots) x := by
  have rest : (r.freeHold slot).names slots x.number = true → r.names slots x.number = true := by
    simp only [Recorder.names, List.any_eq_true, Recorder.hold?_freeHold]
    rintro ⟨k, hk, named⟩
    split at named
    · cases named
    · exact ⟨k, hk, named⟩
  have here : r.names (slot :: slots) x.number = (h.breach == some x.number || r.names slots x.number) := by
    simp [Recorder.names, held]
  have same : ¬ h.breach = some x.number → r.names slots x.number = true → (r.freeHold slot).names slots x.number = true := by
    simp only [Recorder.names, List.any_eq_true, Recorder.hold?_freeHold]
    rintro other ⟨k, hk, named⟩
    refine ⟨k, hk, ?_⟩
    split
    · next at_ =>
      rw [at_, held] at named
      exact absurd (by simpa using named) other
    · exact named
  unfold Recorder.tell
  rw [here]
  by_cases named : h.breach = some x.number
  · have number : x.evicted.number = x.number := rfl
    rw [if_pos named, number, named, beq_self_eq_true, Bool.true_or, if_pos rfl]
    split <;> rfl
  · rw [if_neg named, beq_false_of_ne named, Bool.false_or, Bool.eq_iff_iff.mpr ⟨rest, same named⟩]

theorem Recorder.unlink_cons {r : Recorder} {slot : Nat} {h : Hold} (held : r.hold? slot = some h) (slots : List Nat)
    (e : NotedBreach) :
    (r.freeHold slot).unlink slots
      (if h.priority = .sympathetic ∧ e.hold = some ⟨slot, r.tenure slot⟩ then { e with hold := none } else e)
      = r.unlink (slot :: slots) e := by
  cases link : e.hold with
  | none => simp [Recorder.unlink, link]
  | some x =>
    have at_ : (⟨slot, r.tenure slot⟩ : SlotRef) = x ↔ x.slot = slot ∧ x.tenure = r.tenure slot := by
      cases x
      simp [eq_comm]
    by_cases here : x.slot = slot
    · by_cases tenure : x.tenure = r.tenure slot <;> by_cases sympathetic : h.priority = .sympathetic <;>
        simp [Recorder.unlink, Recorder.linksTo, link, here, tenure, sympathetic, held, eq_comm (a := x), at_]
    · simp [Recorder.unlink, Recorder.linksTo, link, here, eq_comm (a := x), at_]

/-- Holds evicted in order: the slots, the records named, the links of sympathetic holds (R116). -/
theorem evictAll_eq (slots : List Nat) : ∀ s : State, s.evictAll slots =
    ((s.setRecorder (slots.foldl Recorder.freeHold s.recorder)).setLog
      { s.log with records := s.log.records.map (s.recorder.tell slots) }).setPeers
      { s.peers with noted := s.peers.noted.map (s.recorder.unlink slots) } := by
  induction slots with
  | nil =>
    intro s
    have records : s.log.records.map (s.recorder.tell []) = s.log.records := List.map_id _
    have noted : s.peers.noted.map (s.recorder.unlink []) = s.peers.noted :=
      (List.map_congr_left fun e _ => by cases link : e.hold <;> simp [Recorder.unlink, Recorder.linksTo, link]).trans
        (List.map_id _)
    rw [records, noted]
    rfl
  | cons slot slots ih =>
    intro s
    have first : s.evictAll (slot :: slots) = (s.evictHold slot).evictAll slots := rfl
    rw [first, ih]
    cases held : s.recorder.hold? slot with
    | none =>
      have records : s.recorder.tell (slot :: slots) = s.recorder.tell slots := by
        funext x
        simp [Recorder.tell, Recorder.names, held]
      have noted : s.recorder.unlink (slot :: slots) = s.recorder.unlink slots := by
        funext e
        cases link : e.hold with
        | none => simp [Recorder.unlink, link]
        | some x =>
          by_cases here : x.slot = slot <;> simp [Recorder.unlink, Recorder.linksTo, link, here, held]
      rw [evictHold_free held, List.foldl_cons, Recorder.freeHold_free held, records, noted]
    | some h =>
      have records : (s.log.records.map (fun r => if h.breach = some r.number then r.evicted else r)).map
          ((s.recorder.freeHold slot).tell slots) = s.log.records.map (s.recorder.tell (slot :: slots)) :=
        (List.map_map ..).trans (List.map_congr_left fun x _ => Recorder.tell_cons held slots x)
      have noted := (List.map_map (g := (s.recorder.freeHold slot).unlink slots) ..).trans
        (List.map_congr_left (l := s.peers.noted) fun e _ => Recorder.unlink_cons held slots e)
      rw [evictHold_eq held, List.foldl_cons, ← records, ← noted]
      rfl

end Sys2Proof.Machine
end

section
/-! PROOF. The ends of an OPEN hold: its set end (R109), the end of its interval (R110), its maximum length (R111). Settles
O51. -/

namespace Sys2Proof.Machine

/-- What a change of the hold in one slot leaves alone (R103). -/
theorem Recorder.changeHold_kept (r : Recorder) (n : Nat) (f : Hold → Hold) :
    (r.changeHold n f).tenure n = r.tenure n ∧
    (∀ m, m ≠ n → (r.changeHold n f).hold? m = r.hold? m ∧ (r.changeHold n f).tenure m = r.tenure m) ∧
    r.changeHold n f = { r with slots := (r.changeHold n f).slots } :=
  ⟨r.tenure_changeHold n f n, fun m other => ⟨by rw [r.hold?_changeHold, if_neg other], r.tenure_changeHold n f m⟩, rfl⟩

theorem Recorder.changeHold_here {r : Recorder} {n : Nat} {h : Hold} (held : r.hold? n = some h) (f : Hold → Hold) :
    (r.changeHold n f).hold? n = some (f h) := by
  rw [r.hold?_changeHold, if_pos rfl, held, Option.map_some]

/-! ### The interval (R110) -/

theorem waitsUpTo_iff (s : State) (t : Nat) : s.waitsUpTo t = true ↔
    (∃ u ∈ s.port.queue, u.arrival.time ≤ t) ∨ ∃ m ∈ s.recorder.marks, m.stamp.time ≤ t := by
  simp [State.waitsUpTo]

theorem holdIntervalClose_free {s : State} {n : Nat} (free : s.recorder.hold? n = none) : s.holdIntervalClose n = s := by
  unfold State.holdIntervalClose
  rw [free]

/-- An OPEN hold whose end has passed closes once nothing stamped up to it waits (R110). -/
theorem holdIntervalClose_due {s : State} {n : Nat} {h : Hold} {stop : Nat} (held : s.recorder.hold? n = some h)
    (open_ : h.isOpen = true) (end_ : h.stop = some stop) (past : stop < s.now) (served : s.waitsUpTo stop = false) :
    s.holdIntervalClose n = s.setRecorder (s.recorder.changeHold n (s.recorder.closedHold s.now stop)) := by
  unfold State.holdIntervalClose
  rw [held]
  dsimp only
  rw [end_]
  exact if_pos (by simp [open_, past, served])

theorem holdIntervalClose_not_due {s : State} {n : Nat} {h : Hold} (held : s.recorder.hold? n = some h)
    (early : h.isOpen = false ∨ h.stop = none ∨ ∃ stop, h.stop = some stop ∧ (s.now ≤ stop ∨ s.waitsUpTo stop = true)) :
    s.holdIntervalClose n = s := by
  unfold State.holdIntervalClose
  rw [held]
  dsimp only
  split
  · rfl
  · next stop end_ =>
    refine if_neg fun due => ?_
    simp only [Bool.and_eq_true, decide_eq_true_eq, Bool.not_eq_true'] at due
    obtain ⟨⟨open_, past⟩, served⟩ := due
    rcases early with closed | endless | ⟨_, is, ahead | waits⟩
    · exact Bool.false_ne_true (closed.symm.trans open_)
    · cases endless.symm.trans end_
    · cases is.symm.trans end_
      exact Nat.not_lt.mpr ahead past
    · cases is.symm.trans end_
      exact Bool.false_ne_true (served.symm.trans waits)

/-! ### The maximum length (R111) -/

/-- A hold truncated at its maximum length (R111; no current page: log 43). -/
def Recorder.truncatedHold (r : Recorder) (now limit : Nat) (h : Hold) : Hold :=
  { r.closedHold now limit h with flags := { h.flags with truncated := true } }

theorem holdMaxLengthExpiry_free {s : State} {n : Nat} (free : s.recorder.hold? n = none) : s.holdMaxLengthExpiry n = s := by
  unfold State.holdMaxLengthExpiry
  rw [free]

theorem holdMaxLengthExpiry_due {s : State} {n : Nat} {h : Hold} (held : s.recorder.hold? n = some h)
    (open_ : h.isOpen = true) (passed : h.start + h.maxLength ≤ s.now)
    (later : ∀ stop, h.stop = some stop → h.start + h.maxLength < stop) :
    s.holdMaxLengthExpiry n = (s.setRecorder (s.recorder.changeHold n
      (s.recorder.truncatedHold s.now (h.start + h.maxLength)))).reportTruncated h.breach := by
  have unended : h.stop.any (fun t => t ≤ h.start + h.maxLength) = false := by
    cases end_ : h.stop with
    | none => rfl
    | some stop => simpa using later stop end_
  unfold State.holdMaxLengthExpiry
  rw [held]
  exact if_pos (by simp [open_, passed, unended])

theorem holdMaxLengthExpiry_not_due {s : State} {n : Nat} {h : Hold} (held : s.recorder.hold? n = some h)
    (early : h.isOpen = false ∨ s.now < h.start + h.maxLength ∨ ∃ stop, h.stop = some stop ∧ stop ≤ h.start + h.maxLength) :
    s.holdMaxLengthExpiry n = s := by
  unfold State.holdMaxLengthExpiry
  rw [held]
  refine if_neg fun due => ?_
  simp only [Bool.and_eq_true, decide_eq_true_eq, Bool.not_eq_true'] at due
  obtain ⟨⟨open_, passed⟩, unended⟩ := due
  rcases early with closed | before | ⟨stop, end_, first⟩
  · exact Bool.false_ne_true (closed.symm.trans open_)
  · exact Nat.not_le.mpr before passed
  · simp [end_, first] at unended

/-! ### The set end (R109) -/

theorem setEnd_ignored {s : State} {n : Nat} {h : Hold} (held : s.recorder.hold? n = some h) {tenure : BitVec 16} (stop : Nat)
    (ignored : tenure ≠ s.recorder.tenure n ∨ h.isOpen = false ∨ h.stop ≠ none) : s.setEnd ⟨n, tenure⟩ stop = s := by
  unfold State.setEnd
  split
  · next same =>
    have still : s.recorder.changeHold n (fun h => if h.isOpen && h.stop.isNone then
        { h with stop := some (shelfAdd stop (s.config.postRoll * second)) } else h) = s.recorder :=
      Recorder.changeHold_same fun x is => by
        cases held.symm.trans is
        refine if_neg fun takes => ?_
        simp only [Bool.and_eq_true, Option.isNone_iff_eq_none] at takes
        rcases ignored with other | closed | ended
        · exact other same.symm
        · exact Bool.false_ne_true (closed.symm.trans takes.1)
        · exact ended takes.2
    exact congrArg s.setRecorder still
  · rfl

/-- Settles O51: each end by whether it is due. -/
theorem holdEnds : Obligations.HoldEnds := by
  intro s slot n kept
  have closes : ∀ {t}, s.holdIntervalClose n = t → exec (.holdIntervalClose slot) s = .next t := congrArg Host.Outcome.next
  have expires : ∀ {t}, s.holdMaxLengthExpiry n = t → exec (.holdMaxLengthExpiry slot) s = .next t :=
    congrArg Host.Outcome.next
  refine ⟨fun free => ⟨closes (holdIntervalClose_free free), expires (holdMaxLengthExpiry_free free)⟩, fun h held => ?_⟩
  intro lastPage limit
  have last : s.recorder.lastNow h = lastPage := Recorder.lastNow_eq ..
  refine ⟨fun stop open_ end_ past units marks => ?close, fun early => ?notClosed, fun open_ passed later => ?expire,
    fun early => expires (holdMaxLengthExpiry_not_due held early), fun tenure stop => ⟨fun same open_ endless => ?set, setEnd_ignored held stop⟩⟩
  case close =>
    have served : s.waitsUpTo stop = false := by
      rw [Bool.eq_false_iff, ne_eq, waitsUpTo_iff]
      rintro (⟨u, hu, waits⟩ | ⟨m, hm, waits⟩)
      · exact Nat.not_lt.mpr waits (units u hu)
      · exact Nat.not_lt.mpr waits (marks m hm)
    refine ⟨_, closes (holdIntervalClose_due held open_ end_ past served), ?_, Recorder.changeHold_kept .., rfl⟩
    rw [State.setRecorder_recorder, Recorder.changeHold_here held, Recorder.closedHold, last, end_]
  case notClosed =>
    refine closes (holdIntervalClose_not_due held ?_)
    simpa only [waitsUpTo_iff] using early
  case expire =>
    refine ⟨_, expires (holdMaxLengthExpiry_due held open_ passed later), ?_⟩
    rw [State.reportTruncated, changeRecord_eq]
    refine ⟨?_, Recorder.changeHold_kept .., fun none_ => ?_, fun b some_ => ?_, rfl⟩
    · refine (Recorder.changeHold_here held _).trans ?_
      rw [Recorder.truncatedHold, Recorder.closedHold, last]
    · exact (by rw [← changeRecord_eq, none_]; rfl)
    · simp only [State.setLog_log, some_, Option.some.injEq, eq_comm (a := b), State.setRecorder_log]
  case set =>
    have named : s.recorder.tenure n = tenure := same.symm
    unfold State.setEnd
    dsimp only
    rw [if_pos named]
    refine ⟨?_, Recorder.changeHold_kept ..⟩
    rw [State.setRecorder_recorder, Recorder.changeHold_here held, if_pos (by simp [open_, endless])]
    rfl

end Sys2Proof.Machine
end

section
/-! SUPPORT. The eviction order (R112) and the shortest leading part of it that a test admits (R113, R115). -/

namespace Sys2Proof.Machine

/-! ### Sorting keeps the order of equal keys -/

/-- Order by a key, and by an earlier order where the keys are equal. -/
def ByKey {α : Type} (key : α → Nat) (earlier : α → α → Prop) (a b : α) : Prop :=
  key a < key b ∨ (key a = key b ∧ earlier a b)

theorem placeBefore_byKey {α : Type} {key : α → Nat} {earlier : α → α → Prop} {x : α} : ∀ {l : List α},
    l.Pairwise (ByKey key earlier) → (∀ y ∈ l, earlier x y) →
    (placeBefore (fun y => key x ≤ key y) x l).Pairwise (ByKey key earlier)
  | [], _, _ => List.pairwise_singleton _ x
  | y :: ys, ordered, first => by
    obtain ⟨head, tail⟩ := List.pairwise_cons.mp ordered
    unfold placeBefore
    split
    · next before =>
      have before : key x ≤ key y := by simpa using before
      have ahead : ∀ z ∈ y :: ys, key x ≤ key z := by
        intro z hz
        rcases List.mem_cons.mp hz with rfl | hz
        · exact before
        · rcases head z hz with less | ⟨same, -⟩
          · exact before.trans less.le
          · exact same ▸ before
      exact List.pairwise_cons.mpr
        ⟨fun z hz => (Nat.lt_or_eq_of_le (ahead z hz)).imp_right fun same => ⟨same, first z hz⟩, ordered⟩
    · next behind =>
      have behind : key y < key x := by simpa using behind
      refine List.pairwise_cons.mpr
        ⟨fun z hz => ?_, placeBefore_byKey tail fun z hz => first z (List.mem_cons_of_mem _ hz)⟩
      rcases List.mem_cons.mp ((placeBefore_perm _ x ys).mem_iff.mp hz) with rfl | hz
      · exact .inl behind
      · exact head z hz

/-- Sorting orders by the key, and keeps an order that the list had where keys are equal. -/
theorem sortBy_byKey {α : Type} {key : α → Nat} {earlier : α → α → Prop} : ∀ {l : List α}, l.Pairwise earlier →
    (sortBy key l).Pairwise (ByKey key earlier)
  | [], _ => List.Pairwise.nil
  | x :: xs, ordered => by
    obtain ⟨head, tail⟩ := List.pairwise_cons.mp ordered
    exact placeBefore_byKey (sortBy_byKey tail) fun y hy => head y ((mem_sortBy key).mp hy)

/-! ### The slots with their numbers -/

theorem mem_numberedSlots {k : Nat} {h : Hold} : ∀ {l : List HoldSlot} {n : Nat},
    (k, h) ∈ numberedSlots n l ↔ n ≤ k ∧ (l.getD (k - n) ⟨0, none⟩).hold = some h
  | [], n => by simp [numberedSlots]
  | x :: xs, n => by
    have rest := mem_numberedSlots (k := k) (h := h) (l := xs) (n := n + 1)
    have later : n < k → ((x :: xs).getD (k - n) ⟨0, none⟩) = xs.getD (k - (n + 1)) ⟨0, none⟩ := by
      intro lt
      obtain ⟨d, rfl⟩ := Nat.exists_eq_add_of_lt lt
      have one : n + d + 1 - n = d + 1 := by omega
      have zero : n + d + 1 - (n + 1) = d := by omega
      rw [one, zero, List.getD_cons_succ]
    have here : (x :: xs).getD (n - n) ⟨0, none⟩ = x := by rw [Nat.sub_self, List.getD_cons_zero]
    unfold numberedSlots
    rcases Nat.lt_trichotomy k n with before | rfl | after
    · split <;> simp [rest, Nat.not_le.mpr before, Nat.not_le.mpr (Nat.lt_succ_of_lt before), before.ne]
    · rw [here]
      split <;> next held => simp [rest, held, eq_comm]
    · rw [later after]
      split <;> simp [rest, after.le, after, after.ne']

theorem numberedSlots_ordered : ∀ (l : List HoldSlot) (n : Nat), (numberedSlots n l).Pairwise (fun a b => a.1 < b.1)
  | [], _ => List.Pairwise.nil
  | x :: xs, n => by
    have rest := numberedSlots_ordered xs (n + 1)
    unfold numberedSlots
    split
    · exact rest
    · exact List.pairwise_cons.mpr ⟨fun b hb => (mem_numberedSlots.mp hb).1, rest⟩

/-! ### The eviction order (R112) -/

theorem Priority.number_inj {p q : Priority} : p.number = q.number → p = q := by
  cases p <;> cases q <;> simp [Priority.number]

/-- The holds a requester may evict, with their slots (R112). -/
def Recorder.eligible (r : Recorder) (requester : Nat) : List (Nat × Hold) :=
  (numberedSlots 0 r.slots).filter (fun x => !x.2.isOpen && x.2.priority.number < requester)

theorem Recorder.mem_eligible {r : Recorder} {requester : Nat} {x : Nat × Hold} : x ∈ r.eligible requester ↔
    r.hold? x.1 = some x.2 ∧ x.2.isOpen = false ∧ x.2.priority.number < requester := by
  have stands : x ∈ numberedSlots 0 r.slots ↔ r.hold? x.1 = some x.2 :=
    mem_numberedSlots.trans ⟨fun h => h.2, fun h => ⟨Nat.zero_le _, h⟩⟩
  simp [Recorder.eligible, stands]

theorem Recorder.evictable_eq (r : Recorder) (requester : Nat) : r.evictable requester =
    (sortBy (fun x => x.2.priority.number) (sortBy (fun x => x.2.closeStamp.getD 0) (r.eligible requester))).map
      (fun x => x.1) := rfl

theorem Recorder.mem_sorted_eligible {r : Recorder} {requester : Nat} {x : Nat × Hold} :
    x ∈ sortBy (fun x => x.2.priority.number) (sortBy (fun x => x.2.closeStamp.getD 0) (r.eligible requester)) ↔
      r.hold? x.1 = some x.2 ∧ x.2.isOpen = false ∧ x.2.priority.number < requester := by
  rw [mem_sortBy, mem_sortBy, Recorder.mem_eligible]

/-- CLOSED holds of lower priority, and those alone (R112). -/
theorem Recorder.mem_evictable {r : Recorder} {requester n : Nat} : n ∈ r.evictable requester ↔
    ∃ h, r.hold? n = some h ∧ h.isOpen = false ∧ h.priority.number < requester := by
  rw [Recorder.evictable_eq, List.mem_map]
  constructor
  · rintro ⟨x, hx, rfl⟩
    exact ⟨x.2, Recorder.mem_sorted_eligible.mp hx⟩
  · rintro ⟨h, eligible⟩
    exact ⟨(n, h), Recorder.mem_sorted_eligible.mpr eligible, rfl⟩

/-- By priority, then by close stamp, then by slot number (R112). -/
theorem Recorder.evictable_ordered (r : Recorder) (requester : Nat) :
    (r.evictable requester).Pairwise (fun a b => ∀ x y, r.hold? a = some x → r.hold? b = some y →
      x.priority.number < y.priority.number ∨ (x.priority = y.priority ∧
        (x.closeStamp.getD 0 < y.closeStamp.getD 0 ∨ (x.closeStamp.getD 0 = y.closeStamp.getD 0 ∧ a < b)))) := by
  have bySlot : (r.eligible requester).Pairwise (fun a b => a.1 < b.1) := (numberedSlots_ordered r.slots 0).filter _
  have sorted := sortBy_byKey (key := fun x : Nat × Hold => x.2.priority.number)
    (sortBy_byKey (key := fun x : Nat × Hold => x.2.closeStamp.getD 0) bySlot)
  rw [Recorder.evictable_eq, List.pairwise_map]
  refine sorted.imp_of_mem fun {a b} ha hb order x y hx hy => ?_
  cases (Recorder.mem_sorted_eligible.mp ha).1.symm.trans hx
  cases (Recorder.mem_sorted_eligible.mp hb).1.symm.trans hy
  exact order.imp_right fun ⟨same, closed⟩ => ⟨Priority.number_inj same, closed⟩

/-- A SYMPATHETIC requester evicts nothing: no priority is lower (R112). -/
theorem Recorder.evictable_sympathetic (r : Recorder) : r.evictable Priority.sympathetic.number = [] := by
  refine List.eq_nil_iff_forall_not_mem.mpr fun n hn => ?_
  obtain ⟨h, -, -, lower⟩ := Recorder.mem_evictable.mp hn
  cases priority : h.priority <;> simp [priority, Priority.number] at lower

/-! ### The shortest leading part (R113, R115) -/

/-- The first hold whose eviction, behind those before it, satisfies the test ends the part. -/
theorem shortestEviction_first {test : Recorder → Bool} {n : Nat} {after : List Nat} : ∀ {before : List Nat} {r : Recorder},
    test ((before ++ [n]).foldl Recorder.freeHold r) = true →
    (∀ k, k < before.length → test ((before.take (k + 1)).foldl Recorder.freeHold r) = false) →
    shortestEviction test r (before ++ n :: after) = some (before ++ [n])
  | [], r, admits, _ => by
    rw [List.nil_append, shortestEviction]
    exact if_pos admits
  | x :: before, r, admits, earlier => by
    have rest := shortestEviction_first (before := before) (r := r.freeHold x) (after := after) admits
      fun k hk => earlier (k + 1) (Nat.succ_lt_succ hk)
    have refused : test (r.freeHold x) = false := earlier 0 (Nat.succ_pos _)
    rw [List.cons_append, shortestEviction, refused, rest]
    rfl

/-- Where no leading part satisfies the test there is none. -/
theorem shortestEviction_none {test : Recorder → Bool} : ∀ {l : List Nat} {r : Recorder},
    (∀ k, k < l.length → test ((l.take (k + 1)).foldl Recorder.freeHold r) = false) → shortestEviction test r l = none
  | [], _, _ => rfl
  | x :: l, r, refused => by
    have rest := shortestEviction_none (l := l) (r := r.freeHold x) fun k hk => refused (k + 1) (Nat.succ_lt_succ hk)
    have here : test (r.freeHold x) = false := refused 0 (Nat.succ_pos _)
    rw [shortestEviction, here, rest]
    rfl

/-- A part chosen is a leading part, not empty, and no shorter one satisfies the test. -/
theorem shortestEviction_shortest {test : Recorder → Bool} : ∀ {l : List Nat} {r : Recorder} {e : List Nat},
    shortestEviction test r l = some e → e <+: l ∧ e ≠ [] ∧
      ∀ m, m <+: l → m ≠ [] → m.length < e.length → test (m.foldl Recorder.freeHold r) = false
  | [], _, _, chosen => nomatch chosen
  | x :: l, r, e, chosen => by
    unfold shortestEviction at chosen
    split at chosen
    · cases chosen
      exact ⟨⟨l, rfl⟩, List.cons_ne_nil _ _, fun m _ some_ short =>
        absurd (List.length_pos_of_ne_nil some_) (Nat.not_lt.mpr (Nat.le_of_lt_succ short))⟩
    · next refused =>
      obtain ⟨rest, behind, rfl⟩ := Option.map_eq_some_iff.mp chosen
      obtain ⟨leading, -, shortest⟩ := shortestEviction_shortest behind
      refine ⟨List.cons_prefix_cons.mpr ⟨rfl, leading⟩, List.cons_ne_nil _ _, fun m prefix_ some_ short => ?_⟩
      obtain ⟨y, m, rfl⟩ := List.exists_cons_of_ne_nil some_
      obtain ⟨rfl, leads⟩ := List.cons_prefix_cons.mp prefix_
      by_cases empty : m = []
      · subst empty
        exact Bool.eq_false_iff.mpr refused
      · exact shortest m leads empty (Nat.lt_of_succ_lt_succ short)

/-- Where there is none, no leading part that is not empty satisfies the test. -/
theorem shortestEviction_refused {test : Recorder → Bool} : ∀ {l : List Nat} {r : Recorder},
    shortestEviction test r l = none → ∀ m, m <+: l → m ≠ [] → test (m.foldl Recorder.freeHold r) = false
  | [], _, _, m, prefix_, some_ => absurd (List.prefix_nil.mp prefix_) some_
  | x :: l, r, none_, m, prefix_, some_ => by
    unfold shortestEviction at none_
    split at none_
    · cases none_
    · next refused =>
      obtain ⟨y, m, rfl⟩ := List.exists_cons_of_ne_nil some_
      obtain ⟨rfl, leads⟩ := List.cons_prefix_cons.mp prefix_
      by_cases empty : m = []
      · subst empty
        exact Bool.eq_false_iff.mpr refused
      · exact shortestEviction_refused (Option.map_eq_none_iff.mp none_) m leads empty

/-- The evictions a placement needs are the shortest leading part, the empty one included, that makes room (R113). -/
theorem Recorder.evictionsFor_shortest {r : Recorder} {h : Hold} {e : List Nat} (chosen : r.evictionsFor h = some e) :
    e <+: r.evictable h.priority.number ∧ (e.foldl Recorder.freeHold r).roomFor h = true ∧
      ∀ m, m <+: r.evictable h.priority.number → m.length < e.length → ¬ (m.foldl Recorder.freeHold r).roomFor h = true := by
  refine ⟨?_, Recorder.evictionsFor_room chosen, ?_⟩
  all_goals
    unfold Recorder.evictionsFor at chosen
    split at chosen
  · cases chosen
    exact List.nil_prefix
  · exact (shortestEviction_shortest chosen).1
  · cases chosen
    exact fun m _ short => absurd short (Nat.not_lt_zero _)
  · next full =>
    intro m prefix_ short
    by_cases empty : m = []
    · exact empty ▸ full
    · exact Bool.eq_false_iff.mp ((shortestEviction_shortest chosen).2.2 m prefix_ empty short)

theorem Recorder.evictionsFor_none {r : Recorder} {h : Hold} : r.evictionsFor h = none ↔
    ∀ m, m <+: r.evictable h.priority.number → ¬ (m.foldl Recorder.freeHold r).roomFor h = true := by
  refine ⟨fun none_ m prefix_ => ?_, fun refused => ?_⟩
  · unfold Recorder.evictionsFor at none_
    split at none_
    · cases none_
    · next full =>
      by_cases empty : m = []
      · exact empty ▸ full
      · exact Bool.eq_false_iff.mp (shortestEviction_refused none_ m prefix_ empty)
  · cases chosen : r.evictionsFor h with
    | none => rfl
    | some e => exact absurd (Recorder.evictionsFor_room chosen) (refused e (Recorder.evictionsFor_shortest chosen).1)

end Sys2Proof.Machine
end

section
/-! PROOF. Placing a hold (R105 to R107, R112 to R114): its interval, its range, its room, the evictions it needs, and what its
placement leaves behind. Settles O52. -/

namespace Sys2Proof.Machine

/-! ### The room a hold needs (R112, R113) -/

namespace Recorder

variable (r : Recorder)

theorem freeSlotFrom_some {k : Nat} : ∀ {l : List HoldSlot} {n : Nat}, freeSlotFrom n l = some k →
    n ≤ k ∧ k - n < l.length ∧ (l.getD (k - n) ⟨0, none⟩).hold = none ∧
      ∀ m, n ≤ m → m < k → (l.getD (m - n) ⟨0, none⟩).hold ≠ none
  | [], _, found => nomatch found
  | x :: xs, n, found => by
    unfold freeSlotFrom at found
    split at found
    · next free =>
      cases found
      refine ⟨Nat.le_refl _, by simp, ?_, fun m low high => absurd low (Nat.not_le.mpr high)⟩
      simpa using free
    · next held =>
      obtain ⟨low, inside, free, lowest⟩ := freeSlotFrom_some found
      have shift : ∀ m, n + 1 ≤ m → (x :: xs).getD (m - n) ⟨0, none⟩ = xs.getD (m - (n + 1)) ⟨0, none⟩ := by
        intro m later
        have one : m - n = m - (n + 1) + 1 := by omega
        rw [one, List.getD_cons_succ]
      refine ⟨Nat.le_of_succ_le low, ?_, shift k low ▸ free, fun m at_ before => ?_⟩
      · rw [List.length_cons]
        omega
      · rcases Nat.eq_or_lt_of_le at_ with rfl | later
        · simpa using held
        · exact shift m later ▸ lowest m later before

theorem freeSlotFrom_none : ∀ {l : List HoldSlot} {n : Nat}, freeSlotFrom n l = none → ∀ x ∈ l, x.hold ≠ none
  | [], _, _, x, hx => nomatch hx
  | y :: ys, n, none_, x, hx => by
    unfold freeSlotFrom at none_
    split at none_
    · cases none_
    · next held =>
      rcases List.mem_cons.mp hx with rfl | hx
      · simpa using held
      · exact freeSlotFrom_none none_ x hx

/-- The slot a placement takes is the lowest FREE one (R106). -/
theorem freeSlot_some {r : Recorder} {n : Nat} (found : r.freeSlot = some n) :
    n < r.slots.length ∧ r.hold? n = none ∧ ∀ m, m < n → r.hold? m ≠ none := by
  obtain ⟨-, inside, free, lowest⟩ := freeSlotFrom_some found
  exact ⟨inside, free, fun m before => lowest m (Nat.zero_le _) before⟩

theorem freeSlot_isSome : r.freeSlot.isSome = true ↔ ∃ n, n < r.slots.length ∧ r.hold? n = none := by
  cases found : r.freeSlot with
  | some n =>
    obtain ⟨inside, free, -⟩ := freeSlot_some found
    exact ⟨fun _ => ⟨n, inside, free⟩, fun _ => rfl⟩
  | none =>
    refine ⟨fun some_ => (nomatch some_), fun ⟨n, inside, free⟩ => ?_⟩
    have held := freeSlotFrom_none found _ (List.getElem_mem inside)
    exact absurd ((hold?_of_getElem? (List.getElem?_eq_getElem inside)).symm.trans free) held

theorem roomFor_iff (h : Hold) : r.roomFor h = true ↔
    r.pinnedTotal + (r.pages.filter (fun q => r.covers h q && q.pins == 0)).length ≤ 61440 ∧
      ∃ n, n < r.slots.length ∧ r.hold? n = none := by
  unfold roomFor
  rw [Bool.and_eq_true, decide_eq_true_eq, freeSlot_isSome]
  rfl

/-- The pages of a hold: from its first to its last, or to the current page while it is OPEN (R103). -/
theorem covers_iff (h : Hold) (q : Page) : r.covers h q = true ↔ h.first ≤ q.seq ∧
    ((∃ last, h.last = some last ∧ q.seq ≤ last) ∨ (h.last = none ∧ ∃ c, r.currentPage = some c ∧ q.seq ≤ c.seq)) := by
  unfold covers currentSeq
  cases h.last with
  | some last => simp
  | none => cases r.currentPage <;> simp

end Recorder

/-! ### The interval (R105) -/

theorem limitInterval_eq (m start : Nat) (stop : Option Nat) :
    let tooLong := stop.any (fun x => decide (m < x - start))
    limitInterval m start stop = ⟨if tooLong then stop.getD 0 - m else start, stop, tooLong⟩ := by
  unfold limitInterval
  cases stop with
  | none => rfl
  | some x => by_cases long : m < x - start <;> simp [long]

/-- The start of the interval before it is limited: the requester's, less the pre-roll where the station asks (R105). -/
def WorkingCopy.rolledStart (c : WorkingCopy) (p : Priority) (start : Nat) : Nat :=
  if p = .controller then start else start - c.preRoll * second

/-- The end of the interval: the requester's, plus the post-roll where the station asks (R105). -/
def WorkingCopy.rolledStop (c : WorkingCopy) (p : Priority) (stop : Option Nat) : Option Nat :=
  if p = .controller then stop else stop.map (fun x => min (x + c.postRoll * second) shelfMax)

/-- A CONTROLLER placement whose end is before its start is refused at once (R105). -/
theorem formInterval_none {c : WorkingCopy} {p : Priority} {start : Nat} {stop : Option Nat}
    (refused : p = .controller ∧ ∃ x, stop = some x ∧ x < start) : formInterval c p start stop = none := by
  obtain ⟨rfl, x, rfl, before⟩ := refused
  simp [formInterval, before]

/-- Any other placement has its interval, limited to the maximum length (R105). -/
theorem formInterval_some {c : WorkingCopy} {p : Priority} {start : Nat} {stop : Option Nat}
    (taken : ¬ (p = .controller ∧ ∃ x, stop = some x ∧ x < start)) : formInterval c p start stop =
      some (limitInterval (c.maxHold * second) (c.rolledStart p start) (c.rolledStop p stop)) := by
  cases p with
  | own | sympathetic => simp [formInterval, WorkingCopy.rolledStart, WorkingCopy.rolledStop, shelfAdd]
  | controller =>
    have ends : stop.any (fun t => decide (t < start)) = false := by
      cases stop with
      | none => rfl
      | some x => simpa using fun before => taken ⟨rfl, x, rfl, before⟩
    exact if_neg (by simp [ends])

/-! ### The range (R107) -/

theorem le_foldl_max {n : Nat} : ∀ {l : List Nat} {a : Nat}, n ≤ a ∨ n ∈ l → n ≤ l.foldl max a
  | [], a, h => h.elim id fun hn => absurd hn List.not_mem_nil
  | x :: l, a, h => by
    refine le_foldl_max (l := l) (a := max a x) ?_
    rcases h with low | hn
    · exact .inl (low.trans (Nat.le_max_left a x))
    · rcases List.mem_cons.mp hn with rfl | hn
      · exact .inl (Nat.le_max_right a n)
      · exact .inr hn

theorem foldl_max_le {n : Nat} : ∀ {l : List Nat} {a : Nat}, a ≤ n → (∀ x ∈ l, x ≤ n) → l.foldl max a ≤ n
  | [], _, low, _ => low
  | x :: l, a, low, all => foldl_max_le (l := l) (a := max a x) (Nat.max_le.mpr ⟨low, all x (List.mem_cons_self ..)⟩)
      fun y hy => all y (List.mem_cons_of_mem _ hy)

namespace Recorder

variable (r : Recorder)

/-- The pages that a hold placed CLOSED can end at (R107). -/
def EndsWithin (first stop : Nat) (q : Page) : Prop := q ∈ r.pages ∧ first ≤ q.seq ∧ ∃ f, q.first = some f ∧ f.time ≤ stop

theorem mem_endsWithin {first stop : Nat} {q : Page} :
    q ∈ r.pages.filter (fun p => first ≤ p.seq && p.first.any (fun t => t.time ≤ stop)) ↔ r.EndsWithin first stop q := by
  cases begun : q.first <;> simp [EndsWithin, begun, List.mem_filter]

theorem lastSeqTo_none {first stop : Nat} (none_ : ∀ q, ¬ r.EndsWithin first stop q) :
    r.lastSeqTo first stop = first - 1 := by
  have empty := List.eq_nil_iff_forall_not_mem.mpr fun q hq => none_ q (r.mem_endsWithin.mp hq)
  unfold lastSeqTo
  rw [empty]
  rfl

theorem lastSeqTo_greatest {first stop : Nat} {q : Page} (ends : r.EndsWithin first stop q)
    (greatest : ∀ y, r.EndsWithin first stop y → y.seq ≤ q.seq) : r.lastSeqTo first stop = q.seq := by
  unfold lastSeqTo
  refine Nat.le_antisymm (foldl_max_le (Nat.sub_le_of_le_add (ends.2.1.trans (Nat.le_succ _))) ?_)
    (le_foldl_max (.inr (List.mem_map_of_mem (f := fun p : Page => p.seq) (r.mem_endsWithin.mpr ends))))
  intro n hn
  obtain ⟨y, hy, rfl⟩ := List.mem_map.mp hn
  exact greatest y (r.mem_endsWithin.mp hy)

/-- The pages a hold can begin at (R107; a page without stamps is not one: log 15). -/
def Reaches (start : Nat) (q : Page) : Prop := q ∈ r.pages ∧ ∃ x, q.last = some x ∧ start ≤ x.time

theorem mem_reaches {start : Nat} {q : Page} :
    q ∈ r.pages.filter (fun p => p.last.any (fun t => start ≤ t.time)) ↔ r.Reaches start q := by
  cases written : q.last <;> simp [Reaches, written, List.mem_filter]

theorem firstPage_none {start : Nat} (none_ : ∀ q, ¬ r.Reaches start q) : r.firstPage start = r.currentPage := by
  have empty := List.eq_nil_iff_forall_not_mem.mpr fun q hq => none_ q (r.mem_reaches.mp hq)
  unfold firstPage
  rw [empty]
  rfl

/-- The oldest page that reaches to the start is the first (R107). -/
theorem firstPage_oldest {start : Nat} {q : Page} (reaches : r.Reaches start q)
    (oldest : ∀ y, r.Reaches start y → y ≠ q → q.seq < y.seq) : r.firstPage start = some q := by
  unfold firstPage
  split
  · next p least =>
    have reached := r.mem_reaches.mp (leastBy_mem _ _ _ least)
    by_cases same : p = q
    · rw [same]
    · exact absurd (leastBy_le _ least q (r.mem_reaches.mpr reaches)) (Nat.not_le.mpr (oldest p reached same))
  · next none_ =>
    have empty := (leastBy_eq_none_iff _ _).mp none_
    exact absurd (r.mem_reaches.mpr reaches) (empty ▸ List.not_mem_nil)

theorem firstSeq_current {r : Recorder} {c : Page} (current : r.currentPage = some c) (start : Nat) :
    r.firstSeq start = ((r.firstPage start).map (fun p => p.seq)).getD r.counter ∧
      r.shortPreroll start = (r.firstPage start).any (fun p => p.first.any (fun t => start < t.time)) := by
  unfold firstSeq shortPreroll
  rw [current]
  exact ⟨rfl, rfl⟩

theorem firstSeq_no_current {r : Recorder} (none_ : r.currentPage = none) (start : Nat) :
    r.firstSeq start = r.counter ∧ r.shortPreroll start = true := by
  unfold firstSeq shortPreroll
  rw [none_]
  exact ⟨rfl, rfl⟩

/-- The hold to be placed is CLOSED exactly where its end is before now (R106). -/
theorem formHold_isOpen (now : Nat) (p : Priority) (i : HoldInterval) (breach : Option Nat) (m : Nat) :
    (r.formHold now p i breach m).isOpen = true ↔ ∀ x, i.stop = some x → now ≤ x := by
  unfold formHold
  cases i.stop <;> simp

theorem formHold_open {now : Nat} {p : Priority} {i : HoldInterval} {breach : Option Nat} {m : Nat}
    (open_ : (r.formHold now p i breach m).isOpen = true) :
    (r.formHold now p i breach m).last = none ∧ (r.formHold now p i breach m).closeStamp = none := by
  have closed : i.stop.any (fun t => t < now) = false := (Bool.not_eq_true' _).mp open_
  exact ⟨if_neg (by simp [closed]), if_neg (by simp [closed])⟩

theorem formHold_closed {now : Nat} {p : Priority} {i : HoldInterval} {breach : Option Nat} {m : Nat}
    (shut : (r.formHold now p i breach m).isOpen = false) :
    (r.formHold now p i breach m).last = some (r.lastSeqTo (r.firstSeq i.start) (i.stop.getD 0)) ∧
      (r.formHold now p i breach m).closeStamp = some now := by
  have closed : i.stop.any (fun t => t < now) = true := by simpa [formHold] using shut
  exact ⟨if_pos closed, if_pos closed⟩

end Recorder

/-! ### A hold placed (R106, R107) -/

/-- A record told of the hold placed for it (R106, R173). -/
def BreachRecord.placed (ref : SlotRef) (h : Hold) (r : BreachRecord) : BreachRecord :=
  { r with
    hold := some ref
    flags := { r.flags with
      prerollShort := r.flags.prerollShort || h.flags.prerollShort
      holdTruncated := r.flags.holdTruncated || h.flags.truncated } }

/-- A record told of the evictions a placement makes and then of the placement. -/
def Recorder.tellPlaced (r : Recorder) (evicted : List Nat) (ref : SlotRef) (h : Hold) (x : BreachRecord) : BreachRecord :=
  if h.breach = some x.number then (r.tell evicted x).placed ref h else r.tell evicted x

/-- The state with a hold placed in a slot behind evictions. -/
def State.withPlaced (s : State) (evicted : List Nat) (slot : Nat) (h : Hold) : State :=
  ((s.setRecorder ((evicted.foldl Recorder.freeHold s.recorder).fillSlot slot
      { h with flags := { h.flags with evictedOthers := !evicted.isEmpty } })).setLog { s.log with
    records := s.log.records.map (s.recorder.tellPlaced evicted ⟨slot, s.recorder.tenure slot + 1⟩ h) }).setPeers
    { s.peers with noted := s.peers.noted.map (s.recorder.unlink evicted) }

theorem Recorder.tell_number (r : Recorder) (slots : List Nat) (x : BreachRecord) : (r.tell slots x).number = x.number := by
  unfold Recorder.tell
  split <;> rfl

/-- What stands in the slot a hold was placed in, and its tenure (R106). -/
theorem Recorder.fillSlot_reads {r : Recorder} {slot : Nat} (inside : slot < r.slots.length) (h : Hold) :
    (r.fillSlot slot h).hold? slot = some { h with pinned := r.countPages (r.covers h) } ∧
    (r.fillSlot slot h).tenure slot = r.tenure slot + 1 ∧
    ∀ n, n ≠ slot → (r.fillSlot slot h).hold? n = r.hold? n ∧ (r.fillSlot slot h).tenure n = r.tenure n := by
  have slots : (r.fillSlot slot h).slots =
      changeAt (fun x => ⟨x.tenure + 1, some { h with pinned := r.countPages (r.covers h) }⟩) slot r.slots := rfl
  refine ⟨?_, ?_, fun n other => ⟨?_, ?_⟩⟩
  · rw [r.hold?_changeAt slots, if_pos ⟨rfl, inside⟩]
  · rw [r.tenure_changeAt slots, if_pos ⟨rfl, inside⟩]
    rfl
  · rw [r.hold?_changeAt slots, if_neg fun both => other both.1]
  · rw [r.tenure_changeAt slots, if_neg fun both => other both.1]

/-- The hold a placement would make, its pinned count still 0 (R105 to R107). -/
def State.holdFor (s : State) (p : Priority) (start : Nat) (stop breach : Option Nat) : Hold :=
  s.recorder.formHold s.now p
    (limitInterval (s.config.maxHold * second) (s.config.rolledStart p start) (s.config.rolledStop p stop)) breach
    (s.config.maxHold * second)

/-- A placement that finds room, behind evictions where it needs them, takes the lowest FREE slot (R106, R113). -/
theorem placeHold_placed {s : State} {p : Priority} {start : Nat} {stop : Option Nat} (breach : Option Nat)
    (taken : ¬ (p = .controller ∧ ∃ x, stop = some x ∧ x < start)) {evicted : List Nat} {slot : Nat}
    (evictions : s.recorder.evictionsFor (s.holdFor p start stop breach) = some evicted)
    (free : (evicted.foldl Recorder.freeHold s.recorder).freeSlot = some slot) :
    s.placeHold p start stop breach =
      (s.withPlaced evicted slot (s.holdFor p start stop breach), some ⟨slot, s.recorder.tenure slot + 1⟩) := by
  obtain ⟨inside, -, -⟩ := Recorder.freeSlot_some free
  have tenure : ∀ h, ((evicted.foldl Recorder.freeHold s.recorder).fillSlot slot h).tenure slot
      = s.recorder.tenure slot + 1 := fun h => by
    rw [(Recorder.fillSlot_reads inside h).2.1, Recorder.tenure_freeAll]
  have told : ∀ ref h, s.log.records.map (s.recorder.tellPlaced evicted ref h) =
      (s.log.records.map (s.recorder.tell evicted)).map (fun r => if h.breach = some r.number then r.placed ref h else r) :=
    fun ref h => (List.map_map.trans (List.map_congr_left fun x _ => by
      rw [Function.comp_apply, s.recorder.tell_number]
      rfl)).symm
  have named : (s.holdFor p start stop breach).breach = breach := rfl
  unfold State.placeHold
  rw [formInterval_some taken]
  dsimp only
  rw [← State.holdFor, evictions]
  generalize s.holdFor p start stop breach = h at named ⊢
  subst named
  dsimp only
  rw [evictAll_recorder, free]
  dsimp only
  rw [State.setRecorder_recorder, tenure, State.reportPlaced, changeRecord_eq, evictAll_eq, State.withPlaced, told]
  rfl

/-- A placement is refused at once, or for want of room, or takes a slot (R105, R113, R114). -/
theorem placeHold_cases (s : State) (p : Priority) (start : Nat) (stop breach : Option Nat) :
    ((p = .controller ∧ ∃ x, stop = some x ∧ x < start) ∧ s.placeHold p start stop breach = (s, none)) ∨
    (s.recorder.evictionsFor (s.holdFor p start stop breach) = none ∧ s.placeHold p start stop breach = (s, none)) ∨
    (¬ (p = .controller ∧ ∃ x, stop = some x ∧ x < start) ∧
      ∃ evicted slot, s.recorder.evictionsFor (s.holdFor p start stop breach) = some evicted ∧
        (evicted.foldl Recorder.freeHold s.recorder).freeSlot = some slot ∧
        s.placeHold p start stop breach =
          (s.withPlaced evicted slot (s.holdFor p start stop breach), some ⟨slot, s.recorder.tenure slot + 1⟩)) := by
  by_cases refused : p = .controller ∧ ∃ x, stop = some x ∧ x < start
  · refine .inl ⟨refused, ?_⟩
    unfold State.placeHold
    rw [formInterval_none refused]
  refine .inr ?_
  cases evictions : s.recorder.evictionsFor (s.holdFor p start stop breach) with
  | none =>
    refine .inl ⟨rfl, ?_⟩
    unfold State.placeHold
    rw [formInterval_some refused]
    dsimp only
    rw [← State.holdFor, evictions]
  | some evicted =>
    have room := ((Recorder.roomFor_iff _ _).mp (Recorder.evictionsFor_room evictions)).2
    obtain ⟨slot, free⟩ := Option.isSome_iff_exists.mp ((Recorder.freeSlot_isSome _).mpr room)
    exact .inr ⟨refused, evicted, slot, rfl, free, placeHold_placed breach refused evictions free⟩

/-- A refused placement changes nothing (R114). -/
theorem placeHold_refused {s : State} {p : Priority} {start : Nat} {stop breach : Option Nat}
    (refused : (s.placeHold p start stop breach).2 = none) : (s.placeHold p start stop breach).1 = s := by
  rcases placeHold_cases s p start stop breach with ⟨-, same⟩ | ⟨-, same⟩ | ⟨-, _, _, -, -, placed⟩
  · rw [same]
  · rw [same]
  · rw [placed] at refused
    cases refused

/-- A placement is refused exactly at once or where no part of the eviction order makes room (R105, R113). -/
theorem placeHold_refused_iff (s : State) (p : Priority) (start : Nat) (stop breach : Option Nat) :
    (s.placeHold p start stop breach).2 = none ↔ (p = .controller ∧ ∃ x, stop = some x ∧ x < start) ∨
      ∀ l, l <+: s.recorder.evictable p.number →
        ¬ (l.foldl Recorder.freeHold s.recorder).roomFor (s.holdFor p start stop breach) = true := by
  rcases placeHold_cases s p start stop breach with ⟨refused, same⟩ | ⟨none_, same⟩ | ⟨taken, e, slot, evictions, -, placed⟩
  · exact ⟨fun _ => .inl refused, fun _ => by rw [same]⟩
  · exact ⟨fun _ => .inr (Recorder.evictionsFor_none.mp none_), fun _ => by rw [same]⟩
  · refine ⟨fun refused => ?_, fun refused => ?_⟩
    · rw [placed] at refused
      cases refused
    · rcases refused with atOnce | full
      · exact absurd atOnce taken
      · exact absurd (Recorder.evictionsFor_room evictions) (full e (Recorder.evictionsFor_shortest evictions).1)

/-- What the placed state reads as (R106, R107, R116). -/
theorem withPlaced_recorder {s : State} {evicted : List Nat} {slot : Nat}
    (free : (evicted.foldl Recorder.freeHold s.recorder).freeSlot = some slot) (h : Hold) :
    let freed := evicted.foldl Recorder.freeHold s.recorder
    let t := s.withPlaced evicted slot h
    t.recorder.tenure slot = s.recorder.tenure slot + 1 ∧
    t.recorder.hold? slot = some { h with
      pinned := freed.countPages (freed.covers h), flags := { h.flags with evictedOthers := !evicted.isEmpty } } ∧
    (∀ n, n ≠ slot → t.recorder.hold? n = (if n ∈ evicted then none else s.recorder.hold? n) ∧
      t.recorder.tenure n = s.recorder.tenure n) ∧
    t.recorder = { s.recorder with
      slots := t.recorder.slots
      pinnedTotal := freed.pinnedTotal + freed.countPages (fun q => freed.covers h q && q.pins == 0)
      pages := freed.pages.map (fun q => if freed.covers h q then { q with pins := q.pins + 1 } else q) } := by
  intro freed t
  obtain ⟨inside, -, -⟩ := Recorder.freeSlot_some free
  obtain ⟨here, tenure, others⟩ := Recorder.fillSlot_reads inside
    { h with flags := { h.flags with evictedOthers := !evicted.isEmpty } }
  refine ⟨tenure.trans (congrArg (· + 1) (Recorder.tenure_freeAll ..)), here, fun n other => ?_, ?_⟩
  · obtain ⟨hold, kept⟩ := others n other
    exact ⟨hold.trans (Recorder.hold?_freeAll ..), kept.trans (Recorder.tenure_freeAll ..)⟩
  · exact congrArg (fun r : Recorder => { r with
      slots := t.recorder.slots
      pinnedTotal := freed.pinnedTotal + freed.countPages (fun q => freed.covers h q && q.pins == 0)
      pages := freed.pages.map (fun q => if freed.covers h q then { q with pins := q.pins + 1 } else q) })
      (Recorder.freeAll_eq evicted s.recorder)

/-- The log and the noted breaches behind a placement, record by record and entry by entry (R159, R173). -/
theorem withPlaced_told (s : State) (evicted : List Nat) (slot : Nat) (h : Hold) :
    let t := s.withPlaced evicted slot h
    t.log = { s.log with
      records := s.log.records.map (s.recorder.tellPlaced evicted ⟨slot, s.recorder.tenure slot + 1⟩ h) } ∧
    t.peers = { s.peers with noted := s.peers.noted.map (s.recorder.unlink evicted) } ∧
    t = ((s.setRecorder t.recorder).setLog t.log).setPeers t.peers := ⟨rfl, rfl, rfl⟩

/-! ### The HOLD_REFUSED record (R114) -/

/-- The request of the HOLD_REFUSED record for a record's refused hold (R114). -/
def State.refusal (s : State) (breach : Option Nat) : BreachRequest :=
  { category := .holdRefused, startStamp := s.nowStamp, endStamp := some s.nowStamp, figure := breach.map Int.ofNat }

theorem createHoldRefused_eq (s : State) (breach : Option Nat) : s.createHoldRefused breach =
    (s.enterRecord (s.refusal breach)).1.upshift := rfl

/-- A log with room takes the HOLD_REFUSED record as its last (R114, R172). -/
theorem createHoldRefused_stored {s : State} (room : s.log.records.length < 128) (breach : Option Nat) :
    (s.createHoldRefused breach).log.records =
      s.log.records ++ [{ s.recordOf (s.refusal breach) s.log.drawn with serial := s.log.nextSerial }] := by
  rw [createHoldRefused_eq, upshift_log]
  exact enterRecord_records room _

/-! ### The statement's parts -/

theorem holdForRecord_plain {q : BreachRequest} (plain : q.category.retains = false ∨ q.origin ≠ .own) (s : State)
    (number : Option Nat) : s.holdForRecord q number = s := by
  refine if_neg fun holds => ?_
  simp only [Bool.and_eq_true, beq_iff_eq] at holds
  rcases plain with not | peer
  · exact Bool.false_ne_true (not.symm.trans holds.1)
  · exact peer holds.2

theorem holdForRecord_own {q : BreachRequest} (retains : q.category.retains = true) (own : q.origin = .own) (s : State)
    (number : Option Nat) :
    let placed := s.placeHold .own q.startStamp.time (q.endStamp.map (fun x => x.time)) number
    (placed.2 = none → s.holdForRecord q number = s.createHoldRefused number) ∧
    (∀ ref, placed.2 = some ref → s.holdForRecord q number = placed.1.setLog { placed.1.log with
      causes := placed.1.log.causes.map (fun c =>
        if c.category = q.category ∧ q.endStamp = none then { c with hold := some ref } else c) }) := by
  intro placed
  have holds : (q.category.retains && q.origin == .own) = true := by simp [retains, own]
  unfold State.holdForRecord
  rw [if_pos holds]
  refine ⟨fun refused => ?_, fun ref took => ?_⟩
  · have same : placed.1 = s := placeHold_refused refused
    dsimp only
    rw [show (s.placeHold .own q.startStamp.time (q.endStamp.map (fun x => x.time)) number).2 = none from refused]
    exact congrArg (fun t : State => t.createHoldRefused number) same
  · dsimp only
    rw [show (s.placeHold .own q.startStamp.time (q.endStamp.map (fun x => x.time)) number).2 = some ref from took]
    simp only [Bool.and_eq_true, beq_iff_eq, Option.isNone_iff_eq_none]
    rfl

theorem placeSympathetic_eq (s : State) (start : Nat) (stop number : Option Nat) :
    let placed := s.placeHold .sympathetic start stop number
    (placed.2 = none → s.placeSympathetic start stop number = (s.createHoldRefused number, none)) ∧
    (∀ ref, placed.2 = some ref → s.placeSympathetic start stop number = (placed.1, some ref)) := by
  intro placed
  unfold State.placeSympathetic
  refine ⟨fun refused => ?_, fun ref took => ?_⟩
  · have same : placed.1 = s := placeHold_refused refused
    dsimp only
    rw [show (s.placeHold .sympathetic start stop number).2 = none from refused]
    exact congrArg (fun t : State => (t.createHoldRefused number, (none : Option SlotRef))) same
  · dsimp only
    rw [show (s.placeHold .sympathetic start stop number).2 = some ref from took]

/-- Settles O52. -/
theorem holdPlacement : Obligations.HoldPlacement := by
  refine ⟨fun s p start stop breach => ?place, fun r now p start stop breach truncated m => ?form, fun r h =>
    ⟨r.roomFor_iff h, r.covers_iff h, fun n held => Recorder.freeHold_eq held⟩, fun r requester =>
    ⟨fun n => Recorder.mem_evictable, r.evictable_ordered requester⟩, fun s number room =>
    ⟨_, createHoldRefused_stored room number, rfl, rfl, rfl, rfl, rfl, by cases number <;> rfl, createHoldRefused_keeps s number⟩,
    fun s q number => ⟨fun plain => holdForRecord_plain plain s number, fun retains own => holdForRecord_own retains own s number⟩,
    placeSympathetic_eq⟩
  case place =>
    intro placed t m start₁ stop₁ refusedAtOnce tooLong h order freed enough
    have formed : h = s.holdFor p start stop breach := by
      rw [State.holdFor, limitInterval_eq]
      rfl
    clear_value h
    subst formed
    refine ⟨placeHold_refused, placeHold_refused_iff s p start stop breach, fun taken room => ?room, fun ref took => ?took⟩
    case room =>
      have none_ : s.recorder.evictionsFor (s.holdFor p start stop breach) = some [] := if_pos room
      have some_ := ((Recorder.roomFor_iff _ _).mp room).2
      obtain ⟨slot, free⟩ := Option.isSome_iff_exists.mp ((Recorder.freeSlot_isSome _).mpr some_)
      have took := placeHold_placed breach taken none_ free
      refine ⟨_, congrArg Prod.snd took, fun n other => ?_⟩
      have reads := ((withPlaced_recorder (evicted := []) free (s.holdFor p start stop breach)).2.2.1 n other).1
      exact (congrArg (fun x : State × Option SlotRef => x.1.recorder.hold? n) took).trans reads
    case took =>
      rcases placeHold_cases s p start stop breach with ⟨-, same⟩ | ⟨-, same⟩ | ⟨-, evicted, slot, evictions, free, result⟩
      · cases (congrArg Prod.snd same).symm.trans took
      · cases (congrArg Prod.snd same).symm.trans took
      have is : t = s.withPlaced evicted slot (s.holdFor p start stop breach) := congrArg Prod.fst result
      cases (congrArg Prod.snd result).symm.trans took
      obtain ⟨leading, room, shortest⟩ := Recorder.evictionsFor_shortest evictions
      obtain ⟨-, unheld, lowest⟩ := Recorder.freeSlot_some free
      obtain ⟨tenure, here, others, recorder⟩ := withPlaced_recorder free (s.holdFor p start stop breach)
      have keeps : KeepsMeasured s t := placeHold_keeps s p start stop breach
      rw [is] at keeps ⊢
      refine ⟨evicted, leading, room, shortest, keeps, ?budget, unheld, lowest, rfl, tenure, here, others, fun n x held safe => ?safe,
        recorder, ?log, rfl, rfl⟩
      case budget => exact ((Recorder.roomFor_iff _ _).mp room).1
      case safe =>
        have kept : n ∉ evicted := fun gone => by
          obtain ⟨y, at_, closed, lower⟩ := Recorder.mem_evictable.mp (leading.subset gone)
          cases held.symm.trans at_
          rcases safe with open_ | high
          · exact Bool.false_ne_true (closed.symm.trans open_)
          · exact absurd lower (Nat.not_lt.mpr high)
        have other : n ≠ slot := by
          rintro rfl
          rw [Recorder.hold?_freeAll, if_neg kept, held] at unheld
          cases unheld
        exact ⟨other, by rw [(others n other).1, if_neg kept, held]⟩
      case log => rfl
  case form =>
    intro h
    refine ⟨rfl, rfl, rfl, rfl, rfl, rfl, rfl, r.formHold_isOpen .., r.formHold_open, fun shut => (r.formHold_closed shut).2,
      fun x shut ends => ?last, fun none_ => Recorder.firstSeq_no_current none_ start, fun c current => ?first⟩
    case last =>
      have last : h.last = some (r.lastSeqTo h.first x) := by
        rw [(r.formHold_closed shut).1, ends]
        rfl
      intro qualifies
      exact ⟨fun none_ => last.trans (congrArg some (r.lastSeqTo_none none_)),
        fun q ends greatest => last.trans (congrArg some (r.lastSeqTo_greatest ends greatest))⟩
    case first =>
      obtain ⟨first, short⟩ := Recorder.firstSeq_current current start
      intro reaches
      refine ⟨fun none_ => ?_, fun q reached oldest => ?_⟩
      · rw [r.firstPage_none none_, current] at first
        exact first
      · rw [r.firstPage_oldest reached oldest] at first short
        refine ⟨first, ?_⟩
        have flag : h.flags.prerollShort = q.first.any (fun t => start < t.time) := short
        rw [flag]
        cases q.first <;> simp

end Sys2Proof.Machine
end

section
/-! PROOF. Beginning a page (R101, R108, R115): the page chosen, the page begun, and what becomes of the holds at the full
budget. Settles O50. -/

namespace Sys2Proof.Machine

/-! ### The page chosen (R101) -/

/-- Every index below the first unlisted one is listed. -/
theorem firstUnlisted_listed : ∀ (l : List Page) (n j : Nat), n ≤ j → j < firstUnlisted n l → ∃ p ∈ l, p.index = j
  | [], n, j, low, high => absurd low (Nat.not_le.mpr high)
  | p :: ps, n, j, low, high => by
    unfold firstUnlisted at high
    split at high
    · next here =>
      rcases Nat.eq_or_lt_of_le low with rfl | later
      · exact ⟨p, List.mem_cons_self .., here⟩
      · obtain ⟨q, hq, is⟩ := firstUnlisted_listed ps (n + 1) j later high
        exact ⟨q, List.mem_cons_of_mem _ hq, is⟩
    · exact absurd low (Nat.not_le.mpr high)

theorem firstUnlisted_le : ∀ (l : List Page) (n : Nat), firstUnlisted n l ≤ n + l.length
  | [], n => Nat.le_refl n
  | p :: ps, n => by
    have rest := firstUnlisted_le ps (n + 1)
    unfold firstUnlisted
    rw [List.length_cons]
    split <;> omega

namespace Recorder

variable {r : Recorder}

theorem page?_eq_none_iff {j : Nat} : r.page? j = none ↔ ∀ p ∈ r.pages, p.index ≠ j := by
  simp [page?]

theorem page?_of_listed {j : Nat} (listed : ∃ p ∈ r.pages, p.index = j) : r.page? j ≠ none := fun none_ => by
  obtain ⟨p, hp, is⟩ := listed
  exact page?_eq_none_iff.mp none_ p hp is

/-- Within the budget a store that lists every page has one that no hold pins (R98, R112). -/
theorem exists_unpinned (w : r.Within) (full : pageCount ≤ r.pages.length) : ∃ p ∈ r.pages, p.pins = 0 := by
  by_contra none_
  have all : r.pages.filter (fun p => p.pins != 0) = r.pages := List.filter_eq_self.mpr fun p hp => by
    simpa using fun zero => none_ ⟨p, hp, zero⟩
  have pinned := w.pinned
  rw [pinnedPages_eq, pinnedOf, all] at pinned
  have budget := w.budget
  unfold pageCount at full
  omega

/-- There is always a page to choose: the lowest never-written one, or else the unpinned one of the lowest sequence number
(R101). -/
theorem chosenPage_some (w : r.Within) : ∃ i, r.chosenPage = some i ∧ i < 65536 ∧
    ((r.page? i = none ∧ ∀ j, j < i → r.page? j ≠ none) ∨
      ((∀ j, j < 65536 → r.page? j ≠ none) ∧
        ∃ p ∈ r.pages, p.index = i ∧ p.pins = 0 ∧ ∀ q ∈ r.pages, q.pins = 0 → p.seq ≤ q.seq)) := by
  have ordered : r.pages.Pairwise (fun p q => p.index < q.index) := by
    have form := w.pages
    unfold wf at form
    rw [Bool.and_eq_true, pagesCanonical_iff] at form
    exact form.2.1
  have below : ∀ j, j < firstUnlisted 0 r.pages → r.page? j ≠ none := fun j low =>
    page?_of_listed (firstUnlisted_listed r.pages 0 j (Nat.zero_le j) low)
  by_cases unwritten : firstUnlisted 0 r.pages < pageCount
  · have fresh := firstUnlisted_fresh r.pages 0 ordered fun _ _ => Nat.zero_le _
    exact ⟨_, if_pos unwritten, unwritten, .inl ⟨page?_eq_none_iff.mpr fresh, below⟩⟩
  · have written : pageCount ≤ firstUnlisted 0 r.pages := Nat.not_lt.mp unwritten
    obtain ⟨x, hx, free⟩ := exists_unpinned w
      (written.trans ((firstUnlisted_le r.pages 0).trans (Nat.le_of_eq (Nat.zero_add _))))
    have chosen : r.chosenPage =
        (leastBy (fun p => p.seq) (r.pages.filter (fun p => p.pins == 0))).map (fun p => p.index) := if_neg unwritten
    cases least : leastBy (fun p : Page => p.seq) (r.pages.filter (fun p => p.pins == 0)) with
    | none =>
      have empty := (leastBy_eq_none_iff _ _).mp least
      exact absurd (List.mem_filter.mpr ⟨hx, by simpa using free⟩) (empty ▸ List.not_mem_nil)
    | some p =>
      rw [least] at chosen
      obtain ⟨hp, unpinned⟩ := List.mem_filter.mp (leastBy_mem _ _ _ least)
      refine ⟨p.index, chosen, chosenPage_lt w.pages chosen, .inr ⟨fun j low => below j (low.trans_le written), p, hp, rfl,
        by simpa using unpinned, fun q hq zero => leastBy_le _ least q (List.mem_filter.mpr ⟨hq, by simpa using zero⟩)⟩⟩

/-! ### The pages read -/

/-- What the pages read as behind a change of them that keeps their indexes. -/
theorem find?_index_map {f : Page → Page} (index : ∀ p, (f p).index = p.index) (l : List Page) (j : Nat) :
    (l.map f).find? (fun p => p.index == j) = (l.find? (fun p => p.index == j)).map f := by
  rw [List.find?_map]
  congr 2
  funext p
  exact congrArg (· == j) (index p)

theorem find?_putPage (p : Page) : ∀ l : List Page, (putPage p l).find? (fun q => q.index == p.index) = some p
  | [] => by simp [putPage]
  | q :: qs => by
    unfold putPage
    split
    · simp
    · split
      · simp
      · next other => rw [List.find?_cons, beq_false_of_ne (Ne.symm other), find?_putPage p qs]

/-- The page begun: empty, unpinned, under the counter's value (R101). -/
def begunPage (r : Recorder) (i : Nat) : Page := ⟨i, r.counter, none, none, [], 0⟩

theorem beginUnpinned_page? (r : Recorder) (i : Nat) : (r.beginUnpinned i).page? i = some (r.begunPage i) :=
  find?_putPage (r.begunPage i) r.pages

/-- Freeing holds takes pins only: an unpinned page stays as it is. -/
theorem freeAll_page?_unpinned {j : Nat} {p : Page} (unpinned : p.pins = 0) (l : List Nat) : ∀ {r : Recorder},
    r.page? j = some p → (l.foldl freeHold r).page? j = some p := by
  induction l with
  | nil => exact fun here => here
  | cons n l ih =>
    intro r here
    refine ih ?_
    cases held : r.hold? n with
    | none => rwa [freeHold_free held]
    | some h =>
      rw [freeHold_eq held]
      refine (find?_index_map (fun q => by split <;> rfl) r.pages j).trans ?_
      rw [show r.pages.find? (fun q => q.index == j) = some p from here, Option.map_some]
      have still : { p with pins := p.pins - 1 } = p := by rw [unpinned, Nat.zero_sub, ← unpinned]
      rw [still, ite_self]

/-! ### The holds -/

/-- The OPEN holds of a list of slots. -/
def openOf (l : List HoldSlot) : List Hold := (l.filterMap (fun x => x.hold)).filter (fun h => h.isOpen)

theorem openHolds_eq (r : Recorder) : r.openHolds = openOf r.slots := rfl

theorem mem_openHolds {h : Hold} : h ∈ r.openHolds ↔ h.isOpen = true ∧ ∃ x ∈ r.slots, x.hold = some h := by
  simp [openHolds, and_comm]

/-- A CLOSED hold freed leaves the OPEN holds. -/
theorem openOf_free : ∀ {n : Nat} {l : List HoldSlot}, (∀ h, (l.getD n ⟨0, none⟩).hold = some h → h.isOpen = false) →
    openOf (changeAt (fun x => { x with hold := none }) n l) = openOf l
  | n, [], _ => by cases n <;> rfl
  | 0, x :: l, closed => by
    unfold openOf changeAt
    cases held : x.hold with
    | none => simp [held]
    | some h => simp [held, closed h (by simpa using held)]
  | n + 1, x :: l, closed => by
    have rest := openOf_free (n := n) (l := l) (by simpa using closed)
    unfold openOf at rest ⊢
    unfold changeAt
    cases held : x.hold with
    | none => simpa [held] using rest
    | some h => cases open_ : h.isOpen <;> simpa [held, open_] using rest

theorem freeHold_slots (r : Recorder) (n : Nat) :
    (r.freeHold n).slots = changeAt (fun x => { x with hold := none }) n r.slots := by
  cases held : r.hold? n with
  | some h => rw [freeHold_eq held, ← changeAt_eq_mapIdx]
  | none =>
    rw [freeHold_free held, changeAt_eq_mapIdx]
    refine List.ext_getElem (by simp) fun k inside _ => ?_
    rw [List.getElem_mapIdx]
    split
    · next here =>
      have free := (hold?_of_getElem? (List.getElem?_eq_getElem inside)).symm.trans (here ▸ held)
      exact congrArg (HoldSlot.mk r.slots[k].tenure) free
    · rfl

theorem freeAll_slots (l : List Nat) : ∀ r : Recorder, (l.foldl freeHold r).slots =
    r.slots.mapIdx (fun k x => if k ∈ l then { x with hold := none } else x) := by
  induction l with
  | nil => exact fun r => List.ext_getElem (by simp) fun k _ _ => by simp
  | cons n l ih =>
    intro r
    rw [List.foldl_cons, ih, freeHold_slots, changeAt_eq_mapIdx, List.mapIdx_mapIdx]
    congr 1
    funext k x
    by_cases here : k = n <;> by_cases later : k ∈ l <;> simp [here, later]

theorem freeAll_openHolds (l : List Nat) : ∀ {r : Recorder},
    (∀ n ∈ l, ∀ h, r.hold? n = some h → h.isOpen = false) → (l.foldl freeHold r).openHolds = r.openHolds := by
  induction l with
  | nil => exact fun _ => rfl
  | cons n l ih =>
    intro r closed
    refine (ih (r := r.freeHold n) fun m hm h held => ?_).trans ?_
    · rw [hold?_freeHold] at held
      split at held
      · cases held
      · exact closed m (List.mem_cons_of_mem _ hm) h held
    · rw [openHolds_eq, freeHold_slots, openOf_free (closed n (List.mem_cons_self ..))]
      rfl

/-- A change of the OPEN holds that keeps them OPEN keeps their number. -/
theorem changeOpen_openHolds {f : Hold → Hold} (still : ∀ h, (f h).isOpen = h.isOpen) (r : Recorder) :
    (r.changeOpen f).openHolds = r.openHolds.map f := by
  unfold changeOpen openHolds
  dsimp only
  induction r.slots with
  | nil => rfl
  | cons x l ih =>
    cases held : x.hold with
    | none => simpa [held] using ih
    | some h => cases open_ : h.isOpen <;> simp [held, open_, still] <;> simpa using ih

/-- The requester's priority at the full budget is the highest among the OPEN holds (R115). -/
theorem requesterPriority_eq {priority : Nat} (highest : ∀ h ∈ r.openHolds, h.priority.number ≤ priority)
    (reached : ∃ h ∈ r.openHolds, h.priority.number = priority) : r.requesterPriority = priority := by
  obtain ⟨h, hh, is⟩ := reached
  refine Nat.le_antisymm (foldl_max_le (Nat.zero_le _) fun n hn => ?_)
    (le_foldl_max (.inr (is ▸ List.mem_map_of_mem (f := fun h : Hold => h.priority.number) hh)))
  obtain ⟨x, hx, rfl⟩ := List.mem_map.mp hn
  exact highest x hx

/-! ### The page pinned (R108) -/

theorem pinBegun_none {i : Nat} (none_ : r.openHolds = []) : r.pinBegun i = r := by
  unfold pinBegun
  rw [none_]
  rfl

theorem pinBegun_some {i : Nat} (some_ : r.openHolds ≠ []) : r.pinBegun i =
    { r.changeOpen (fun h => { h with pinned := h.pinned + 1 }) with
      pages := r.pages.map (fun p => if p.index = i then { p with pins := r.openHolds.length } else p)
      pinnedTotal := r.pinnedTotal + 1 } := by
  unfold pinBegun
  rw [if_neg fun zero => some_ (List.length_eq_zero_iff.mp zero)]
  simp only [beq_iff_eq]

theorem pinBegun_page? {i : Nat} (some_ : r.openHolds ≠ []) (j : Nat) : (r.pinBegun i).page? j =
    (r.page? j).map (fun p => if j = i then { p with pins := r.openHolds.length } else p) := by
  rw [pinBegun_some some_]
  exact find?_changed (f := fun p => { p with pins := r.openHolds.length }) (fun _ => rfl) r.pages j

theorem pinBegun_kept (r : Recorder) (i : Nat) : (r.pinBegun i).current = r.current ∧ (r.pinBegun i).counter = r.counter := by
  unfold pinBegun
  dsimp only
  split <;> exact ⟨rfl, rfl⟩

end Recorder

/-! ### The branches of the beginning (R101, R108, R115) -/

/-- A record with HOLD_TRUNCATED where an OPEN hold of a list names it (R173). -/
def BreachRecord.truncatedWith (holds : List Hold) (r : BreachRecord) : BreachRecord :=
  if holds.any (fun h => h.breach == some r.number) then { r with flags := { r.flags with holdTruncated := true } } else r

theorem foldl_reportTruncated : ∀ (l : List Hold) (s : State), l.foldl (fun t h => t.reportTruncated h.breach) s =
    s.setLog { s.log with records := s.log.records.map (BreachRecord.truncatedWith l) }
  | [], s => by
    have same : s.log.records.map (BreachRecord.truncatedWith []) = s.log.records := List.map_id _
    rw [same]
    rfl
  | h :: l, s => by
    rw [List.foldl_cons, foldl_reportTruncated l, State.reportTruncated, changeRecord_eq]
    have both : ∀ r : BreachRecord, BreachRecord.truncatedWith l (if h.breach = some r.number then
        { r with flags := { r.flags with holdTruncated := true } } else r) = r.truncatedWith (h :: l) := by
      intro r
      by_cases named : h.breach = some r.number
      · simp [BreachRecord.truncatedWith, named]
      · simp [BreachRecord.truncatedWith, named]
    have records := (List.map_map (g := BreachRecord.truncatedWith l) ..).trans
      (List.map_congr_left (l := s.log.records) fun r _ => both r)
    rw [← records]
    rfl

/-- A hold truncated at the full budget (R115). -/
def Hold.truncatedAt (now last stop : Nat) (h : Hold) : Hold :=
  { h with isOpen := false, stop := some stop, last := some last, closeStamp := some now
           flags := { h.flags with truncated := true } }

theorem truncateOpen_eq (s : State) (last stop : Nat) : s.truncateOpen last stop =
    (s.setRecorder (s.recorder.changeOpen (Hold.truncatedAt s.now last stop))).setLog
      { s.log with records := s.log.records.map (BreachRecord.truncatedWith s.recorder.openHolds) } :=
  foldl_reportTruncated _ _

section Branches

variable {s : State} {i : Nat} (chosen : s.recorder.chosenPage = some i) (stamp : Stamp)

include chosen

/-- With no OPEN hold the page is begun unpinned (R108). -/
theorem beginPage_unheld (none_ : s.recorder.openHolds = []) :
    s.beginPage stamp = s.setRecorder (s.recorder.beginUnpinned i) := by
  unfold State.beginPage
  rw [chosen]
  have empty : (s.recorder.beginUnpinned i).openHolds = [] := none_
  dsimp only
  rw [State.setRecorder_recorder, empty, Recorder.pinBegun_none empty]
  rfl

/-- While the budget has room every OPEN hold pins the page (R108). -/
theorem beginPage_room (room : s.recorder.pinnedTotal < 61440) :
    s.beginPage stamp = s.setRecorder ((s.recorder.beginUnpinned i).pinBegun i) := by
  unfold State.beginPage
  rw [chosen]
  have below : (s.recorder.beginUnpinned i).pinnedTotal < pinBudget := room
  exact if_pos (by simp [below])

/-- At the full budget the evictions are made where some return a page, and else every OPEN hold is truncated (R115). -/
theorem beginPage_full (some_ : s.recorder.openHolds ≠ []) (full : 61440 ≤ s.recorder.pinnedTotal) :
    (∀ slots, (s.recorder.beginUnpinned i).budgetEvictions = some slots → s.beginPage stamp =
      ((s.setRecorder (s.recorder.beginUnpinned i)).evictAll slots).setRecorder
        (((slots.foldl Recorder.freeHold (s.recorder.beginUnpinned i)).changeOpen (fun h =>
          { h with flags := { h.flags with evictedOthers := true } })).pinBegun i)) ∧
    ((s.recorder.beginUnpinned i).budgetEvictions = none → s.beginPage stamp =
      (s.setRecorder (s.recorder.beginUnpinned i)).truncateOpen
        (s.recorder.currentSeq.getD (s.recorder.counter - 1)) stamp.time) := by
  have held : (s.recorder.beginUnpinned i).openHolds.isEmpty = false := List.isEmpty_eq_false_iff.mpr some_
  have spent : ¬ (s.recorder.beginUnpinned i).pinnedTotal < pinBudget := Nat.not_lt.mpr full
  unfold State.beginPage
  rw [chosen]
  dsimp only
  rw [State.setRecorder_recorder, if_neg (by simp [held, spent])]
  refine ⟨fun slots evictions => ?_, fun none_ => ?_⟩
  · rw [evictions]
    dsimp only
    rw [evictAll_recorder]
    rfl
  · rw [none_]

end Branches

/-! ### The full budget (R115) -/

section Full

variable {s : State} {i priority : Nat} (highest : ∀ h ∈ s.recorder.openHolds, h.priority.number ≤ priority)
  (reached : ∃ h ∈ s.recorder.openHolds, h.priority.number = priority)

include highest reached

theorem budgetEvictions_eq : (s.recorder.beginUnpinned i).budgetEvictions =
    shortestEviction (fun x => x.pinnedTotal < s.recorder.pinnedTotal) (s.recorder.beginUnpinned i)
      (s.recorder.evictable priority) := by
  unfold Recorder.budgetEvictions
  rw [Recorder.requesterPriority_eq (r := s.recorder.beginUnpinned i) highest reached]
  rfl

/-- The evictions made are the shortest leading part of the order that returns a page (R115; log 14). -/
theorem budgetEvictions_first {before after : List Nat} {n : Nat} (order : s.recorder.evictable priority = before ++ n :: after)
    (returns : ((before ++ [n]).foldl Recorder.freeHold (s.recorder.beginUnpinned i)).pinnedTotal < s.recorder.pinnedTotal)
    (none_ : ∀ k, k < before.length →
      s.recorder.pinnedTotal ≤ ((before.take (k + 1)).foldl Recorder.freeHold (s.recorder.beginUnpinned i)).pinnedTotal) :
    (s.recorder.beginUnpinned i).budgetEvictions = some (before ++ [n]) := by
  rw [budgetEvictions_eq highest reached, order]
  exact shortestEviction_first (decide_eq_true returns) fun k hk => decide_eq_false (Nat.not_lt.mpr (none_ k hk))

theorem budgetEvictions_none
    (none_ : ∀ k, k < (s.recorder.evictable priority).length → s.recorder.pinnedTotal ≤
      (((s.recorder.evictable priority).take (k + 1)).foldl Recorder.freeHold (s.recorder.beginUnpinned i)).pinnedTotal) :
    (s.recorder.beginUnpinned i).budgetEvictions = none := by
  rw [budgetEvictions_eq highest reached]
  exact shortestEviction_none fun k hk => decide_eq_false (Nat.not_lt.mpr (none_ k hk))

end Full

/-- Only CLOSED holds are evicted for a page (R112, R115). -/
theorem budgetEvictions_closed {r : Recorder} {slots : List Nat} (evictions : r.budgetEvictions = some slots) :
    ∀ n ∈ slots, ∀ h, r.hold? n = some h → h.isOpen = false := by
  intro n hn h held
  obtain ⟨x, at_, closed, -⟩ := Recorder.mem_evictable.mp ((shortestEviction_shortest evictions).1.subset hn)
  cases held.symm.trans at_
  exact closed

/-- A hold flagged EVICTED_OTHERS (R115). -/
def Hold.evicter (h : Hold) : Hold := { h with flags := { h.flags with evictedOthers := true } }

/-- The Recorder once holds were evicted for the begun page and the OPEN holds have pinned it (R115). -/
def Recorder.pinnedBehind (r : Recorder) (slots : List Nat) (i : Nat) : Recorder :=
  ((slots.foldl Recorder.freeHold (r.beginUnpinned i)).changeOpen Hold.evicter).pinBegun i

/-- A slot whose hold, where it is OPEN, has evicted others and pins one more page. -/
theorem evicter_pinned (x : HoldSlot) :
    ({ x with hold := (x.hold.map (fun h => if h.isOpen then h.evicter else h)).map (fun h =>
        if h.isOpen then { h with pinned := h.pinned + 1 } else h) } : HoldSlot) =
      { x with hold := x.hold.map (fun h => if h.isOpen then
        { h with pinned := h.pinned + 1, flags := { h.flags with evictedOthers := true } } else h) } := by
  cases x.hold with
  | none => rfl
  | some h => cases open_ : h.isOpen <;> simp [open_, Hold.evicter]

theorem map_mapIdx {α β γ : Type} (g : β → γ) (f : Nat → α → β) (l : List α) :
    (l.mapIdx f).map g = l.mapIdx (fun k x => g (f k x)) := List.ext_getElem (by simp) fun k _ _ => by simp

/-- The slots behind the evictions and the pinning (R115, R116). -/
theorem pinnedBehind_slots (l : List HoldSlot) (slots : List Nat) :
    ((l.mapIdx (fun k x => if k ∈ slots then { x with hold := none } else x)).map (fun x : HoldSlot =>
      { x with hold := x.hold.map (fun h => if h.isOpen then h.evicter else h) })).map (fun x : HoldSlot =>
      { x with hold := x.hold.map (fun h => if h.isOpen then { h with pinned := h.pinned + 1 } else h) }) =
    l.mapIdx (fun k x => if k ∈ slots then { x with hold := none } else
      { x with hold := x.hold.map (fun h => if h.isOpen then
        { h with pinned := h.pinned + 1, flags := { h.flags with evictedOthers := true } } else h) }) := by
  rw [map_mapIdx, map_mapIdx]
  congr 1
  funext k x
  by_cases gone : k ∈ slots
  · simp [gone]
  · simp only [gone, if_false]
    exact evicter_pinned x

theorem pinnedBehind_reads {r : Recorder} {i : Nat} {slots : List Nat} (some_ : r.openHolds ≠ [])
    (closed : ∀ n ∈ slots, ∀ h, r.hold? n = some h → h.isOpen = false) :
    let u := r.pinnedBehind slots i
    let freed := slots.foldl Recorder.freeHold (r.beginUnpinned i)
    u.current = some i ∧ u.counter = r.counter + 1 ∧
    u.page? i = some { r.begunPage i with pins := r.openHolds.length } ∧ u.pinnedTotal = freed.pinnedTotal + 1 ∧
    (∀ j, j ≠ i → u.page? j = freed.page? j) ∧
    u.slots = r.slots.mapIdx (fun k x => if k ∈ slots then { x with hold := none } else
      { x with hold := x.hold.map (fun h => if h.isOpen then
        { h with pinned := h.pinned + 1, flags := { h.flags with evictedOthers := true } } else h) }) := by
  intro u freed
  have count : (freed.changeOpen Hold.evicter).openHolds.length = r.openHolds.length := by
    rw [Recorder.changeOpen_openHolds (by exact fun _ => rfl), List.length_map]
    exact congrArg List.length (Recorder.freeAll_openHolds slots (r := r.beginUnpinned i) closed)
  have held : (freed.changeOpen Hold.evicter).openHolds ≠ [] :=
    fun none_ => some_ (List.length_eq_zero_iff.mp (count.symm.trans (congrArg List.length none_)))
  have page : ∀ j, u.page? j = (freed.page? j).map (fun p => if j = i then { p with pins := r.openHolds.length } else p) :=
    count ▸ Recorder.pinBegun_page? (i := i) held
  have here : freed.page? i = some (r.begunPage i) := Recorder.freeAll_page?_unpinned rfl slots (r.beginUnpinned_page? i)
  have kept := Recorder.freeAll_eq slots (r.beginUnpinned i)
  obtain ⟨current, counter⟩ := Recorder.pinBegun_kept (freed.changeOpen Hold.evicter) i
  have table : u.slots = (freed.slots.map _).map _ := congrArg Recorder.slots (Recorder.pinBegun_some held)
  rw [Recorder.freeAll_slots] at table
  refine ⟨current.trans (congrArg Recorder.current kept), counter.trans (congrArg Recorder.counter kept), ?_,
    congrArg Recorder.pinnedTotal (Recorder.pinBegun_some held), fun j other => ?_, table.trans (pinnedBehind_slots _ _)⟩
  · rw [page, here, Option.map_some, if_pos rfl]
  · rw [page]
    simp only [other, if_false]
    exact Option.map_id'

/-- Settles O50. -/
theorem pageBegun : Obligations.PageBegun := by
  refine ⟨fun r w => Recorder.chosenPage_some w, fun s stamp i priority chosen highest reached => ?begun, fun stamp => ?reset⟩
  case begun =>
    intro t order freed
    have keeps : KeepsMeasured s t := beginPage_keeps s stamp
    by_cases none_ : s.recorder.openHolds = []
    · have is : t = _ := beginPage_unheld chosen stamp none_
      rw [is] at keeps ⊢
      exact ⟨rfl, rfl, keeps, _, s.recorder.beginUnpinned_page? i, rfl, rfl, rfl, rfl, fun _ => ⟨rfl, rfl⟩,
        fun some_ => absurd none_ some_, fun _ _ _ some_ => absurd none_ some_, fun _ some_ => absurd none_ some_⟩
    have some_ : (s.recorder.beginUnpinned i).openHolds ≠ [] := none_
    by_cases room : s.recorder.pinnedTotal < 61440
    · have is : t = _ := beginPage_room chosen stamp room
      rw [is] at keeps ⊢
      obtain ⟨current, counter⟩ := Recorder.pinBegun_kept (s.recorder.beginUnpinned i) i
      have pinned := Recorder.pinBegun_some (i := i) some_
      have page := Recorder.pinBegun_page? (i := i) some_ i
      rw [s.recorder.beginUnpinned_page? i, Option.map_some, if_pos rfl] at page
      exact ⟨current, counter, keeps, _, page, rfl, rfl, rfl, rfl, fun empty => absurd empty none_,
        fun _ _ => ⟨rfl, congrArg Recorder.pinnedTotal pinned, congrArg Recorder.slots pinned⟩,
        fun _ _ _ _ full => absurd room (Nat.not_lt.mpr full), fun _ _ full => absurd room (Nat.not_lt.mpr full)⟩
    have full : 61440 ≤ s.recorder.pinnedTotal := Nat.not_lt.mp room
    obtain ⟨evicts, truncates⟩ := beginPage_full chosen stamp none_ full
    cases evictions : (s.recorder.beginUnpinned i).budgetEvictions with
    | some slots =>
      have is : t = _ := evicts slots evictions
      rw [is] at keeps ⊢
      obtain ⟨current, counter, page, total, others, table⟩ :=
        pinnedBehind_reads (i := i) none_ (budgetEvictions_closed (r := s.recorder.beginUnpinned i) evictions)
      refine ⟨current, counter, keeps, _, page, rfl, rfl, rfl, rfl, fun empty => absurd empty none_,
        fun _ below => absurd below room, fun before n after _ _ is returns earlier => ?_, fun c _ _ _ refused => ?_⟩
      · cases evictions.symm.trans (budgetEvictions_first highest (reached none_) is returns earlier)
        refine ⟨rfl, total, others, table, ?_⟩
        rw [State.setRecorder_log, evictAll_eq]
        rfl
      · cases evictions.symm.trans (budgetEvictions_none highest (reached none_) refused)
    | none =>
      have is : t = _ := truncates evictions
      rw [truncateOpen_eq] at is
      rw [is] at keeps ⊢
      refine ⟨rfl, rfl, keeps, _, s.recorder.beginUnpinned_page? i, rfl, rfl, rfl, rfl, fun empty => absurd empty none_,
        fun _ below => absurd below room, fun before n after _ _ is returns earlier => ?_, fun c _ _ current _ => ?_⟩
      · cases evictions.symm.trans (budgetEvictions_first highest (reached none_) is returns earlier)
      · have last : s.recorder.currentSeq.getD (s.recorder.counter - 1) = c.seq := by
          unfold Recorder.currentSeq
          rw [current]
          rfl
        rw [last]
        exact ⟨rfl, rfl, rfl, rfl⟩
  case reset =>
    rw [beginPage_unheld (s := State.reset) (i := 0) rfl stamp rfl]
    exact ⟨rfl, rfl⟩

end Sys2Proof.Machine
end

section
/-! PROOF. HOLD_LIST, HOLD_PLACE and HOLD_RELEASE, and the 24 bytes of a hold table entry (R105, R117, R182, R186). Settles
O21. -/

namespace Sys2Proof.Machine

/-! ### Times in bytes (R182) -/

/-- The two parts of a shelf time, read from its eight bytes. -/
theorem timeBytes_read {t : Nat} (within : t ≤ shelfMax) :
    natAt (timeBytes t) 0 4 = t / 1000000 ∧ natAt (timeBytes t) 4 4 = t % 1000000 := by
  refine ⟨beNat_beBytes_of_lt (k := 4) ?_, beNat_beBytes_of_lt (k := 4) ?_⟩
  · unfold secondsOf second
    unfold shelfMax at within
    omega
  · unfold microsOf second
    omega

theorem timeBytes_of_window {bytes : List Byte} {at_ t : Nat} (window : (bytes.drop at_).take 8 = timeBytes t)
    (within : t ≤ shelfMax) : natAt bytes at_ 4 = t / 1000000 ∧ natAt bytes (at_ + 4) 4 = t % 1000000 := by
  obtain ⟨seconds, micros⟩ := timeBytes_read within
  exact ⟨(natAt_of_window window (j := 0) (by decide)).trans seconds, (natAt_of_window window (j := 4) (by decide)).trans micros⟩

/-! ### The 24 bytes of an entry (R186) -/

/-- The eight bytes of a hold's end: all ones where it is absent (R186). -/
def stopBytes : Option Nat → List Byte
  | none => List.replicate 8 0xFF
  | some t => timeBytes t

/-- The four flags of a hold in a byte (R186). -/
def holdFlagsByte (f : HoldFlags) : Byte :=
  BitVec.ofNat 8 (markBit 0 f.prerollShort + markBit 1 f.truncated + markBit 2 f.restartCut + markBit 3 f.evictedOthers)

/-- The fields of a hold's entry, in order (R186). -/
def holdFields (h : Hold) : List (List Byte) :=
  [[if h.isOpen then 1 else 2], [BitVec.ofNat 8 h.priority.number], [holdFlagsByte h.flags], [0], timeBytes h.start,
    stopBytes h.stop, beBytes 2 h.pinned, beBytes 2 (h.breach.getD 0)]

/-- The widths of an entry's fields, in order (R186). -/
def holdWidths : List Nat := [1, 1, 1, 1, 8, 8, 2, 2]

theorem holdFields_sized (h : Hold) : (holdFields h).map List.length = holdWidths := by
  cases stop : h.stop <;> simp [holdFields, holdWidths, timeBytes, stopBytes, stop]

theorem holdEntryBytes_held {x : HoldSlot} {h : Hold} (held : x.hold = some h) : holdEntryBytes x = (holdFields h).flatten := by
  unfold holdEntryBytes
  rw [held]
  cases stop : h.stop <;> simp [holdFields, holdFlagsByte, stopBytes, stop]

theorem holdEntryBytes_free {x : HoldSlot} (free : x.hold = none) : holdEntryBytes x = List.replicate 24 0 := by
  unfold holdEntryBytes
  rw [free]

theorem holdEntryBytes_length (x : HoldSlot) : (holdEntryBytes x).length = 24 := by
  cases held : x.hold with
  | none => rw [holdEntryBytes_free held, List.length_replicate]
  | some h =>
    rw [holdEntryBytes_held held, List.length_flatten, holdFields_sized]
    rfl

theorem holdFlagsByte_read (f : HoldFlags) :
    (holdFlagsByte f).getLsbD 0 = f.prerollShort ∧ (holdFlagsByte f).getLsbD 1 = f.truncated ∧
      (holdFlagsByte f).getLsbD 2 = f.restartCut ∧ (holdFlagsByte f).getLsbD 3 = f.evictedOthers ∧
      (holdFlagsByte f).toNat < 16 := by
  have bits : ∀ a b c d : Bool, let x := holdFlagsByte ⟨a, b, c, d⟩
    x.getLsbD 0 = a ∧ x.getLsbD 1 = b ∧ x.getLsbD 2 = c ∧ x.getLsbD 3 = d ∧ x.toNat < 16 := by decide
  exact bits _ _ _ _

section Fields

variable {x : HoldSlot} {h : Hold} (held : x.hold = some h)

include held

theorem holdEntry_window {i at_ n : Nat} {field : List Byte} (is : (holdFields h)[i]? = some field)
    (width : holdWidths[i]? = some n) (place : (holdWidths.take i).sum = at_) :
    ((holdEntryBytes x).drop at_).take n = field := by
  rw [holdEntryBytes_held held]
  exact window_of_fields (holdFields_sized h) is width place

theorem holdEntry_natAt {i at_ n : Nat} {field : List Byte} (is : (holdFields h)[i]? = some field)
    (width : holdWidths[i]? = some n) (place : (holdWidths.take i).sum = at_) :
    natAt (holdEntryBytes x) at_ n = beNat field := congrArg beNat (holdEntry_window held is width place)

theorem holdEntry_byteAt {i at_ : Nat} {b : Byte} (is : (holdFields h)[i]? = some [b])
    (width : holdWidths[i]? = some 1) (place : (holdWidths.take i).sum = at_) : byteAt (holdEntryBytes x) at_ = b :=
  byteAt_of_window (holdEntry_window held is width place) (j := 0) (by decide)

theorem holdEntry_number {i at_ n : Nat} (is : (holdFields h)[i]? = some (beBytes 2 n)) (width : holdWidths[i]? = some 2)
    (place : (holdWidths.take i).sum = at_) (small : n < 65536) : natAt (holdEntryBytes x) at_ 2 = n :=
  (holdEntry_natAt held is width place).trans (beNat_beBytes_of_lt (k := 2) small)

theorem holdEntry_stop : (h.stop = none → ∀ i, 12 ≤ i → i < 20 → byteAt (holdEntryBytes x) i = 0xFF) ∧
    (∀ t, h.stop = some t → t ≤ shelfMax →
      natAt (holdEntryBytes x) 12 4 = t / 1000000 ∧ natAt (holdEntryBytes x) 16 4 = t % 1000000) := by
  have window := holdEntry_window held (i := 5) (at_ := 12) rfl rfl rfl
  refine ⟨fun none_ i low high => ?_, fun t some_ within => ?_⟩
  · rw [none_] at window
    obtain ⟨j, rfl⟩ := Nat.exists_eq_add_of_le low
    rw [byteAt_of_window window (j := j) (by omega), byteAt, stopBytes, List.getD_eq_getElem?_getD,
      List.getElem?_replicate_of_lt (by omega), Option.getD_some]
  · rw [some_] at window
    exact timeBytes_of_window window within

end Fields

/-! ### The requests (R182, R186) -/

theorem holdList_length {slots : List HoldSlot} (all : slots.length = 32) : (slots.map holdEntryBytes).flatten.length = 768 := by
  have sizes : (slots.map holdEntryBytes).map List.length = List.replicate 32 24 := by
    rw [List.map_map, ← all, ← List.map_const']
    exact List.map_congr_left fun x _ => holdEntryBytes_length x
  rw [List.length_flatten, sizes]
  rfl

theorem argumentTime_some {a b : Word32} (small : b.toNat ≤ 999999) :
    argumentTime a b = some (a.toNat * second + b.toNat) := if_pos small

theorem argumentTime_none {a b : Word32} (large : 999999 < b.toNat) : argumentTime a b = none :=
  if_neg (Nat.not_le.mpr large)

theorem exec_holdPlace {s : State} (idle : s.evidence.txn = none) (a b c d : Word32) : exec (.holdPlace a b c d) s =
    .next ((s.placeController (argumentTime a b) (argumentTime c d)).1.answer
      [(s.placeController (argumentTime a b) (argumentTime c d)).2] .nothing) := by
  change execHoldPlace a b c d s = _
  unfold execHoldPlace
  rw [request_served idle]

/-- A placement with a time out of its range, or an end before its start, is REFUSED with no effect (R105, R182, R186). -/
theorem placeController_refused {s : State} {a b c d : Word32} {micros : Nat} (unit : second = micros)
    (bad : 999999 < b.toNat ∨ 999999 < d.toNat ∨
    (b.toNat ≤ 999999 ∧ d.toNat ≤ 999999 ∧ c.toNat * micros + d.toNat < a.toNat * micros + b.toNat)) :
    s.placeController (argumentTime a b) (argumentTime c d) = (s, 0xFF) := by
  subst unit
  rcases bad with large | large | ⟨startOk, stopOk, before⟩
  · rw [argumentTime_none large]
    rfl
  · rw [argumentTime_none large]
    cases argumentTime a b <;> rfl
  · rw [argumentTime_some startOk, argumentTime_some stopOk, State.placeController]
    have refused := (placeHold_refused_iff s .controller (a.toNat * second + b.toNat) (some (c.toNat * second + d.toNat))
      none).mpr (.inl ⟨rfl, _, rfl, before⟩)
    rw [placeHold_refused refused, refused]

/-- The answer byte of HOLD_PLACE: the slot, or 0xFF for REFUSED (R186). -/
def placeAnswer : Option SlotRef → Byte
  | some ref => BitVec.ofNat 8 ref.slot
  | none => 0xFF

/-- HOLD_PLACE places a CONTROLLER hold and answers as the Recorder does (R186). -/
theorem exec_holdPlace_placed {s : State} (idle : s.evidence.txn = none) {a b c d : Word32} (startOk : b.toNat ≤ 999999)
    (stopOk : d.toNat ≤ 999999) {micros : Nat} (unit : second = micros) :
    let placed := s.placeHold .controller (a.toNat * micros + b.toNat) (some (c.toNat * micros + d.toNat)) none
    exec (.holdPlace a b c d) s = .next (placed.1.answer [placeAnswer placed.2] .nothing) := by
  subst unit
  rw [exec_holdPlace idle, argumentTime_some startOk, argumentTime_some stopOk, State.placeController]
  generalize s.placeHold .controller _ _ none = placed
  obtain ⟨t, ref⟩ := placed
  cases ref <;> rfl

/-- HOLD_RELEASE of a slot that is not FREE (R117, R186). -/
theorem exec_holdRelease_held {s : State} (idle : s.evidence.txn = none) {slot : Byte} {h : Hold}
    (held : s.recorder.hold? slot.toNat = some h) :
    exec (.holdRelease slot) s = .next ((s.releaseHold slot.toNat).answer [0x00] .nothing) := by
  change execHoldRelease slot s = _
  unfold execHoldRelease
  rw [request_served idle, held]

theorem exec_holdRelease_free {s : State} (idle : s.evidence.txn = none) {slot : Byte}
    (free : s.recorder.hold? slot.toNat = none) : exec (.holdRelease slot) s = .next (s.answer [0x01] .nothing) := by
  change execHoldRelease slot s = _
  unfold execHoldRelease
  rw [request_served idle, free]

/-- The records a released hold names hold it no longer (R117, R173). -/
theorem released_hold {l : List BreachRecord} {breach : Option Nat} {n : Nat} {r : BreachRecord} (names : breach = some n)
    (member : r ∈ l.map (fun r => if breach = some r.number then r.released else r)) (number : r.number = n) :
    r.hold = none := by
  obtain ⟨x, -, rfl⟩ := List.mem_map.mp member
  split
  · rfl
  · next other =>
    rw [if_neg other] at number
    exact absurd (number ▸ names) other

/-- Settles O21. -/
theorem holdRequests : Obligations.HoldRequests := by
  refine ⟨fun s idle => ⟨⟨?list, holdList_length⟩, fun a b c d bad => ?refused, fun a b c d startOk stopOk => ?place,
    fun slot => ⟨exec_holdRelease_free idle, fun h held => ?release⟩, fun slot all outside => ?outside⟩, fun x => ?bytes⟩
  case list => exact (show exec .holdList s = execHoldList s from rfl).trans (request_served idle _)
  case refused =>
    rw [exec_holdPlace idle, placeController_refused rfl bad]
    rfl
  case place =>
    refine (exec_holdPlace_placed idle startOk stopOk (micros := 1000000) rfl).trans ?_
    generalize s.placeHold .controller _ _ none = placed
    obtain ⟨t, ref⟩ := placed
    cases ref <;> rfl
  case release =>
    refine ⟨_, exec_holdRelease_held idle held, ?_⟩
    have keeps := releaseHold_keeps s slot.toNat
    rw [releaseHold_eq held] at keeps ⊢
    refine ⟨rfl, ?_, Recorder.tenure_freeHold .., fun n other => ⟨?_, Recorder.tenure_freeHold ..⟩,
      fun n r names => released_hold names, ?_, rfl, rfl, keeps.setEvidence _⟩
    · exact (Recorder.hold?_freeHold ..).trans (if_pos rfl)
    · exact (Recorder.hold?_freeHold ..).trans (if_neg other)
    · exact Recorder.freeHold_rest held
  case outside =>
    refine exec_holdRelease_free idle ?_
    cases held : s.recorder.hold? slot.toNat with
    | none => rfl
    | some h => exact absurd (Recorder.hold?_lt held) (by omega)
  case bytes =>
    refine ⟨holdEntryBytes_length x, fun free i inside => ?free, fun h held => ?held⟩
    case free =>
      rw [holdEntryBytes_free free, byteAt, List.getD_eq_getElem?_getD, List.getElem?_replicate_of_lt inside,
        Option.getD_some]
    case held =>
      obtain ⟨preroll, truncated, cut, evicted, small⟩ := holdFlagsByte_read h.flags
      have flags := holdEntry_byteAt held (i := 2) rfl rfl rfl
      have stop := holdEntry_stop held
      refine ⟨?state, ?priority, flags ▸ preroll, flags ▸ truncated, flags ▸ cut, flags ▸ evicted, flags ▸ small,
        holdEntry_byteAt held (i := 3) rfl rfl rfl,
        timeBytes_of_window (holdEntry_window held (i := 4) rfl rfl rfl), stop.1, stop.2,
        holdEntry_number held (i := 6) rfl rfl rfl, fun none_ => ?unnamed, fun n some_ small => ?named⟩
      case state =>
        refine (holdEntry_natAt held (i := 0) rfl rfl rfl).trans ((beNat_single _).trans ?_)
        cases h.isOpen <;> rfl
      case priority =>
        refine (holdEntry_natAt held (i := 1) rfl rfl rfl).trans ((beNat_single _).trans ?_)
        cases h.priority <;> rfl
      case unnamed =>
        have field := holdEntry_natAt held (i := 7) rfl rfl rfl
        rw [none_] at field
        exact field
      case named =>
        have field := holdEntry_natAt held (i := 7) rfl rfl rfl
        rw [some_] at field
        exact field.trans (beNat_beBytes_of_lt (k := 2) small)

end Sys2Proof.Machine
end

section
/-! PROOF. UNIT_SEEK and UNIT_READ: what the Recorder answers (R118), the requests and their commits, and the bytes of a
unit and of a MARK unit (R187). Settles O22. -/

namespace Sys2Proof.Machine

/-! ### A stamp in nine bytes (R182) -/

theorem qualityByte_toNat (c : TimeClass) (correcting : Bool) : (qualityByte c correcting).toNat =
    (match c with | .locked => 1 | .holdover => 2 | .peer => 3 | .free => 4) + (if correcting then 128 else 0) := by
  cases c <;> cases correcting <;> rfl

theorem stamp_of_window {bytes : List Byte} {at_ : Nat} {x : Stamp} (window : (bytes.drop at_).take 9 = stampBytes x)
    (within : x.time ≤ shelfMax) :
    natAt bytes at_ 4 = x.time / 1000000 ∧ natAt bytes (at_ + 4) 4 = x.time % 1000000 ∧ natAt bytes (at_ + 8) 1 =
      (match x.cls with | .locked => 1 | .holdover => 2 | .peer => 3 | .free => 4) + (if x.correcting then 128 else 0) := by
  have time : (bytes.drop at_).take 8 = timeBytes x.time := by
    have cut := congrArg (List.take 8) window
    rw [List.take_take] at cut
    exact cut
  have quality : natAt bytes (at_ + 8) 1 = (qualityByte x.cls x.correcting).toNat :=
    (natAt_of_window window (j := 8) (by decide)).trans (beNat_single _)
  obtain ⟨seconds, micros⟩ := timeBytes_of_window time within
  exact ⟨seconds, micros, quality.trans (qualityByte_toNat ..)⟩

/-! ### The bytes of a unit (R187) -/

/-- The fields of a unit's bytes, in order (R187). -/
def unitFields (u : RecordedUnit) : List (List Byte) :=
  [[BitVec.ofNat 8 u.kind.code], [BitVec.ofNat 8 (markBit 0 u.damaged)], stampBytes u.arrival,
    beBytes 5 u.mediaTime.toNat, beBytes 2 u.bytes.length, List.replicate 6 0, u.bytes]

/-- The widths of those fields (R187). -/
def unitWidths (u : RecordedUnit) : List Nat := [1, 1, 9, 5, 2, 6, u.bytes.length]

theorem unitFields_sized (u : RecordedUnit) : (unitFields u).map List.length = unitWidths u := by
  simp [unitFields, unitWidths]

theorem unitBytesOf_flatten (u : RecordedUnit) : unitBytesOf u = (unitFields u).flatten := by
  simp [unitBytesOf, unitFields]

theorem unitBytesOf_length (u : RecordedUnit) : (unitBytesOf u).length = 24 + u.bytes.length := by
  rw [unitBytesOf_flatten, List.length_flatten, unitFields_sized]
  simp only [unitWidths, List.sum_cons, List.sum_nil]
  omega

theorem unitBytesOf_window {u : RecordedUnit} {i at_ n : Nat} {field : List Byte} (is : (unitFields u)[i]? = some field)
    (width : (unitWidths u)[i]? = some n) (place : ((unitWidths u).take i).sum = at_) :
    ((unitBytesOf u).drop at_).take n = field := by
  rw [unitBytesOf_flatten]
  exact window_of_fields (unitFields_sized u) is width place

theorem unitBytesOf_natAt {u : RecordedUnit} {i at_ n : Nat} {field : List Byte} (is : (unitFields u)[i]? = some field)
    (width : (unitWidths u)[i]? = some n) (place : ((unitWidths u).take i).sum = at_) :
    natAt (unitBytesOf u) at_ n = beNat field := congrArg beNat (unitBytesOf_window is width place)

/-- The unit's own bytes come after the 24 (R187). -/
theorem unitBytesOf_drop (u : RecordedUnit) : (unitBytesOf u).drop 24 = u.bytes := by
  have window := unitBytesOf_window (u := u) (i := 6) (at_ := 24) rfl rfl rfl
  rwa [List.take_of_length_le (by rw [List.length_drop, unitBytesOf_length]; omega)] at window

/-! ### The bytes of a MARK unit (R102, R187) -/

/-- The fields of a MARK unit's bytes, in order (R187). -/
def markFields (m : MarkRequest) : List (List Byte) :=
  [[BitVec.ofNat 8 m.reason.code], beBytes 4 m.stepMs, stampBytes? m.before, [0, 0]]

theorem markFields_sized (m : MarkRequest) : (markFields m).map List.length = [1, 4, 9, 2] := by
  simp [markFields, stampBytes?_length]

theorem markBytes_flatten (m : MarkRequest) : markBytes m = (markFields m).flatten := by simp [markBytes, markFields]

theorem markBytes_window {m : MarkRequest} {i at_ n : Nat} {field : List Byte} (is : (markFields m)[i]? = some field)
    (width : [1, 4, 9, 2][i]? = some n) (place : (([1, 4, 9, 2] : List Nat).take i).sum = at_) :
    ((markBytes m).drop at_).take n = field := by
  rw [markBytes_flatten]
  exact window_of_fields (markFields_sized m) is width place

theorem markBytes_natAt {m : MarkRequest} {i at_ n : Nat} {field : List Byte} (is : (markFields m)[i]? = some field)
    (width : [1, 4, 9, 2][i]? = some n) (place : (([1, 4, 9, 2] : List Nat).take i).sum = at_) :
    natAt (markBytes m) at_ n = beNat field := congrArg beNat (markBytes_window is width place)

/-! ### The units of a hold (R118) -/

theorem pagePositions_eq (seq : Nat) : ∀ (units : List RecordedUnit) (n : Nat),
    pagePositions seq n units = units.mapIdx (fun k u => (⟨seq, n + k⟩, u))
  | [], _ => rfl
  | u :: units, n => by
    rw [pagePositions, pagePositions_eq seq units, List.mapIdx_cons]
    simp only [Nat.add_zero, Nat.add_assoc, Nat.add_comm 1]

/-- The pages of a hold in sequence order (R118). -/
def Recorder.holdPages (r : Recorder) (h : Hold) : List Page := sortBy (fun p => p.seq) (r.pages.filter (r.covers h))

theorem Recorder.holdUnits_eq (r : Recorder) (h : Hold) : r.holdUnits h =
    ((r.holdPages h).map (fun p => p.units.mapIdx (fun k u => ((⟨p.seq, k⟩ : ReadPosition), u)))).flatten := by
  unfold Recorder.holdUnits
  simp only [pagePositions_eq, Nat.zero_add]
  rfl

theorem ReadPosition.atOrAfter_iff (a b : ReadPosition) :
    a.atOrAfter b = true ↔ b.seq < a.seq ∨ (a.seq = b.seq ∧ b.number ≤ a.number) := by
  simp [ReadPosition.atOrAfter]

/-- What a search finds where the elements before one fail and it passes. -/
theorem find?_split {α : Type} {test : α → Bool} {before after : List α} {x : α} (fail : ∀ y ∈ before, ¬ test y = true)
    (pass : test x = true) : (before ++ x :: after).find? test = some x := by
  rw [List.find?_append, List.find?_eq_none.mpr fail, List.find?_cons_of_pos pass, Option.none_or]

section Answers

variable {r : Recorder} {h : Hold}

theorem Recorder.seekPosition_found {time : Nat} {before after : List (ReadPosition × RecordedUnit)}
    {x : ReadPosition × RecordedUnit} (split : r.holdUnits h = before ++ x :: after)
    (early : ∀ y ∈ before, y.2.arrival.time < time) (reached : time ≤ x.2.arrival.time) : r.seekPosition h time = x.1 := by
  unfold Recorder.seekPosition
  rw [split, find?_split (fun y member => by simpa using early y member) (by simpa using reached)]

theorem Recorder.seekPosition_end {time : Nat} (early : ∀ y ∈ r.holdUnits h, y.2.arrival.time < time) :
    r.seekPosition h time = r.endPosition h := by
  unfold Recorder.seekPosition
  rw [List.find?_eq_none.mpr (fun y member => by simpa using early y member)]

theorem Recorder.unitAt_found {pos : ReadPosition} {before after : List (ReadPosition × RecordedUnit)}
    {x : ReadPosition × RecordedUnit} (split : r.holdUnits h = before ++ x :: after)
    (early : ∀ y ∈ before, ¬ y.1.atOrAfter pos = true) (reached : x.1.atOrAfter pos = true) :
    r.unitAt h pos = some x := by
  unfold Recorder.unitAt
  rw [split, find?_split early reached]

theorem Recorder.unitAt_none {pos : ReadPosition} (early : ∀ y ∈ r.holdUnits h, ¬ y.1.atOrAfter pos = true) :
    r.unitAt h pos = none := List.find?_eq_none.mpr early

end Answers

/-! ### The requests and their commits (R182, R187) -/

section Requests

variable {s : State} (idle : s.evidence.txn = none)

include idle

theorem exec_unitSeek (slot : Byte) (a b : Word32) : exec (.unitSeek slot a b) s =
    .next (match argumentTime a b, s.recorder.hold? slot.toNat with
      | some t, some h =>
        s.answer [0x00] (.seek ⟨slot.toNat, s.recorder.tenure slot.toNat, s.recorder.seekPosition h t⟩ t)
      | _, _ => s.answer [0x01] .nothing) :=
  (show exec (.unitSeek slot a b) s = execUnitSeek slot a b s from rfl).trans (request_served idle _)

/-- UNIT_SEEK answers NOT_HELD where the slot is FREE or the microseconds are out of range (R182, R187). -/
theorem exec_unitSeek_notHeld {slot : Byte} {a b : Word32}
    (bad : s.recorder.hold? slot.toNat = none ∨ 999999 < b.toNat) :
    exec (.unitSeek slot a b) s = .next (s.answer [0x01] .nothing) := by
  rw [exec_unitSeek idle]
  rcases bad with free | large
  · rw [free]
    cases argumentTime a b <;> rfl
  · rw [argumentTime_none large]

theorem exec_unitSeek_held {slot : Byte} {a b : Word32} {h : Hold} (held : s.recorder.hold? slot.toNat = some h)
    (small : b.toNat ≤ 999999) {micros : Nat} (unit : second = micros) :
    exec (.unitSeek slot a b) s = .next (s.answer [0x00] (.seek
      ⟨slot.toNat, s.recorder.tenure slot.toNat, s.recorder.seekPosition h (a.toNat * micros + b.toNat)⟩
      (a.toNat * micros + b.toNat))) := by
  subst unit
  rw [exec_unitSeek idle, held, argumentTime_some small]

theorem exec_unitRead : exec .unitRead s = .next (match s.evidence.unitCursor with
    | none => s.answer [0x04] .nothing
    | some c =>
      match s.cursorHold c with
      | none => s.answer [0x03] .nothing
      | some h =>
        match s.recorder.unitAt h c.position with
        | some x => s.answer (0x00 :: unitBytesOf x.2) (.position x.1.past)
        | none => s.answer [if h.isOpen then 0x02 else 0x01] .nothing) :=
  (show exec .unitRead s = execUnitRead s from rfl).trans (request_served idle _)

theorem exec_unitRead_held {c : UnitCursor} {h : Hold} (cursor : s.evidence.unitCursor = some c)
    (held : s.cursorHold c = some h) : exec .unitRead s = .next (match s.recorder.unitAt h c.position with
      | some x => s.answer (0x00 :: unitBytesOf x.2) (.position x.1.past)
      | none => s.answer [if h.isOpen then 0x02 else 0x01] .nothing) := by
  rw [exec_unitRead idle, cursor]
  dsimp only
  rw [held]

end Requests

theorem cursorHold_held {s : State} {c : UnitCursor} {h : Hold} (held : s.recorder.hold? c.slot = some h)
    (same : s.recorder.tenure c.slot = c.tenure) : s.cursorHold c = some h := (if_pos same).trans held

theorem cursorHold_lost {s : State} {c : UnitCursor}
    (lost : s.recorder.hold? c.slot = none ∨ s.recorder.tenure c.slot ≠ c.tenure) : s.cursorHold c = none := by
  unfold State.cursorHold
  split
  · next same => exact lost.resolve_right (not_not_intro same)
  · rfl

/-- The commit point of a request just answered (R182). -/
theorem exec_commit_answer (s : State) (response : List Byte) (effect : CommitEffect) :
    exec .readingRequestCommit (s.answer response effect) = .next ((s.answer response .nothing).commit effect) := rfl

/-- The commit of UNIT_SEEK with the state as it was: the cursor is the one seen (R187). -/
theorem exec_commit_seek {s : State} {slot : Nat} {h : Hold} (held : s.recorder.hold? slot = some h) (time : Nat) :
    let cursor : UnitCursor := ⟨slot, s.recorder.tenure slot, s.recorder.seekPosition h time⟩
    exec .readingRequestCommit (s.answer [0x00] (.seek cursor time))
      = .next (s.setEvidence { s.evidence with txn := some ⟨[0x00], 0, .nothing⟩, unitCursor := some cursor }) := by
  intro cursor
  have found : (s.answer [0x00] .nothing).cursorHold cursor = some h := cursorHold_held held rfl
  have sought : (s.answer [0x00] .nothing).soughtCursor cursor time = cursor := by
    unfold State.soughtCursor
    rw [found]
    rfl
  rw [exec_commit_answer, State.commit, sought]
  rfl

/-- The commit of UNIT_READ: the cursor moves past the unit (R187). -/
theorem exec_commit_position {s : State} {c : UnitCursor} (cursor : s.evidence.unitCursor = some c) (response : List Byte)
    (next : ReadPosition) : exec .readingRequestCommit (s.answer response (.position next))
      = .next (s.setEvidence { s.evidence with
          txn := some ⟨response, 0, .nothing⟩, unitCursor := some { c with position := next } }) := by
  have kept : (s.answer response .nothing).evidence.unitCursor = some c := cursor
  rw [exec_commit_answer, State.commit, kept]
  rfl

/-- Settles O22. -/
theorem unitRequests : Obligations.UnitRequests := by
  refine ⟨fun s idle => ⟨fun slot a b => exec_unitSeek_notHeld idle, fun slot a b h held small =>
    ⟨exec_unitSeek_held idle held small rfl, exec_commit_seek held _⟩, fun noCursor => ?noCursor, fun c cursor =>
    ⟨fun lost => ?released, fun h held same => ?held⟩⟩, fun r h => ?answers, fun u => ?unit, fun m => ?mark⟩
  case noCursor => rw [exec_unitRead idle, noCursor]; rfl
  case released =>
    rw [exec_unitRead idle, cursor]
    dsimp only
    rw [cursorHold_lost lost]
    rfl
  case held =>
    have read := exec_unitRead_held idle cursor (cursorHold_held held same)
    refine ⟨fun nothing => ?_, fun p u found => ⟨?_, unitBytesOf_length u, exec_commit_position cursor _ _⟩⟩
    · rw [read, nothing]
      rfl
    · rw [read, found]
      rfl
  case answers =>
    refine ⟨r.holdPages h, sortBy_perm _ _, sortBy_sorted _ _, ?_⟩
    rw [← Recorder.holdUnits_eq]
    refine ⟨fun time before x after => Recorder.seekPosition_found, fun time => Recorder.seekPosition_end,
      fun at_ before x after split early reached => ?_, fun at_ early => ?_⟩
    · exact Recorder.unitAt_found split (fun y member => mt (ReadPosition.atOrAfter_iff ..).mp (early y member))
        ((ReadPosition.atOrAfter_iff ..).mpr reached)
    · exact Recorder.unitAt_none (fun y member => mt (ReadPosition.atOrAfter_iff ..).mp (early y member))
  case unit =>
    refine ⟨unitBytesOf_length u, ?kind, ?damaged, stamp_of_window (unitBytesOf_window (i := 2) rfl rfl rfl), ?media,
      fun small => ?length, unitBytesOf_natAt (i := 5) rfl rfl rfl, unitBytesOf_drop u⟩
    case kind =>
      refine (unitBytesOf_natAt (i := 0) rfl rfl rfl).trans ((beNat_single _).trans ?_)
      cases u.kind <;> rfl
    case damaged =>
      refine (unitBytesOf_natAt (i := 1) rfl rfl rfl).trans ((beNat_single _).trans ?_)
      cases u.damaged <;> rfl
    case media =>
      exact (unitBytesOf_natAt (i := 3) rfl rfl rfl).trans (beNat_beBytes_of_lt (k := 5) u.mediaTime.isLt)
    case length =>
      exact (unitBytesOf_natAt (i := 4) rfl rfl rfl).trans (beNat_beBytes_of_lt (k := 2) small)
  case mark =>
    refine ⟨markBytes_length m, ?reason, fun small => ?step, fun absent => ?absent, fun x given => ?given,
      markBytes_natAt (i := 3) rfl rfl rfl⟩
    case reason =>
      refine (markBytes_natAt (i := 0) rfl rfl rfl).trans ((beNat_single _).trans ?_)
      cases m.reason <;> rfl
    case step => exact (markBytes_natAt (i := 1) rfl rfl rfl).trans (beNat_beBytes_of_lt (k := 4) small)
    case absent =>
      have field := markBytes_natAt (m := m) (i := 2) (at_ := 5) rfl rfl rfl
      rw [absent] at field
      exact field
    case given =>
      have window := markBytes_window (m := m) (i := 2) (at_ := 5) rfl rfl rfl
      rw [given] at window
      exact stamp_of_window window

end Sys2Proof.Machine
end

section
/-! PROOF. The close request (R170). Settles O30. -/

namespace Sys2Proof.Machine

/-! ### Offering a notice (R131) -/

theorem offer_eq_setLink (s : State) (n : Notice) (carried : List Nat) :
    s.offer n carried = s.setLink (s.offer n carried).link := by
  unfold State.offer
  split <;> rfl

/-- What is offered depends on nothing but the station state and the line. -/
theorem offer_link_congr {s t : State} (startup : t.startup = s.startup) (link : t.link = s.link) (n : Notice)
    (carried : List Nat) : (t.offer n carried).link = (s.offer n carried).link := by
  unfold State.offer
  rw [startup, link]
  split
  · rfl
  · exact link

/-! ### The close of a cause (R170) -/

/-- The log with a cause's record closed, where it was stored (R170, step 1). -/
def BreachLog.closedCause (l : BreachLog) (c : OpenCause) (stop : Stamp) (figure : Option Int) (impaired : Bool) :
    BreachLog :=
  if c.stored then l.change c.number (closeRecord stop figure impaired) else l

/-- The state after the set end of a cause's hold (R170, step 2). -/
def State.causeHoldEnded (s : State) (c : OpenCause) (stop : Stamp) : State :=
  match c.hold with
  | none => s
  | some ref => s.setEnd ref stop.time

/-- The state after the closing notice of a cause (R170, step 3). -/
def State.closingOffered (s : State) (c : OpenCause) (stop : Stamp) (figure : Option Int) (impaired : Bool) : State :=
  if c.category.shared then s.offer (s.log.closingNotice c stop figure impaired) [] else s

theorem setLog_setEnd (s : State) (l : BreachLog) (ref : SlotRef) (t : Nat) :
    (s.setLog l).setEnd ref t = (s.setEnd ref t).setLog l := by
  unfold State.setEnd
  by_cases same : s.recorder.tenure ref.slot = ref.tenure
  · rw [if_pos same]
    exact if_pos same
  · rw [if_neg same]
    exact if_neg same

theorem setLog_causeHoldEnded (s : State) (l : BreachLog) (c : OpenCause) (stop : Stamp) :
    (s.setLog l).causeHoldEnded c stop = (s.causeHoldEnded c stop).setLog l := by
  unfold State.causeHoldEnded
  cases c.hold with
  | none => rfl
  | some ref => exact setLog_setEnd ..

theorem closeBreach_none {s : State} {category : Category} (none_ : s.log.cause? category = none) (stop : Stamp)
    (figure : Option Int) (impaired : Bool) : s.closeBreach category stop figure impaired = s := by
  unfold State.closeBreach
  rw [none_]

theorem cause?_category {l : BreachLog} {category : Category} {c : OpenCause} (found : l.cause? category = some c) :
    c.category = category := 
  eq_of_beq (List.find?_some (p := fun y : OpenCause => y.category == category) found)

section Found

variable {s : State} {c : OpenCause} (stop : Stamp) (figure : Option Int) (impaired : Bool)

/-- A state before the row is emptied: the record closed, the hold sent its end, the notice offered (R170). -/
def State.causeClosed (s : State) (c : OpenCause) (stop : Stamp) (figure : Option Int) (impaired : Bool) : State :=
  ((s.causeHoldEnded c stop).setLog (s.log.closedCause c stop figure impaired)).closingOffered c stop figure impaired

theorem closeBreach_some {category : Category} (found : s.log.cause? category = some c) :
    s.closeBreach category stop figure impaired = (s.causeClosed c stop figure impaired).setLog
      { (s.causeClosed c stop figure impaired).log with
        causes := (s.causeClosed c stop figure impaired).log.causes.filter (fun y => y.category != category) } := by
  have shape : s.closeBreach category stop figure impaired =
      let closed := if c.stored then s.setLog (s.log.change c.number (closeRecord stop figure impaired)) else s
      let offered := (closed.causeHoldEnded c stop).closingOffered c stop figure impaired
      offered.setLog { offered.log with causes := offered.log.causes.filter (fun y => y.category != category) } := by
    unfold State.closeBreach State.closingOffered
    rw [found, cause?_category found]
    rfl
  have closed : (if c.stored then s.setLog (s.log.change c.number (closeRecord stop figure impaired)) else s)
      = s.setLog (s.log.closedCause c stop figure impaired) := by
    unfold BreachLog.closedCause
    split <;> rfl
  rw [shape, closed]
  dsimp only
  rw [setLog_causeHoldEnded]
  rfl

/-- The set end reaches nothing but the Recorder, the notice nothing but the line (R170, steps 2 and 3). -/
theorem causeClosed_eq : s.causeClosed c stop figure impaired =
    ((s.setRecorder (s.causeHoldEnded c stop).recorder).setLog (s.log.closedCause c stop figure impaired)).setLink
      (if c.category.shared then
        (s.offer ((s.log.closedCause c stop figure impaired).closingNotice c stop figure impaired) []).link
      else s.link) := by
  have ended : s.causeHoldEnded c stop = s.setRecorder (s.causeHoldEnded c stop).recorder := by
    unfold State.causeHoldEnded State.setEnd
    split
    · rfl
    · split <;> rfl
  unfold State.causeClosed State.closingOffered
  rw [ended]
  split
  · refine (offer_eq_setLink _ _ _).trans (congrArg (State.setLink _) ?_)
    refine offer_link_congr ?_ ?_ _ _ <;> rfl
  · rfl

end Found

/-! ### The flags of a closing notice (R170, step 3) -/

/-- What a change leaves of the record with a breach number; a change keeps the numbers. -/
theorem record?_change (l : BreachLog) (n : Nat) {f : BreachRecord → BreachRecord} (keeps : ∀ r, (f r).number = r.number) :
    (l.change n f).record? n = (l.record? n).map f := by
  have number : ∀ r, (if r.number == n then f r else r).number = r.number := by
    intro r
    split
    · exact keeps r
    · rfl
  have same : (fun r => r.number == n) ∘ (fun r : BreachRecord => if r.number == n then f r else r)
      = fun r => r.number == n := funext fun r => congrArg (· == n) (number r)
  unfold BreachLog.record? BreachLog.change
  rw [List.find?_map, same]
  cases found : l.records.find? (fun r => r.number == n) with
  | none => rfl
  | some r => exact congrArg some (if_pos (List.find?_some (p := fun r : BreachRecord => r.number == n) found))

theorem closingFlags_closedCause (l : BreachLog) (c : OpenCause) (stop : Stamp) (figure : Option Int) (impaired : Bool) :
    (l.closedCause c stop figure impaired).closingFlags c impaired =
      match (if c.stored then l.record? c.number else none) with
      | some r => ⟨r.flags.impaired || impaired, r.flags.proxy⟩
      | none => ⟨c.flags.impaired || impaired, c.flags.proxy⟩ := by
  unfold BreachLog.closingFlags BreachLog.closedCause
  cases c.stored with
  | false => rfl
  | true =>
    rw [if_pos rfl, if_pos rfl, record?_change l c.number (f := closeRecord stop figure impaired) (fun _ => rfl)]
    cases l.record? c.number <;> rfl

theorem closedCause_stored {l : BreachLog} {c : OpenCause} (stored : c.stored = true) (stop : Stamp)
    (figure : Option Int) (impaired : Bool) : (l.closedCause c stop figure impaired).records = l.records.map (fun r =>
      if r.number = c.number then
        { r with endStamp := some stop, figure := figure, isOpen := false
                 flags := { r.flags with impaired := r.flags.impaired || impaired } }
      else r) := by
  unfold BreachLog.closedCause
  rw [if_pos stored]
  simp [BreachLog.change, closeRecord]

theorem closedCause_causes (l : BreachLog) (c : OpenCause) (stop : Stamp) (figure : Option Int) (impaired : Bool) :
    (l.closedCause c stop figure impaired).causes = l.causes := by
  unfold BreachLog.closedCause
  split <;> rfl

/-- Settles O30. -/
theorem closeRequest : Obligations.CloseRequest := by
  refine fun s category stop figure impaired => ⟨fun unlisted => closeBreach_none ?absent .., fun c found => ?closed⟩
  case absent => exact List.find?_eq_none.mpr fun c member => by simpa using unlisted c member
  case closed =>
    have keeps := closeBreach_keeps s category stop figure impaired
    have listed : category = c.category := (cause?_category found).symm
    rw [closeBreach_some stop figure impaired found, causeClosed_eq] at keeps ⊢
    subst listed
    refine ⟨fun y member => ?emptied, fun y member other => ?kept, fun stored => closedCause_stored stored ..,
      fun unstored => ?unstored, fun unheld => ?unheld, fun ref held => ?held, fun shared => ?shared,
      fun unshared => ?unshared, rfl, rfl, keeps⟩
    case emptied => simpa using (List.mem_filter.mp member).2
    case kept =>
      refine List.mem_filter.mpr ⟨?_, by simpa using other⟩
      exact (closedCause_causes s.log c stop figure impaired).symm ▸ member
    case unstored =>
      change (s.log.closedCause c stop figure impaired).records = _
      unfold BreachLog.closedCause
      rw [unstored]
      rfl
    case unheld =>
      change (s.causeHoldEnded c stop).recorder = _
      unfold State.causeHoldEnded
      rw [unheld]
    case held =>
      change (s.causeHoldEnded c stop).recorder = _
      unfold State.causeHoldEnded
      rw [held]
    case shared =>
      refine (if_pos shared).trans ?_
      unfold BreachLog.closingNotice
      rw [closingFlags_closedCause]
      rfl
    case unshared => exact if_neg (unshared ▸ Bool.false_ne_true)

end Sys2Proof.Machine
end

section
/-! PROOF. The number a creation draws is carried by no record and no open cause (R168), and the log a creation's entry leaves
(R169, R172). -/

namespace Sys2Proof.Machine

/-! ### Numbers (R168) -/

/-- The `k`th number after a breach number (R168). -/
theorem numberAfter_iterate {n : Nat} (low : 1 ≤ n) (high : n ≤ 65535) : ∀ k, numberAfter^[k] n = (n - 1 + k) % 65535 + 1
  | 0 => by rw [Function.iterate_zero_apply]; omega
  | k + 1 => by
    rw [Function.iterate_succ_apply', numberAfter_iterate low high k]
    unfold numberAfter
    split <;> omega

namespace BreachLog

/-- The numbers that records and open causes carry (R168). -/
def carried (l : BreachLog) : List Nat := l.records.map (fun r => r.number) ++ l.causes.map (fun c => c.number)

theorem carries_iff (l : BreachLog) (n : Nat) : l.carries n = true ↔ n ∈ l.carried := by
  simp [carries, carried]

/-- A search finds an uncarried number where one is in its reach (R168). -/
theorem freeNumber_free {l : BreachLog} : ∀ {fuel n : Nat}, (∃ k < fuel, l.carries (numberAfter^[k] n) = false) →
    l.carries (l.freeNumber fuel n) = false
  | 0, _, found => absurd found (by simp)
  | fuel + 1, n, found => by
    unfold freeNumber
    split
    · next taken =>
      obtain ⟨k, within, free⟩ := found
      cases k with
      | zero => exact absurd taken (by simpa using free)
      | succ k => exact freeNumber_free ⟨k, Nat.lt_of_succ_lt_succ within, free⟩
    · next free => simpa using free

/-- No log carries as many numbers as the search tries (R168). -/
theorem drawn_free {l : BreachLog} (low : 1 ≤ l.nextNumber) (high : l.nextNumber ≤ 65535)
    (few : l.records.length + l.causes.length < 139) : l.carries l.drawn = false := by
  refine freeNumber_free ?_
  by_contra none_
  have taken : ∀ k ∈ Finset.range 139, numberAfter^[k] l.nextNumber ∈ l.carried.toFinset := by
    intro k within
    have carries : l.carries (numberAfter^[k] l.nextNumber) = true := by
      by_contra free
      exact none_ ⟨k, Finset.mem_range.mp within, Bool.eq_false_of_not_eq_true free⟩
    exact List.mem_toFinset.mpr ((l.carries_iff _).mp carries)
  have apart : Set.InjOn (fun k => numberAfter^[k] l.nextNumber) (Finset.range 139) := by
    intro j hj k hk same
    simp only [numberAfter_iterate low high, Finset.coe_range, Set.mem_Iio] at same hj hk
    omega
  have many := Finset.card_le_card_of_injOn _ taken apart
  have bound : l.carried.toFinset.card ≤ l.records.length + l.causes.length := by
    refine (List.toFinset_card_le _).trans (Nat.le_of_eq ?_)
    simp [carried]
  rw [Finset.card_range] at many
  omega

theorem not_carried {l : BreachLog} {n : Nat} (free : l.carries n = false) :
    (∀ x ∈ l.records, x.number ≠ n) ∧ ∀ c ∈ l.causes, c.number ≠ n := by
  simpa [carries] using free

theorem mem_putCause (l : BreachLog) (c : OpenCause) : c ∈ (l.putCause c).causes :=
  (placeBefore_perm ..).mem_iff.mpr (List.mem_cons_self ..)

end BreachLog

/-! ### The log behind an entry (R169, R172) -/

/-- The record a creation enters (R166, R172). -/
def State.entry (s : State) (q : BreachRequest) : BreachRecord :=
  { s.recordOf q s.log.drawn with serial := s.log.nextSerial }

/-- The log with a creation's record behind the others and its number drawn (R168, R172). -/
def State.logEntered (s : State) (q : BreachRequest) : BreachLog :=
  { s.log with
    records := s.log.records ++ [s.entry q]
    nextNumber := numberAfter s.log.drawn
    nextSerial := s.log.nextSerial + 1 }

theorem storeRecord_room {s : State} (room : s.log.records.length < 128) (r : BreachRecord) :
    s.storeRecord r = (s.appendRecord r, true) := if_pos room

/-- The entry of a creation in a log with room: its number, and that it was stored (R169, steps 1 to 3). -/
theorem enterRecord_entered {s : State} (room : s.log.records.length < 128) (q : BreachRequest) :
    (s.enterRecord q).2 = (s.log.drawn, true) ∧ (s.enterRecord q).1.log =
      if q.category.hasCause && q.endStamp.isNone then (s.logEntered q).putCause (s.causeOf q s.log.drawn true)
      else s.logEntered q := by
  have pulsed : ((s.setLog { s.log with nextNumber := numberAfter s.log.drawn }).pulseForCategory q.category).log
      = { s.log with nextNumber := numberAfter s.log.drawn } := triggerPulses_log _ _
  unfold State.enterRecord
  dsimp only
  rw [storeRecord_room (by rw [pulsed]; exact room)]
  dsimp only
  rw [appendRecord_log, pulsed]
  split
  · exact ⟨rfl, rfl⟩
  · refine ⟨rfl, ?_⟩
    rw [appendRecord_log, pulsed]
    rfl

end Sys2Proof.Machine
end

section
/-! PROOF. A creation in a log with room (R169, R172): the record, its hold or the HOLD_REFUSED record of its refused one, the
notice and the upshift event. Settles O27. -/

namespace Sys2Proof.Machine

/-- A record as a creation leaves it: as it was, or without the hold that was evicted for the new record's (R116, R173). -/
def BreachRecord.MayLose (a b : BreachRecord) : Prop :=
  b = a ∨ b = { a with hold := none, flags := { a.flags with holdEvicted := true } }

/-- What a creation under the number drawn, in a log with room, leaves before its notice: the records before it, its own
record, and what stands behind it (R169, steps 1 to 4). -/
structure Holding (s : State) (q : BreachRequest) (u : State) (older : List BreachRecord) (r : BreachRecord)
    (newer : List BreachRecord) : Prop where
  records  : u.log.records = older ++ r :: newer
  kept     : List.Forall₂ BreachRecord.MayLose s.log.records older
  plain    : q.category.retains = false ∨ q.origin ≠ .own → older = s.log.records ∧ newer = [] ∧ r.hold = none
  own      : q.category.retains = true → q.origin = .own → (newer = [] ∧ ∃ ref, r.hold = some ref) ∨
    (older = s.log.records ∧ r.hold = none ∧ ∃ x, newer = [x] ∧ x.category = .holdRefused ∧ x.origin = .own ∧
      x.startStamp = s.nowStamp ∧ x.endStamp = some s.nowStamp ∧ x.figure = some (s.log.drawn : Int))
  told     : r.told = (s.entry q).told
  impaired : r.flags.impaired = q.impaired
  proxy    : r.flags.proxy = q.proxy
  cause    : q.category.hasCause = true → q.endStamp = none →
    ∃ c ∈ u.log.causes, c.category = q.category ∧ c.number = s.log.drawn
  next     : u.log.nextNumber = numberAfter (match newer.head? with | none => s.log.drawn | some x => x.number)
  link     : newer = [] → u.link = s.link
  refused  : newer ≠ [] → ∃ w : State, w.link = s.link ∧ w.log = u.log ∧ KeepsMeasured s w ∧ u = w.upshift

section Entry

variable {s : State} (room : s.log.records.length < 127) (q : BreachRequest)

theorem mayLose_self (l : List BreachRecord) : List.Forall₂ BreachRecord.MayLose l l :=
  List.forall₂_same.mpr fun _ _ => .inl rfl

include room

theorem enterRecord_room : (s.enterRecord q).1.log.records = s.log.records ++ [s.entry q] ∧
    (s.enterRecord q).1.log.records.length < 128 ∧ (s.enterRecord q).1.log.nextNumber = numberAfter s.log.drawn := by
  have records := enterRecord_records (Nat.lt_succ_of_lt room) q
  refine ⟨records, ?_, ?_⟩
  · rw [records, List.length_append, List.length_singleton]
    omega
  · rw [(enterRecord_entered (Nat.lt_succ_of_lt room) q).2]
    split <;> rfl

theorem enterRecord_cause (has : q.category.hasCause = true) (open_ : q.endStamp = none) :
    ∃ c ∈ (s.enterRecord q).1.log.causes, c.category = q.category ∧ c.number = s.log.drawn := by
  rw [(enterRecord_entered (Nat.lt_succ_of_lt room) q).2, if_pos (by simp [has, open_])]
  exact ⟨_, BreachLog.mem_putCause _ _, rfl, rfl⟩

/-- A creation that places no hold leaves its record last (R169, R172). -/
theorem holding_plain (plain : q.category.retains = false ∨ q.origin ≠ .own) :
    Holding s q (s.enterRecord q).1 s.log.records (s.entry q) [] := by
  obtain ⟨records, -, next⟩ := enterRecord_room room q
  exact {
    records, next
    kept := mayLose_self _
    plain := fun _ => ⟨rfl, rfl, rfl⟩
    own := fun retains own => absurd plain (by simp [retains, own])
    told := rfl
    impaired := rfl
    proxy := rfl
    cause := enterRecord_cause room q
    link := fun _ => enterRecord_link s q
    refused := fun behind => absurd rfl behind }

/-- A creation whose OWN hold is refused leaves the HOLD_REFUSED record behind its own (R114, R169). -/
theorem holding_refused (retains : q.category.retains = true) (own : q.origin = .own) :
    ∃ x, Holding s q ((s.enterRecord q).1.createHoldRefused (some s.log.drawn)) s.log.records (s.entry q) [x] := by
  obtain ⟨records, left, -⟩ := enterRecord_room room q
  have entered := enterRecord_keeps s q
  obtain ⟨-, log⟩ := enterRecord_entered left ((s.enterRecord q).1.refusal (some s.log.drawn))
  have logged : ((s.enterRecord q).1.enterRecord ((s.enterRecord q).1.refusal (some s.log.drawn))).1.log
      = (s.enterRecord q).1.logEntered ((s.enterRecord q).1.refusal (some s.log.drawn)) :=
    log.trans (if_neg Bool.false_ne_true)
  refine ⟨(s.enterRecord q).1.entry ((s.enterRecord q).1.refusal (some s.log.drawn)), ?_⟩
  rw [createHoldRefused_eq]
  exact {
    records := by
      rw [upshift_log, logged]
      change (s.enterRecord q).1.log.records ++ _ = _
      rw [records, List.append_assoc]
      rfl
    kept := mayLose_self _
    plain := fun plain => absurd plain (by simp [retains, own])
    own := fun _ _ => .inr ⟨rfl, rfl, _, rfl, rfl, rfl, entered.nowStamp, congrArg some entered.nowStamp, rfl⟩
    told := rfl
    impaired := rfl
    proxy := rfl
    cause := fun has open_ => by
      rw [upshift_log, logged]
      exact enterRecord_cause room q has open_
    next := by
      rw [upshift_log, logged]
      rfl
    link := fun alone => nomatch alone
    refused := fun _ => ⟨_, (enterRecord_link ..).trans (enterRecord_link ..), (upshift_log _).symm,
      entered.trans (enterRecord_keeps _ _), rfl⟩ }

/-- A creation whose OWN hold is placed leaves its record last, with that hold; holds evicted for it leave their records (R106,
R116, R169). -/
theorem holding_placed (fresh : ∀ x ∈ s.log.records, x.number ≠ s.log.drawn) (retains : q.category.retains = true)
    (own : q.origin = .own) {evicted : List Nat} {slot : Nat} {h : Hold} (named : h.breach = some s.log.drawn)
    (f : OpenCause → OpenCause) (same : ∀ c, (f c).category = c.category ∧ (f c).number = c.number) :
    let placed := (s.enterRecord q).1.withPlaced evicted slot h
    ∃ older r, Holding s q (placed.setLog { placed.log with causes := placed.log.causes.map f }) older r [] := by
  obtain ⟨records, -, next⟩ := enterRecord_room room q
  have cause := enterRecord_cause room q
  have link := enterRecord_link s q
  generalize (s.enterRecord q).1 = e at records next cause link ⊢
  let tell := e.recorder.tellPlaced evicted ⟨slot, e.recorder.tenure slot + 1⟩ h
  have told : tell (s.entry q) = (e.recorder.tell evicted (s.entry q)).placed ⟨slot, e.recorder.tenure slot + 1⟩ h :=
    if_pos named
  refine ⟨s.log.records.map tell, tell (s.entry q), ?_⟩
  exact {
    records := by
      change e.log.records.map tell = _
      rw [records, List.map_append]
      rfl
    kept := by
      rw [List.forall₂_map_right_iff]
      refine List.forall₂_same.mpr fun x member => ?_
      have other : ¬ h.breach = some x.number := fun is => fresh x member (Option.some.inj (is.symm.trans named))
      have is : tell x = e.recorder.tell evicted x := if_neg other
      rw [is]
      unfold Recorder.tell
      split
      · exact .inr rfl
      · exact .inl rfl
    plain := fun plain => absurd plain (by simp [retains, own])
    own := fun _ _ => .inl ⟨rfl, _, congrArg BreachRecord.hold told⟩
    told := by
      rw [told]
      unfold Recorder.tell
      split <;> rfl
    impaired := by
      rw [told]
      unfold Recorder.tell
      split <;> rfl
    proxy := by
      rw [told]
      unfold Recorder.tell
      split <;> rfl
    cause := fun has open_ => by
      obtain ⟨c, member, category, number⟩ := cause has open_
      exact ⟨f c, List.mem_map_of_mem (f := f) member, (same c).1.trans category, (same c).2.trans number⟩
    next
    link := fun _ => link
    refused := fun behind => absurd rfl behind }

/-- What a creation leaves before its notice (R169, steps 1 to 4). -/
theorem holdForRecord_holding (fresh : ∀ x ∈ s.log.records, x.number ≠ s.log.drawn) :
    ∃ older r newer, Holding s q ((s.enterRecord q).1.holdForRecord q (some s.log.drawn)) older r newer := by
  by_cases plain : q.category.retains = false ∨ q.origin ≠ .own
  · rw [holdForRecord_plain plain]
    exact ⟨_, _, _, holding_plain room q plain⟩
  have retains : q.category.retains = true := Bool.eq_true_of_not_eq_false fun not => plain (.inl not)
  have own : q.origin = .own := not_not.mp fun peer => plain (.inr peer)
  obtain ⟨whenRefused, whenPlaced⟩ := holdForRecord_own retains own (s.enterRecord q).1 (some s.log.drawn)
  rcases placeHold_cases (s.enterRecord q).1 .own q.startStamp.time (q.endStamp.map (fun x => x.time)) (some s.log.drawn) with
    ⟨⟨isOwn, -⟩, -⟩ | ⟨-, refused⟩ | ⟨-, evicted, slot, -, -, placed⟩
  · cases isOwn
  · rw [whenRefused (congrArg Prod.snd refused)]
    obtain ⟨x, holding⟩ := holding_refused room q retains own
    exact ⟨_, _, _, holding⟩
  · rw [whenPlaced _ (congrArg Prod.snd placed), placed]
    obtain ⟨older, r, holding⟩ := holding_placed (evicted := evicted) (slot := slot) room q fresh retains own
      (h := (s.enterRecord q).1.holdFor .own q.startStamp.time (q.endStamp.map (fun x => x.time)) (some s.log.drawn)) rfl
      (fun c => if c.category = q.category ∧ q.endStamp = none then
        { c with hold := some ⟨slot, (s.enterRecord q).1.recorder.tenure slot + 1⟩ } else c)
      (fun c => by split <;> exact ⟨rfl, rfl⟩)
    exact ⟨older, r, [], holding⟩

end Entry

/-- The notice of a creation (R135, R169). -/
theorem noticeOf_eq (s : State) (q : BreachRequest) (n : Nat) :
    let segment := match q.segment with
      | none => (s.segments.current.segmentId, s.segments.current.scope)
      | some g => (g.id, g.scope)
    s.noticeOf q n = .breach ⟨n, q.category, ⟨q.impaired, q.proxy⟩, segment.1, segment.2, q.startStamp, q.endStamp,
      if q.endStamp.isSome then q.figure else none⟩ := by
  unfold State.noticeOf State.segmentOf
  cases q.segment <;> rfl

/-- A creation of origin OWN is an upshift event behind its notice, one for a peer's breach is not (R141, R169). -/
theorem announce_own {q : BreachRequest} (own : q.origin = .own) (s : State) (n : Notice) :
    s.announce q n = (if q.category.shared then s.offer n [] else s).upshift := by
  unfold State.announce
  rw [own]

theorem announce_peer {q : BreachRequest} {station : Byte} {number : Nat} (peer : q.origin = .peer station number)
    (s : State) (n : Notice) : s.announce q n = if q.category.shared then s.offer n [] else s := by
  unfold State.announce
  rw [peer]

/-- Settles O27. -/
theorem creationStoresRecord : Obligations.CreationStoresRecord := by
  intro s q room few low high
  have free := BreachLog.drawn_free low (Nat.le_of_lt_succ high) (by omega : s.log.records.length + s.log.causes.length < 139)
  obtain ⟨fresh, freshCause⟩ := BreachLog.not_carried free
  obtain ⟨answer, -⟩ := enterRecord_entered (Nat.lt_succ_of_lt room) q
  obtain ⟨older, r, newer, holding⟩ := holdForRecord_holding room q fresh
  have created : s.createBreach q = (((s.enterRecord q).1.holdForRecord q (some s.log.drawn)).announce q
      (s.noticeOf q s.log.drawn), some s.log.drawn) := by
    unfold State.createBreach
    dsimp only
    rw [answer]
    rfl
  have held := (enterRecord_keeps s q).trans (holdForRecord_keeps _ q (some s.log.drawn))
  have log := announce_log ((s.enterRecord q).1.holdForRecord q (some s.log.drawn)) q (s.noticeOf q s.log.drawn)
  have announced := announce_keeps ((s.enterRecord q).1.holdForRecord q (some s.log.drawn)) q (s.noticeOf q s.log.drawn)
  rw [noticeOf_eq] at created log announced
  generalize (s.enterRecord q).1.holdForRecord q (some s.log.drawn) = u at *
  have told := holding.told
  refine ⟨_, _, r, older, newer, created, ?records, congrArg BreachRecord.number told, congrArg BreachRecord.serial told,
    holding.kept, holding.plain, holding.own, fresh, freshCause, congrArg BreachRecord.category told,
    congrArg BreachRecord.origin told, congrArg BreachRecord.startStamp told, congrArg BreachRecord.endStamp told,
    congrArg BreachRecord.figure told, congrArg BreachRecord.isOpen told, congrArg BreachRecord.acked told,
    holding.impaired, holding.proxy, fun unnamed => ?current, fun g named => ?given, ?cause, held.trans announced, ?next,
    u, log.symm, held, holding.link, ?refused, fun own => ?own, fun station number peer => ?peer⟩
  case records => exact (congrArg BreachLog.records log).trans holding.records
  case current =>
    have segment : s.segmentOf q = s.segments.current.name := by rw [State.segmentOf, unnamed]; rfl
    exact ⟨(congrArg BreachRecord.segmentId told).trans (congrArg SegmentName.id segment),
      (congrArg BreachRecord.cls told).trans (congrArg SegmentName.cls segment),
      (congrArg BreachRecord.scope told).trans (congrArg SegmentName.scope segment)⟩
  case given =>
    have segment : s.segmentOf q = g := by rw [State.segmentOf, named]; rfl
    exact ⟨(congrArg BreachRecord.segmentId told).trans (congrArg SegmentName.id segment),
      (congrArg BreachRecord.cls told).trans (congrArg SegmentName.cls segment),
      (congrArg BreachRecord.scope told).trans (congrArg SegmentName.scope segment)⟩
  case cause => exact log.symm ▸ holding.cause
  case next => exact (congrArg BreachLog.nextNumber log).trans holding.next
  case refused => exact log.symm ▸ holding.refused
  case own => exact announce_own own u _
  case peer => exact announce_peer peer u _

end Sys2Proof.Machine
end

section
/-! PROOF. The breaches noted of peers: their records, holds and list entries, and their closing notices (R156 to R158).
Settles O58. -/

namespace Sys2Proof.Machine

/-! ### The record of a category that retains no evidence (R169, R172) -/

section Plain

variable {s : State} {q : BreachRequest} (plain : q.category.retains = false)

include plain

theorem createBreach_peers : (s.createBreach q).1.peers = s.peers := (raise_reports plain s).peers

theorem createBreach_plain (room : s.log.records.length < 128) : (s.createBreach q).2 = some s.log.drawn ∧
    (s.createBreach q).1.log.records = s.log.records ++ [s.entry q] := by
  have number : (s.createBreach q).2 = some s.log.drawn := by
    unfold State.createBreach
    dsimp only
    rw [(enterRecord_entered room q).1]
    rfl
  have created : (s.createBreach q).1 = _ := raise_plain plain s
  rw [created, announce_log, enterRecord_records room q]
  exact ⟨number, rfl⟩

end Plain

/-! ### A SYMPATHETIC hold (R113 to R115, R157) -/

theorem Recorder.unlink_nil (r : Recorder) (e : NotedBreach) : r.unlink [] e = e := by
  cases link : e.hold <;> simp [Recorder.unlink, Recorder.linksTo, link]

/-- A SYMPATHETIC placement is refused, with a HOLD_REFUSED record, or takes a slot that was FREE (R106, R114, R115). -/
theorem placeSympathetic_cases (s : State) (start : Nat) (stop number : Option Nat) :
    s.placeSympathetic start stop number = (s.createHoldRefused number, none) ∨
      ∃ slot h ref, s.placeSympathetic start stop number = (s.withPlaced [] slot h, some ref) := by
  obtain ⟨whenRefused, whenPlaced⟩ := placeSympathetic_eq s start stop number
  rcases placeHold_cases s .sympathetic start stop number with ⟨⟨isSympathetic, -⟩, -⟩ | ⟨-, refused⟩ |
    ⟨-, evicted, slot, evictions, -, placed⟩
  · cases isSympathetic
  · exact .inl (whenRefused (congrArg Prod.snd refused))
  · have leading := (Recorder.evictionsFor_shortest evictions).1
    have order : s.recorder.evictable (s.holdFor .sympathetic start stop number).priority.number = [] :=
      Recorder.evictable_sympathetic s.recorder
    rw [order] at leading
    cases List.prefix_nil.mp leading
    have result := whenPlaced _ (congrArg Prod.snd placed)
    rw [placed] at result
    exact .inr ⟨slot, _, _, result⟩

/-- A SYMPATHETIC placement leaves the peer table, the noted breaches and the caches (R115, R159). -/
theorem placeSympathetic_peers (s : State) (start : Nat) (stop number : Option Nat) :
    (s.placeSympathetic start stop number).1.peers = s.peers := by
  rcases placeSympathetic_cases s start stop number with refused | ⟨slot, h, ref, placed⟩
  · rw [refused, createHoldRefused_eq]
    exact ((enterRecord_reports s _).trans (upshift_reports _)).peers
  · have noted : s.peers.noted.map (s.recorder.unlink []) = s.peers.noted :=
      (List.map_congr_left fun e _ => s.recorder.unlink_nil e).trans (List.map_id _)
    rw [placed]
    exact congrArg (fun l => { s.peers with noted := l }) noted

/-- A record stays in the log behind a SYMPATHETIC placement, but for its hold and what its hold flags (R173). -/
theorem placeSympathetic_record {s : State} (room : s.log.records.length < 128) {r : BreachRecord}
    (member : r ∈ s.log.records) (start : Nat) (stop number : Option Nat) :
    ∃ x ∈ (s.placeSympathetic start stop number).1.log.records, x.told = r.told ∧
      x.flags.impaired = r.flags.impaired ∧ x.flags.proxy = r.flags.proxy := by
  rcases placeSympathetic_cases s start stop number with refused | ⟨slot, h, ref, placed⟩
  · rw [refused, createHoldRefused_stored room]
    exact ⟨r, List.mem_append_left _ member, rfl, rfl, rfl⟩
  · rw [placed]
    refine ⟨_, List.mem_map_of_mem (f := s.recorder.tellPlaced [] ⟨slot, s.recorder.tenure slot + 1⟩ h) member, ?_⟩
    have untold : s.recorder.tell [] r = r := rfl
    unfold Recorder.tellPlaced
    rw [untold]
    split <;> exact ⟨rfl, rfl, rfl⟩

/-! ### A breach noted (R156, R157) -/

theorem noted?_none_iff (s : State) (station : Byte) (number : Nat) : s.noted? station number = none ↔
    ¬ ∃ x ∈ s.peers.noted, x.peer = station ∧ x.peerBreach = number := by
  simp [State.noted?]

/-- The request of a PEER_NOTED record for a breach at an offset (R157). -/
def State.notedRequest (s : State) (station : Byte) (b : BreachNotice) (d : Int) : BreachRequest :=
  { category := .peerNoted
    startStamp := shiftStamp d b.startStamp
    endStamp := b.endStamp.map (shiftStamp d)
    segment := some ⟨b.segmentId, s.announcedClass station, b.scope⟩
    origin := .peer station b.number
    impaired := b.flags.impaired
    proxy := b.flags.proxy }

/-- The state with the record and the hold of a noted breach, and the hold (R157, steps 2 and 3). -/
def State.notedHeld (s : State) (station : Byte) (b : BreachNotice) (d : Int) : State × Option SlotRef :=
  (s.createBreach (s.notedRequest station b d)).1.placeSympathetic (shiftStamp d b.startStamp).time
    ((b.endStamp.map (shiftStamp d)).map (fun x => x.time)) (s.createBreach (s.notedRequest station b d)).2

theorem announcedClass_eq {s : State} {station : Byte} {e : PeerEntry} (known : s.peer? station = some e) :
    s.announcedClass station = match e.status with | none => .programme | some p => p.cls := by
  unfold State.announcedClass
  rw [known]
  dsimp only
  cases e.status <;> rfl

section Noting

variable {s : State} {station : Byte} {b : BreachNotice}

theorem takeBreach_new {e : PeerEntry} {d : Int} (unlisted : s.noted? station b.number = none)
    (known : s.peer? station = some e) (common : e.relation = .common d) (national : b.scope = .national) :
    s.takeBreach station b = s.noteBreach station b d := by
  unfold State.takeBreach
  rw [unlisted, known, national, Option.map_some, common]

/-- A breach that is not NATIONAL, or of a peer that is not COMMON, is ignored (R157). -/
theorem takeBreach_ignored (unlisted : s.noted? station b.number = none)
    (other : b.scope ≠ .national ∨ ∀ e d, s.peer? station = some e → e.relation ≠ .common d) :
    s.takeBreach station b = s := by
  unfold State.takeBreach
  rw [unlisted]
  dsimp only
  split
  · next d relation national =>
    obtain ⟨e, known, common⟩ := Option.map_eq_some_iff.mp relation
    rcases other with regional | apart
    · exact absurd national regional
    · exact absurd common (apart e d known)
  · rfl

theorem takeBreach_repeated {x : NotedBreach} (listed : s.noted? station b.number = some x) (open_ : b.endStamp = none) :
    s.takeBreach station b = s := by
  unfold State.takeBreach
  rw [listed, open_]

theorem takeBreach_closing {x : NotedBreach} {stop : Stamp} (listed : s.noted? station b.number = some x)
    (ends : b.endStamp = some stop) : s.takeBreach station b = s.endNoted x b stop := by
  unfold State.takeBreach
  rw [listed, ends]

/-- A breach without an end finds no room in a full list (R156). -/
theorem noteBreach_full {d : Int} (open_ : b.endStamp = none) (full : 32 ≤ s.peers.noted.length) :
    s.noteBreach station b d = s.setPeers { s.peers with overflow := addCount s.peers.overflow 1 } :=
  if_pos (by rw [open_]; exact decide_eq_true full)

theorem noteBreach_room {d : Int} (room : b.endStamp = none → s.peers.noted.length < 32) :
    (b.endStamp ≠ none → s.noteBreach station b d = (s.notedHeld station b d).1) ∧
    (b.endStamp = none → s.noteBreach station b d =
      (s.notedHeld station b d).1.setPeers { (s.notedHeld station b d).1.peers with
        noted := (s.notedHeld station b d).1.peers.noted ++ [⟨station, b.number, d,
          (s.createBreach (s.notedRequest station b d)).2, (s.notedHeld station b d).2⟩] }) := by
  have taken : ¬ (b.endStamp.isNone && decide (notedMax ≤ s.peers.noted.length)) = true := by
    intro full
    simp only [Bool.and_eq_true, Option.isNone_iff_eq_none, decide_eq_true_eq] at full
    exact absurd full.2 (Nat.not_le.mpr (room full.1))
  unfold State.noteBreach State.notedHeld State.notedRequest
  rw [if_neg taken]
  dsimp only
  refine ⟨fun closed => ?_, fun open_ => ?_⟩
  · obtain ⟨stop, ends⟩ := Option.ne_none_iff_exists'.mp closed
    split
    · rfl
    · next open_ => exact absurd open_ closed
  · split
    · next ends => exact absurd (open_.symm.trans ends) nofun
    · rfl

theorem notedHeld_peers (d : Int) : (s.notedHeld station b d).1.peers = s.peers :=
  (placeSympathetic_peers _ _ _ _).trans (createBreach_peers rfl)

/-- The PEER_NOTED record of a noted breach, in a log with room (R157, R169). -/
theorem notedHeld_record (room : s.log.records.length < 127) (d : Int) :
    (s.createBreach (s.notedRequest station b d)).2 = some s.log.drawn ∧
    ∃ r ∈ (s.notedHeld station b d).1.log.records, r.told = (s.entry (s.notedRequest station b d)).told ∧
      r.flags.impaired = b.flags.impaired ∧ r.flags.proxy = b.flags.proxy := by
  obtain ⟨number, records⟩ := createBreach_plain (q := s.notedRequest station b d) rfl (Nat.lt_succ_of_lt room)
  have left : (s.createBreach (s.notedRequest station b d)).1.log.records.length < 128 := by
    rw [records, List.length_append, List.length_singleton]
    omega
  have member : s.entry (s.notedRequest station b d) ∈ (s.createBreach (s.notedRequest station b d)).1.log.records :=
    records ▸ List.mem_append_right _ (List.mem_singleton_self _)
  exact ⟨number, placeSympathetic_record left member _ _ _⟩

end Noting

/-! ### The closing notice of a noted breach (R158) -/

/-- A PEER_NOTED record as its peer's closing notice leaves it (R158, R171). -/
def BreachRecord.peerClosed (r : BreachRecord) (stop : Stamp) (f : NoticeFlags) : BreachRecord :=
  { r with
    endStamp := some stop
    isOpen := false
    flags := { r.flags with impaired := r.flags.impaired || f.impaired, proxy := r.flags.proxy || f.proxy } }

theorem closePeerNoted_eq (s : State) (n : Nat) (stop : Stamp) (f : NoticeFlags) :
    s.closePeerNoted n stop f.impaired f.proxy false = s.setLog { s.log with records := s.log.records.map (fun r =>
      if r.number = n ∧ r.isOpen = true ∧ r.category = .peerNoted then r.peerClosed stop f else r) } := by
  unfold State.closePeerNoted BreachLog.change
  congr 2
  refine List.map_congr_left fun r _ => ?_
  by_cases here : r.number = n
  · by_cases open_ : r.isOpen = true ∧ r.category = .peerNoted
    · simp [here, open_.1, open_.2, BreachRecord.peerClosed]
    · have unchanged : ¬ (r.isOpen && r.category == .peerNoted) = true := by simpa using open_
      rw [if_pos (beq_iff_eq.mpr here)]
      dsimp only
      rw [if_neg unchanged, if_neg fun both => open_ both.2]
  · rw [if_neg (by simpa using here), if_neg fun both => here both.1]

theorem endHold_rest (s : State) (ref : Option SlotRef) (stop : Nat) :
    s.endHold ref stop = s.setRecorder (s.endHold ref stop).recorder := by
  unfold State.endHold State.setEnd
  split
  · rfl
  · split <;> rfl

/-- The state behind a closing notice: the hold sent its end, the record closed, the entry gone (R158). -/
theorem endNoted_eq (s : State) (x : NotedBreach) (b : BreachNotice) (stop : Stamp) : s.endNoted x b stop =
    ((s.setRecorder (s.endHold x.hold (shiftStamp x.offset stop).time).recorder).setLog
      (match x.ownBreach with
        | none => s.log
        | some n => { s.log with records := s.log.records.map (fun r =>
          if r.number = n ∧ r.isOpen = true ∧ r.category = .peerNoted then
            r.peerClosed (shiftStamp x.offset stop) b.flags else r) })).setPeers
      { s.peers with noted := s.peers.noted.filter (fun y => !(y.peer == x.peer && y.peerBreach == x.peerBreach)) } := by
  unfold State.endNoted
  dsimp only
  rw [endHold_rest]
  cases x.ownBreach with
  | none => rfl
  | some n =>
    dsimp only
    rw [closePeerNoted_eq]
    rfl

/-! ### A BREACH frame (R144, R149) -/

/-- A BREACH notice of a HEARD peer is taken once the peer's entry is refreshed (R144). -/
theorem exec_frameComplete_breach {s : State} {bytes : List Byte} {rx : FrameRx} {f : ReceivedFrame} {b : BreachNotice}
    {e : PeerEntry} (live : s.live = true) (receiving : s.link.rx = some rx) (whole : rx.overlong = false)
    (complete : bytes.length = 14 + natAt bytes 2 2) (fits : natAt bytes 2 2 ≤ 256) (valid : readFrame? bytes = some f)
    (notice : f.notice = .breach b) (foreign : f.sender.toNat ≠ s.startup.config.stationNumber)
    (known : s.peer? f.sender = some e) (heard : e.heard = true) :
    exec (.frameComplete bytes) s = .next (((s.setLink { s.link with rx := none }).setPeers
      (s.peers.change f.sender (fun x => { x with lastHeard := rx.stamp, heard := true }))).takeBreach f.sender b) := by
  have short : overlongHeader bytes = false := by
    unfold overlongHeader frameLength
    simp [fits]
  have station : e.station = f.sender :=
    eq_of_beq (List.find?_some (p := fun x : PeerEntry => x.station == f.sender) known)
  have judged : exec (.frameComplete bytes) s = .next ((s.setLink { s.link with rx := none }).judgeFrame bytes rx) := by
    change execFrameComplete bytes s = _
    unfold execFrameComplete frameLength
    rw [receiving]
    dsimp only
    rw [live, whole, short, if_neg Bool.false_ne_true, if_pos complete]
    exact if_pos rfl
  have taken : (s.setLink { s.link with rx := none }).judgeFrame bytes rx
      = (s.setLink { s.link with rx := none }).takeFrame f rx := by
    unfold State.judgeFrame
    rw [valid]
    exact if_neg foreign
  have found : (s.setLink { s.link with rx := none }).peer? f.sender = some e := known
  rw [judged, taken, State.takeFrame, found]
  dsimp only
  rw [State.actOn, notice, State.refreshPeer, heard, station]
  rfl

/-- Settles O58. -/
theorem notedBreaches : Obligations.NotedBreaches := by
  refine ⟨fun s station b => ⟨fun listed open_ => ?repeated, fun unlisted other => ?ignored,
    fun e d unlisted known common national => ⟨fun open_ full => ?full, fun room => ?noted, fun room listRoom => ?record⟩,
    fun x stop listed ends => ?closing⟩, fun s bytes rx f b e => exec_frameComplete_breach⟩
  case repeated =>
    obtain ⟨x, found⟩ := Option.ne_none_iff_exists'.mp fun none_ => (noted?_none_iff s station b.number).mp none_ listed
    exact takeBreach_repeated found open_
  case ignored => exact takeBreach_ignored ((noted?_none_iff ..).mpr unlisted) other
  case full => rw [takeBreach_new ((noted?_none_iff ..).mpr unlisted) known common national, noteBreach_full open_ full]
  case noted =>
    rw [takeBreach_new ((noted?_none_iff ..).mpr unlisted) known common national]
    intro cls created held
    have is : cls = s.announcedClass station := (announcedClass_eq known).symm
    clear_value cls
    subst is
    have isCreated : created = s.createBreach (s.notedRequest station b d) := rfl
    clear_value created
    subst isCreated
    have isHeld : held = s.notedHeld station b d := by
      unfold State.notedHeld
      rw [Option.map_map]
      rfl
    rw [isHeld]
    exact noteBreach_room room
  case record =>
    rw [takeBreach_new ((noted?_none_iff ..).mpr unlisted) known common national]
    obtain ⟨whenClosed, whenOpen⟩ := noteBreach_room (station := station) (d := d) listRoom
    obtain ⟨number, r, member, told, impaired, proxy⟩ := notedHeld_record (station := station) (b := b) room d
    have peers := notedHeld_peers (s := s) (station := station) (b := b) d
    refine ⟨s.log.drawn, r, ?member, congrArg BreachRecord.number told, congrArg BreachRecord.category told,
      congrArg BreachRecord.origin told, congrArg BreachRecord.segmentId told, congrArg BreachRecord.scope told,
      (congrArg BreachRecord.cls told).trans (announcedClass_eq known), congrArg BreachRecord.startStamp told, congrArg BreachRecord.endStamp told,
      (congrArg BreachRecord.isOpen told).trans Option.isNone_map, impaired, proxy, fun open_ => ?listed, fun closed => ?unlisted⟩
    case member =>
      by_cases open_ : b.endStamp = none
      · rw [whenOpen open_]
        exact member
      · rw [whenClosed open_]
        exact member
    case listed =>
      rw [whenOpen open_, number, peers]
      exact ⟨_, rfl⟩
    case unlisted => rw [whenClosed closed, peers]
  case closing =>
    obtain ⟨peer, breach⟩ : x.peer = station ∧ x.peerBreach = b.number := by
      simpa using List.find?_some (p := fun y : NotedBreach => y.peer == station && y.peerBreach == b.number) listed
    rw [takeBreach_closing listed ends, endNoted_eq, peer, breach]
    refine ⟨rfl, fun unheld => ?_, fun ref held => ?_, fun unrecorded => ?_, fun n recorded => ?_⟩
    · rw [unheld]
      rfl
    · rw [held]
      rfl
    · rw [unrecorded]
      rfl
    · rw [recorded]
      rfl

end Sys2Proof.Machine
end

section
/-! PROOF. The shelf line and the transmitter (R122, R127, R128, R134, R138). Settles O53. -/

namespace Sys2Proof.Machine

/-! ### The line (R122) -/

theorem ShelfLink.driving_iff (l : ShelfLink) :
    l.driving = true ↔ l.transmitter = .contending ∨ l.transmitter = .committed := by
  simp [ShelfLink.driving]

theorem overlongHeader_iff (received : List Byte) :
    overlongHeader received = true ↔ 12 ≤ received.length ∧ 256 < natAt received 2 2 := by
  rw [overlongHeader, frameLength, Bool.and_eq_true, decide_eq_true_iff, decide_eq_true_iff]

theorem exec_lineQuiet_idle {s : State} (idle : s.link.driving = true ∨ s.link.busy = false) (received : List Byte) :
    exec (.lineQuiet received) s = .next s := by
  refine if_pos ?_
  rcases idle with driving | quiet
  · rw [driving, Bool.true_or]
  · rw [quiet, Bool.not_false, Bool.or_true]

/-- The frame begun, if any, is broken off when the line falls quiet; it counts only where it is overlong (R122, R124). -/
theorem exec_lineQuiet_falls {s : State} (listening : s.link.driving = false) (busy : s.link.busy = true)
    (received : List Byte) :
    let overlong := ∃ rx, s.link.rx = some rx ∧ (rx.overlong = true ∨ (12 ≤ received.length ∧ 256 < natAt received 2 2))
    (¬ overlong → exec (.lineQuiet received) s
      = .next (s.setLink { s.link with busy := false, quietCount := 0, rx := none })) ∧
    (overlong → exec (.lineQuiet received) s = .next (s.setLink { s.link with
      busy := false, quietCount := 0, rx := none, crcErrors := addCount s.link.crcErrors 1 })) := by
  intro overlong
  have falls : ¬ (s.link.driving || !s.link.busy) = true := by simp [listening, busy]
  change (_ → execLineQuiet received s = _) ∧ (_ → execLineQuiet received s = _)
  unfold execLineQuiet
  rw [if_neg falls]
  dsimp only
  cases frame : s.link.rx with
  | none =>
    have fragment : ¬ overlong := fun ⟨rx, begun, _⟩ => nomatch frame.symm.trans begun
    exact ⟨fun _ => rfl, fun long => absurd long fragment⟩
  | some rx =>
    have long_iff : overlong ↔ (rx.overlong || overlongHeader received) = true := by
      rw [Bool.or_eq_true, overlongHeader_iff]
      refine ⟨fun ⟨x, begun, long⟩ => ?_, fun long => ⟨rx, frame, long⟩⟩
      rwa [Option.some.inj (frame.symm.trans begun)]
    exact ⟨fun short => if_neg (mt long_iff.mpr short), fun long => if_pos (long_iff.mp long)⟩

theorem exec_frameStart {s : State} (live : s.live = true) (busy : s.link.busy = true) (listening : s.link.driving = false)
    (free : s.link.rx = none) : exec .frameStart s
      = .next (s.setLink { s.link with rx := some ⟨s.nowStamp, s.time.localCount, false⟩ }) :=
  if_pos (by rw [live, busy, listening, free]; rfl)

theorem exec_frameStart_idle {s : State} (idle : s.live = false ∨ s.link.driving = true) :
    exec .frameStart s = .next s := by
  refine if_neg ?_
  rcases idle with still | driving
  · simp [still]
  · simp [driving]

/-! ### The withdrawal report (R138) -/

theorem Notice.isWithdraw_iff (n : Notice) : n.isWithdraw = true ↔ n = .withdraw := by
  cases n <;> simp [Notice.isWithdraw]

theorem isWithdraw_eq_decide (n : Notice) : n.isWithdraw = decide (n = .withdraw) :=
  Bool.eq_iff_iff.mpr (n.isWithdraw_iff.trans decide_eq_true_iff.symm)

/-- The state behind a notice sent or dropped: a WITHDRAW is reported (R138). -/
theorem reportWithdrawal_if (s : State) (n : Notice) : (if n.isWithdraw then s.reportWithdrawal else s) =
    s.setStartup { s.startup with withdrawReported := s.startup.withdrawReported || decide (n = .withdraw) } := by
  rw [← isWithdraw_eq_decide]
  cases n.isWithdraw with
  | true => rw [Bool.or_true]; rfl
  | false => rw [Bool.or_false]; rfl

/-! ### Attempts (R127, R128) -/

section Attempts

variable {s : State} {q : QueuedNotice} {behind : List QueuedNotice} (queue : s.link.queue = q :: behind)

theorem requiredQuiet_le_iff (own : Nat) (q : QueuedNotice) (count : Nat) : requiredQuiet own q ≤ count ↔
    if q.attempts = 0 then 2 ≤ count else 2 + own ≤ count := by
  unfold requiredQuiet
  split <;> rfl

theorem maySend_iff (s : State) (q : QueuedNotice) : s.maySend q = true ↔
    s.startup.station = .running ∨ (s.startup.restarting = true ∧ q.notice = .withdraw) := by
  simp [State.maySend, Notice.isWithdraw_iff]

include queue

/-- A notice in hand starts a frame exactly when the line has been quiet long enough and the station may send (R127). -/
theorem exec_attemptStart :
    let starts := s.link.transmitter = .waiting ∧ s.link.busy = false ∧
      (if q.attempts = 0 then 2 ≤ s.link.quietCount else 2 + s.startup.config.stationNumber ≤ s.link.quietCount) ∧
      (s.startup.station = .running ∨ (s.startup.restarting = true ∧ q.notice = .withdraw))
    (starts → exec .attemptStart s = .next (s.setLink { s.link with
      transmitter := .contending, sendTime := s.now, busy := true, quietCount := 0 })) ∧
    (¬ starts → exec .attemptStart s = .next s) := by
  intro starts
  have starts_iff : (s.link.transmitter == .waiting && !s.link.busy
      && decide (requiredQuiet s.config.stationNumber q ≤ s.link.quietCount) && s.maySend q) = true ↔ starts := by
    simp only [Bool.and_eq_true, beq_iff_eq, Bool.not_eq_true', decide_eq_true_eq, requiredQuiet_le_iff, maySend_iff,
      and_assoc]
    rfl
  change (_ → execAttemptStart s = _) ∧ (_ → execAttemptStart s = _)
  unfold execAttemptStart
  rw [queue]
  exact ⟨fun h => if_pos (starts_iff.mpr h), fun h => if_neg (mt starts_iff.mp h)⟩

theorem exec_collision_retried (contending : s.link.transmitter = .contending) (early : q.attempts < 3) :
    exec .collision s = .next (s.setLink { s.link with
      queue := { q with attempts := q.attempts + 1 } :: behind, transmitter := .waiting, quietCount := 0 }) := by
  change execCollision s = _
  unfold execCollision
  rw [contending, queue]
  exact if_pos (Nat.succ_lt_succ early)

/-- The fourth collision drops the notice (R128). -/
theorem exec_collision_dropped (contending : s.link.transmitter = .contending) (fourth : 3 ≤ q.attempts) :
    exec .collision s = .next ((s.setLink { s.link with
      queue := behind, transmitter := if behind.isEmpty then .idle else .waiting, quietCount := 0
      noticeDrops := addCount s.link.noticeDrops 1 }).setStartup { s.startup with
        withdrawReported := s.startup.withdrawReported || decide (q.notice = .withdraw) }) := by
  change execCollision s = _
  unfold execCollision
  rw [contending, queue]
  dsimp only
  rw [if_neg (by omega), reportWithdrawal_if]
  rfl

theorem exec_noticeCommitted (contending : s.link.transmitter = .contending) : exec .noticeCommitted s
    = .next (s.setLink { s.link with queue := behind, committed := some q, transmitter := .committed }) := by
  change execNoticeCommitted s = _
  unfold execNoticeCommitted
  rw [contending, queue]

end Attempts

theorem exec_attemptStart_empty {s : State} (empty : s.link.queue = []) : exec .attemptStart s = .next s := by
  change execAttemptStart s = _
  unfold execAttemptStart
  rw [empty]

theorem exec_collision_idle {s : State} (other : s.link.transmitter ≠ .contending) : exec .collision s = .next s := by
  change execCollision s = _
  unfold execCollision
  split
  · next contending _ => exact absurd contending other
  · rfl

theorem exec_noticeCommitted_idle {s : State} (other : s.link.transmitter ≠ .contending) :
    exec .noticeCommitted s = .next s := by
  change execNoticeCommitted s = _
  unfold execNoticeCommitted
  split
  · next contending _ => exact absurd contending other
  · rfl

theorem exec_frameSent {s : State} {q : QueuedNotice} (committed : s.link.transmitter = .committed)
    (going : s.link.committed = some q) : exec .frameSent s = .next ((s.setLink { s.link with
      unsent := s.link.unsent.filter (fun e => !q.carried.contains e.uid)
      committed := none, transmitter := if s.link.queue.isEmpty then .idle else .waiting }).setStartup { s.startup with
        withdrawReported := s.startup.withdrawReported || decide (q.notice = .withdraw) }) := by
  change execFrameSent s = _
  unfold execFrameSent
  rw [committed, going]
  dsimp only
  rw [reportWithdrawal_if]
  rfl

theorem exec_frameSent_idle {s : State} (other : s.link.transmitter ≠ .committed) : exec .frameSent s = .next s := by
  change execFrameSent s = _
  unfold execFrameSent
  split
  · next committed _ => exact absurd committed other
  · rfl

/-- Settles O53: each event by what the transmitter and the line are doing when it comes. -/
theorem lineAndTransmitter : Obligations.LineAndTransmitter := by
  intro s link sending rest
  have listens : ¬ sending → s.link.driving = false := fun silent =>
    Bool.eq_false_iff.mpr (mt s.link.driving_iff.mp silent)
  refine ⟨rfl, fun received => ⟨fun idle => ?_, fun silent busy => exec_lineQuiet_falls (listens silent) busy received⟩,
    fun live busy silent free => exec_frameStart live busy (listens silent) free,
    fun idle => exec_frameStart_idle (idle.imp_right s.link.driving_iff.mpr), exec_attemptStart_empty,
    fun q behind queue => ⟨?starts, ?waits, fun contending => ⟨exec_collision_retried queue contending, fun fourth => ?_,
      exec_noticeCommitted queue contending⟩⟩,
    fun other => ⟨exec_collision_idle other, exec_noticeCommitted_idle other⟩,
    fun q committed going => ⟨_, exec_frameSent committed going, rfl, rfl, rfl⟩, exec_frameSent_idle⟩
  · exact exec_lineQuiet_idle (idle.imp_left s.link.driving_iff.mpr) received
  case starts =>
    exact fun waiting quiet enough allowed => (exec_attemptStart queue).1 ⟨waiting, quiet, enough, allowed⟩
  case waits =>
    refine fun held => (exec_attemptStart queue).2 fun ⟨_, quiet, enough, allowed⟩ => ?_
    rcases held with early | barred | busy
    · exact early enough
    · exact barred allowed
    · exact Bool.false_ne_true (quiet.symm.trans busy)
  · exact ⟨_, exec_collision_dropped queue contending fourth, rfl, rfl, rfl⟩

end Sys2Proof.Machine
end

section
/-! PROOF. The transmit queue under an offer (R127, R128, R130, R131). Settles O54. -/

namespace Sys2Proof.Machine

/-! ### What an offer leaves of the line (R127, R131) -/

section Link

variable (l : ShelfLink) (q : QueuedNotice) (oldHead : Option Nat)

/-- Dealing with an offer changes the queue and may count a drop (R131). -/
theorem ShelfLink.accept_eq : l.accept q = { l with
    queue := (l.accept q).queue, noticeDrops := (l.accept q).noticeDrops } := by
  unfold ShelfLink.accept ShelfLink.replaceStatus ShelfLink.place
  split
  · rfl
  · split
    · rfl
    · split <;> rfl

/-- A change of the queue leaves all but the transmitter and the quiet count (R127, R128). -/
theorem ShelfLink.settle_eq : l.settle oldHead = { l with
    transmitter := (l.settle oldHead).transmitter, quietCount := (l.settle oldHead).quietCount } := by
  unfold ShelfLink.settle ShelfLink.atRest
  split
  · rfl
  · split <;> rfl
  · rfl
  · rfl

theorem ShelfLink.settle_queue : (l.settle oldHead).queue = l.queue := by rw [ShelfLink.settle_eq]

theorem ShelfLink.settle_noticeDrops : (l.settle oldHead).noticeDrops = l.noticeDrops := by rw [ShelfLink.settle_eq]

variable {l oldHead}

theorem ShelfLink.settle_committed (going : l.transmitter = .committed) : l.settle oldHead = l := by
  unfold ShelfLink.settle
  rw [going]

theorem ShelfLink.settle_resting (resting : l.transmitter = .idle ∨ l.transmitter = .waiting) :
    l.settle oldHead = l.atRest := by
  unfold ShelfLink.settle
  rcases resting with idle | waiting
  · rw [idle]
  · rw [waiting]

/-- A frame in contention goes on while its notice is in hand (R128). -/
theorem ShelfLink.settle_contending (contending : l.transmitter = .contending) (same : l.headUid = oldHead) :
    l.settle oldHead = l := by
  unfold ShelfLink.settle
  rw [contending]
  exact if_pos same

/-- A frame in contention whose notice is no longer in hand is broken off uncharged (R128). -/
theorem ShelfLink.settle_broken (contending : l.transmitter = .contending) (other : l.headUid ≠ oldHead) :
    l.settle oldHead = ({ l with quietCount := 0 }).atRest := by
  unfold ShelfLink.settle
  rw [contending]
  exact if_neg other

end Link

/-! ### The cases of R131 -/

/-- A list holds a STATUS notice. -/
def StatusQueued (l : List QueuedNotice) : Prop := ∃ y ∈ l, y.notice.isStatus = true

theorem statusQueued_iff (l : List QueuedNotice) :
    l.any (fun y => y.notice.isStatus) = true ↔ StatusQueued l := List.any_eq_true

section Cases

variable {l : ShelfLink} {q : QueuedNotice}

/-- A STATUS takes the place of the queued one, with its attempts (R131, case 2). -/
theorem ShelfLink.accept_replaces (status : q.notice.isStatus = true) (queued : StatusQueued l.queue) :
    l.accept q = l.replaceStatus q := if_pos (by rw [status, (statusQueued_iff _).mpr queued]; rfl)

theorem ShelfLink.accept_other (other : q.notice.isStatus = false ∨ ¬ StatusQueued l.queue) : l.accept q =
    if l.queue.length < 8 then l.place q
    else if l.queue.any (fun y => y.notice.isStatus) then
      ({ l with queue := l.queue.filter (fun y => !y.notice.isStatus) }).place q
    else { l with noticeDrops := addCount l.noticeDrops 1 } := by
  refine if_neg fun both => ?_
  rw [Bool.and_eq_true, statusQueued_iff] at both
  rcases other with event | none
  · exact Bool.false_ne_true (event.symm.trans both.1)
  · exact none both.2

/-- There is room (R131, case 3). -/
theorem ShelfLink.accept_places (other : q.notice.isStatus = false ∨ ¬ StatusQueued l.queue)
    (room : l.queue.length < 8) : l.accept q = l.place q := (ShelfLink.accept_other other).trans (if_pos room)

/-- A full queue gives up its STATUS (R131, case 4). -/
theorem ShelfLink.accept_evicts (event : q.notice.isStatus = false) (queued : StatusQueued l.queue)
    (full : 8 ≤ l.queue.length) :
    l.accept q = ({ l with queue := l.queue.filter (fun y => !y.notice.isStatus) }).place q := by
  rw [ShelfLink.accept_other (.inl event), if_neg (Nat.not_lt.mpr full), if_pos ((statusQueued_iff _).mpr queued)]

/-- A full queue without a STATUS drops what is offered (R131, case 5). -/
theorem ShelfLink.accept_drops (none : ¬ StatusQueued l.queue) (full : 8 ≤ l.queue.length) :
    l.accept q = { l with noticeDrops := addCount l.noticeDrops 1 } := by
  rw [ShelfLink.accept_other (.inr none), if_neg (Nat.not_lt.mpr full), if_neg (mt (statusQueued_iff _).mp none)]

/-- The only queued STATUS, replaced (R131, case 2). -/
theorem ShelfLink.replaceStatus_queue {ahead behind : List QueuedNotice} {y : QueuedNotice}
    (queue : l.queue = ahead ++ y :: behind) (status : y.notice.isStatus = true)
    (others : ∀ x ∈ ahead ++ behind, x.notice.isStatus = false) :
    (l.replaceStatus q).queue = ahead ++ { q with attempts := y.attempts } :: behind := by
  have kept : ∀ m : List QueuedNotice, (∀ x ∈ m, x ∈ ahead ++ behind) →
      m.map (fun x => if x.notice.isStatus then { q with attempts := x.attempts } else x) = m := fun m inside =>
    (List.map_congr_left fun x member => if_neg (by rw [others x (inside x member)]; exact Bool.false_ne_true)).trans
      (List.map_id _)
  unfold ShelfLink.replaceStatus
  rw [queue, List.map_append, List.map_cons, kept ahead (fun _ => List.mem_append_left _),
    kept behind (fun _ => List.mem_append_right _), if_pos status]

/-- A notice placed stands behind its kind and those before it, before the later kinds (R130). -/
theorem ShelfLink.place_queue (l : ShelfLink) (q : QueuedNotice) : ∃ ahead behind, l.queue = ahead ++ behind ∧
    (l.place q).queue = ahead ++ q :: behind ∧ (∀ y ∈ ahead, y.notice.rank ≤ q.notice.rank) ∧
      (∀ y, behind.head? = some y → q.notice.rank < y.notice.rank) := by
  obtain ⟨ahead, behind, parts, placed, before, after⟩ :=
    placeBefore_split (fun y : QueuedNotice => q.notice.rank < y.notice.rank) q l.queue
  exact ⟨ahead, behind, parts, placed, fun y early => Nat.le_of_not_lt (of_decide_eq_false (before y early)),
    fun y late => of_decide_eq_true (after y late)⟩

end Cases

/-! ### The offer -/

/-- A notice offered to the line, before the transmitter is told (R131). -/
def ShelfLink.taking (l : ShelfLink) (n : Notice) (carried : List Nat) : ShelfLink :=
  ({ l with nextUid := l.nextUid + 1 }).accept ⟨l.nextUid, n, 0, carried⟩

theorem ShelfLink.taking_eq (l : ShelfLink) (n : Notice) (carried : List Nat) : l.taking n carried = { l with
    queue := (l.taking n carried).queue, noticeDrops := (l.taking n carried).noticeDrops, nextUid := l.nextUid + 1 } :=
  ShelfLink.accept_eq _ _

/-- Outside RUNNING and during a restart nothing is taken (R131, case 1). -/
theorem offer_ignored {s : State} (ignored : s.startup.station ≠ .running ∨ s.startup.restarting = true) (n : Notice)
    (carried : List Nat) : s.offer n carried = s := by
  refine if_neg fun ⟨running, steady⟩ => ?_
  rcases ignored with other | restarting
  · exact other running
  · exact Bool.false_ne_true (steady.symm.trans restarting)

theorem offer_link {s : State} (running : s.startup.station = .running) (steady : s.startup.restarting = false)
    (n : Notice) (carried : List Nat) :
    (s.offer n carried).link = (s.link.taking n carried).settle s.link.headUid := by
  unfold State.offer
  rw [if_pos ⟨running, steady⟩]
  rfl

/-- An offer touches the queue, the transmitter with its quiet count, the drops counted and the number of the next
notice, and nothing else of the line. -/
theorem offer_link_eq (s : State) (n : Notice) (carried : List Nat) : (s.offer n carried).link = { s.link with
    queue := (s.offer n carried).link.queue, transmitter := (s.offer n carried).link.transmitter
    quietCount := (s.offer n carried).link.quietCount, noticeDrops := (s.offer n carried).link.noticeDrops
    nextUid := (s.offer n carried).link.nextUid } := by
  unfold State.offer
  split
  · change (s.link.taking n carried).settle s.link.headUid = { s.link with
      queue := ((s.link.taking n carried).settle s.link.headUid).queue
      transmitter := ((s.link.taking n carried).settle s.link.headUid).transmitter
      quietCount := ((s.link.taking n carried).settle s.link.headUid).quietCount
      noticeDrops := ((s.link.taking n carried).settle s.link.headUid).noticeDrops
      nextUid := ((s.link.taking n carried).settle s.link.headUid).nextUid }
    rw [ShelfLink.settle_eq, ShelfLink.taking_eq]
  · rfl

section Running

variable {s : State} (running : s.startup.station = .running) (steady : s.startup.restarting = false) (n : Notice)
  (carried : List Nat)

include running steady

theorem offer_queue : (s.offer n carried).link.queue = (s.link.taking n carried).queue :=
  (congrArg ShelfLink.queue (offer_link running steady n carried)).trans (ShelfLink.settle_queue _ _)

theorem offer_noticeDrops : (s.offer n carried).link.noticeDrops = (s.link.taking n carried).noticeDrops :=
  (congrArg ShelfLink.noticeDrops (offer_link running steady n carried)).trans (ShelfLink.settle_noticeDrops _ _)

/-- What an offer does to the transmitter (R127, R128). -/
theorem offer_transmitter :
    let t := s.offer n carried
    (s.link.transmitter = .committed → t.link.transmitter = .committed ∧ t.link.quietCount = s.link.quietCount) ∧
    (s.link.transmitter = .idle ∨ s.link.transmitter = .waiting →
      t.link.transmitter = (if t.link.queue.isEmpty then .idle else .waiting) ∧
        t.link.quietCount = s.link.quietCount) ∧
    (s.link.transmitter = .contending →
      (t.link.queue.head?.map (fun q => q.uid) = s.link.queue.head?.map (fun q => q.uid) →
        t.link.transmitter = .contending) ∧
      (t.link.queue.head?.map (fun q => q.uid) ≠ s.link.queue.head?.map (fun q => q.uid) →
        t.link.transmitter = (if t.link.queue.isEmpty then .idle else .waiting) ∧ t.link.quietCount = 0)) := by
  intro t
  have queue : t.link.queue = (s.link.taking n carried).queue := offer_queue running steady n carried
  have head : t.link.headUid = (s.link.taking n carried).headUid :=
    congrArg (fun l : List QueuedNotice => l.head?.map QueuedNotice.uid) queue
  have link : t.link = (s.link.taking n carried).settle s.link.headUid := offer_link running steady n carried
  have transmitter : (s.link.taking n carried).transmitter = s.link.transmitter := by rw [ShelfLink.taking_eq]
  have quiet : (s.link.taking n carried).quietCount = s.link.quietCount := by rw [ShelfLink.taking_eq]
  refine ⟨fun committed => ?_, fun resting => ?_, fun contending => ⟨fun same => ?_, fun other => ?_⟩⟩
  · rw [link, ShelfLink.settle_committed (transmitter.trans committed)]
    exact ⟨transmitter.trans committed, quiet⟩
  · rw [queue, link, ShelfLink.settle_resting (transmitter.symm ▸ resting)]
    exact ⟨rfl, quiet⟩
  · have same : (s.link.taking n carried).headUid = s.link.headUid := head.symm.trans same
    rw [link, ShelfLink.settle_contending (transmitter.trans contending) same]
    exact transmitter.trans contending
  · have other : (s.link.taking n carried).headUid ≠ s.link.headUid := fun same => other (head.trans same)
    rw [queue, link, ShelfLink.settle_broken (transmitter.trans contending) other]
    exact ⟨rfl, rfl⟩

end Running

/-- Settles O54: the queue case by case, then the transmitter. -/
theorem queueOffers : Obligations.QueueOffers := by
  refine ⟨fun m => by cases m <;> exact ⟨rfl, rfl⟩, fun s n carried => ?_⟩
  intro t queued placedIn statusQueued
  refine ⟨fun ignored => offer_ignored ignored n carried, fun running steady => ?_⟩
  have queue : t.link.queue = (s.link.taking n carried).queue := offer_queue running steady n carried
  have drops : t.link.noticeDrops = (s.link.taking n carried).noticeDrops := offer_noticeDrops running steady n carried
  obtain ⟨committed, resting, contending⟩ := offer_transmitter running steady n carried
  let l : ShelfLink := { s.link with nextUid := s.link.nextUid + 1 }
  refine ⟨fun ahead y behind status parts queuedStatus others => ?replaced, fun other room => ?placed,
    fun event inQueue full => ?evicted, fun noStatus full => ?dropped, committed, resting, contending,
    offer_eq_setLink s n carried⟩
  case replaced =>
    have taken : s.link.taking n carried = l.replaceStatus (queued 0) := ShelfLink.accept_replaces (l := l) status
      ⟨y, parts ▸ List.mem_append_right _ (List.mem_cons_self ..), queuedStatus⟩
    rw [queue, drops, taken]
    exact ⟨ShelfLink.replaceStatus_queue (l := l) parts queuedStatus others, rfl⟩
  case placed =>
    have taken : s.link.taking n carried = l.place (queued 0) := ShelfLink.accept_places (l := l) other room
    simp only [placedIn]
    rw [queue, drops, taken]
    exact ⟨l.place_queue (queued 0), rfl⟩
  case evicted =>
    have taken : s.link.taking n carried =
        ({ l with queue := l.queue.filter (fun y => !y.notice.isStatus) }).place (queued 0) :=
      ShelfLink.accept_evicts (l := l) event inQueue full
    simp only [placedIn]
    rw [queue, drops, taken]
    exact ⟨ShelfLink.place_queue { l with queue := l.queue.filter (fun y => !y.notice.isStatus) } (queued 0), rfl⟩
  case dropped =>
    have taken : s.link.taking n carried = { l with noticeDrops := addCount l.noticeDrops 1 } :=
      ShelfLink.accept_drops (l := l) noStatus full
    rw [queue, drops, taken]
    exact ⟨rfl, rfl⟩

end Sys2Proof.Machine
end

section
/-! PROOF. STATUS notices composed and the Shelf Link Controller's timers (R132 to R134, R139 to R141), the end of LISTENING
(R139, R190) and the withdrawal of a restart (R138, R192). Settles O55, O13 and O14. -/

namespace Sys2Proof.Machine

/-! ### A STATUS composed (R132, R134) -/

theorem commonCount_eq (s : State) :
    s.commonCount = (s.peers.table.filter (fun e => s.isCompanion e && e.relation.isCommon)).length := by
  unfold State.commonCount State.companions
  rw [List.filter_filter]
  simp only [Bool.and_comm]

/-- The head of R132, field by field. -/
theorem statusHead_eq (s : State) : s.statusHead = ⟨s.config.serviceId, s.config.regionGroup, s.time.source,
    decide (20000 ≤ s.time.remaining.natAbs), s.reception.state, BitVec.ofNat 8 s.reception.effective, s.link.period,
    s.segments.current.segmentId, s.segments.current.cls, s.segments.current.scope,
    BitVec.ofNat 8 (s.peers.table.filter (fun e => s.isCompanion e && e.relation.isCommon)).length,
    BitVec.ofNat 8 (s.log.records.filter (fun r => r.isOpen)).length⟩ := by
  rw [← commonCount_eq]
  rfl

theorem statusTail_none {s : State} (empty : s.link.unsent = []) : s.statusTail = none := if_pos (by rw [empty]; rfl)

/-- The tail carries the unsent list, cut to its newest two under heavy load (R134). -/
theorem statusTail_some {s : State} (unsent : s.link.unsent ≠ []) : ∃ tail, s.statusTail = some tail ∧
    tail.shortTerm = s.loudness.shortTerm ∧ tail.shown = s.captions.pairShown ∧ tail.digest = s.captions.pairDigest ∧
    (s.link.occupancy.sum < 60000 → tail.signatures = s.link.unsent.map (fun e => e.signature)) ∧
    (60000 ≤ s.link.occupancy.sum →
      tail.signatures = (s.link.unsent.map (fun e => e.signature)).drop (s.link.unsent.length - 2)) := by
  have listed : ¬ s.link.unsent.isEmpty = true := mt List.isEmpty_iff.mp unsent
  refine ⟨_, if_neg listed, rfl, rfl, rfl, fun light => ?_, fun heavy => ?_⟩
  · have all : s.link.carriedNow = s.link.unsent := if_neg (Nat.not_le.mpr light)
    exact congrArg (List.map UnsentEntry.signature) all
  · have two : s.link.carriedNow = newest 2 s.link.unsent := if_pos heavy
    exact (congrArg (List.map UnsentEntry.signature) two).trans List.map_drop

/-! ### A STATUS offered (R131, R132) -/

theorem taking_empty {l : ShelfLink} (empty : l.queue = []) (n : Notice) (carried : List Nat) :
    (l.taking n carried).queue = [⟨l.nextUid, n, 0, carried⟩] := by
  have none : ¬ StatusQueued l.queue := fun ⟨y, member, _⟩ => List.not_mem_nil (empty ▸ member)
  have room : l.queue.length < 8 := by rw [empty]; decide
  have placed : l.taking n carried = ({ l with nextUid := l.nextUid + 1 }).place ⟨l.nextUid, n, 0, carried⟩ :=
    ShelfLink.accept_places (.inr none) room
  rw [placed, ShelfLink.place, empty]
  rfl

/-- A STATUS offered stands in the queue where there is room for it, or one that it replaces (R131). -/
theorem offer_status {s : State} (running : s.startup.station = .running) (steady : s.startup.restarting = false)
    (taken : s.link.queue.length < 8 ∨ StatusQueued s.link.queue) (head : StatusHead) (tail : Option StatusTail)
    (carried : List Nat) : ∃ q ∈ (s.offer (.status head tail) carried).link.queue,
      q.notice = .status head tail ∧ q.carried = carried := by
  let l : ShelfLink := { s.link with nextUid := s.link.nextUid + 1 }
  let q : QueuedNotice := ⟨s.link.nextUid, .status head tail, 0, carried⟩
  rw [offer_queue running steady]
  by_cases queued : StatusQueued s.link.queue
  · have replaced : s.link.taking (.status head tail) carried = l.replaceStatus q :=
      ShelfLink.accept_replaces (l := l) (q := q) rfl queued
    obtain ⟨y, member, status⟩ := queued
    rw [replaced]
    refine ⟨_, List.mem_map_of_mem (l := l.queue) member, ?_⟩
    rw [if_pos status]
    exact ⟨rfl, rfl⟩
  · have placed : s.link.taking (.status head tail) carried = l.place q :=
      ShelfLink.accept_places (l := l) (q := q) (.inr queued) (taken.resolve_right queued)
    rw [placed]
    exact ⟨q, (placeBefore_perm _ _ _).mem_iff.mpr (List.mem_cons_self ..), rfl, rfl⟩

/-- A STATUS is offered in one state and stands in the queue of the other, composed with the period class there. -/
def State.StatusOffered (s t : State) : Prop :=
  s.startup.restarting = false → (s.link.queue.length < 8 ∨ StatusQueued s.link.queue) →
    ∃ q ∈ t.link.queue, q.notice = .status { s.statusHead with period := t.link.period } s.statusTail ∧
      q.carried = s.link.carriedNow.map (fun e => e.uid)

/-- A STATUS offered, and the status timer armed (R139, R141). -/
def State.statusArmed (s : State) (next : Nat) : State :=
  s.offerStatus.setLink { s.offerStatus.link with statusNext := some next }

theorem statusArmed_eq (s : State) (next : Nat) :
    s.statusArmed next = s.setLink (s.statusArmed next).link := by
  unfold State.statusArmed State.offerStatus
  rw [offer_eq_setLink]
  rfl

theorem statusArmed_link (s : State) (next : Nat) : (s.statusArmed next).link.period = s.link.period ∧
    (s.statusArmed next).link.downshift = s.link.downshift ∧ (s.statusArmed next).link.statusNext = some next := by
  have offered := offer_link_eq s (.status s.statusHead s.statusTail) (s.link.carriedNow.map (fun e => e.uid))
  exact ⟨(congrArg ShelfLink.period offered :), (congrArg ShelfLink.downshift offered :), rfl⟩

theorem statusArmed_offers {s : State} (running : s.startup.station = .running) (next : Nat) :
    s.StatusOffered (s.statusArmed next) := by
  intro steady taken
  rw [(statusArmed_link s next).1]
  exact offer_status running steady taken s.statusHead s.statusTail _

/-! ### The timers (R133, R139 to R141) -/

/-- A deadline of RUNNING is not due. -/
theorem not_due {s : State} {deadline : Option Nat}
    (early : s.startup.station ≠ .running ∨ deadline = none ∨ ∃ d, deadline = some d ∧ s.now < d) :
    ¬ (s.startup.station = .running ∧ reached deadline s.now = true) := by
  rintro ⟨running, due⟩
  rcases early with other | rfl | ⟨d, rfl, later⟩
  · exact other running
  · exact Bool.false_ne_true due
  · exact Nat.not_le.mpr later (of_decide_eq_true due)

theorem exec_statusTimerExpiry {s : State} {d : Nat} (running : s.startup.station = .running)
    (deadline : s.link.statusNext = some d) (due : d ≤ s.now) :
    exec .statusTimerExpiry s = .next (s.statusArmed (s.now + s.link.period.period)) :=
  congrArg Host.Outcome.next (if_pos ⟨running, deadline ▸ reached_some due⟩)

theorem exec_statusTimerExpiry_early {s : State} (early : s.startup.station ≠ .running ∨ s.link.statusNext = none ∨
    ∃ d, s.link.statusNext = some d ∧ s.now < d) : exec .statusTimerExpiry s = .next s :=
  congrArg Host.Outcome.next (if_neg (not_due early))

/-- The period class moves down one step (R140). -/
theorem exec_downshiftDeadline {s : State} {d : Nat} (running : s.startup.station = .running)
    (deadline : s.link.downshift = some d) (due : d ≤ s.now) :
    (s.link.period = .alert → exec .downshiftDeadline s = .next (s.setLink { s.link with
      period := .steady, downshift := some (s.now + s.startup.config.quietDelay * 1000000) })) ∧
    (s.link.period = .steady → exec .downshiftDeadline s
      = .next (s.setLink { s.link with period := .quiet, downshift := none })) := by
  have moved : exec .downshiftDeadline s = .next (match s.link.period with
      | .alert => s.setLink { s.link with period := .steady, downshift := some (s.now + s.config.quietDelay * second) }
      | .steady | .quiet => s.setLink { s.link with period := .quiet, downshift := none }) :=
    congrArg Host.Outcome.next (if_pos ⟨running, deadline ▸ reached_some due⟩)
  rw [moved]
  exact ⟨fun alert => by rw [alert]; rfl, fun steady => by rw [steady]⟩

theorem exec_downshiftDeadline_early {s : State} (early : s.startup.station ≠ .running ∨ s.link.downshift = none ∨
    ∃ d, s.link.downshift = some d ∧ s.now < d) : exec .downshiftDeadline s = .next s :=
  congrArg Host.Outcome.next (if_neg (not_due early))

/-- The state in class ALERT with its downshift deadline (R139, R141). -/
def State.alerted (s : State) : State :=
  s.setLink { s.link with period := .alert, downshift := some (s.now + s.startup.config.steadyDelay * 1000000) }

theorem upshift_idle {s : State} (other : s.startup.station ≠ .running) : s.upshift = s := if_neg other

theorem upshift_alert {s : State} (running : s.startup.station = .running) (alert : s.link.period = .alert) : s.upshift
    = s.setLink { s.link with downshift := some (s.now + s.startup.config.steadyDelay * 1000000) } :=
  (if_pos running).trans (if_pos alert)

/-- From a slower class an upshift event goes to ALERT with a STATUS at once (R141). -/
theorem upshift_slower {s : State} (running : s.startup.station = .running) (slower : s.link.period ≠ .alert) :
    s.upshift = s.alerted.statusArmed (s.now + 1000000) := (if_pos running).trans (if_neg slower)

/-- A STATUS of the state in class ALERT differs in its period class alone. -/
theorem alerted_offers {s : State} (running : s.startup.station = .running) (next : Nat) :
    s.StatusOffered (s.alerted.statusArmed next) := by
  have offered := statusArmed_offers (s := s.alerted) running next
  rw [State.StatusOffered, (statusArmed_link _ _).1] at offered ⊢
  exact offered

theorem exec_occupancyBucketEnd {s : State} (ended : 10000 ≤ s.link.bucketTicks) : exec .occupancyBucketEnd s
    = .next (s.setLink { s.link with
      occupancy := 0 :: s.link.occupancy.take 9, bucketTicks := s.link.bucketTicks - 10000 }) := if_pos ended

/-- Settles O55: each timer by whether it is due, and the STATUS it offers (`statusArmed_offers`). -/
theorem linkTimers : Obligations.LinkTimers := by
  intro s offered
  refine ⟨statusHead_eq s, fun d running deadline due => ?status, exec_statusTimerExpiry_early, statusTail_none,
    statusTail_some, fun d => exec_downshiftDeadline, exec_downshiftDeadline_early, upshift_idle, upshift_alert,
    fun running slower => ?upshift, exec_occupancyBucketEnd, fun short => if_neg (Nat.not_le.mpr short)⟩
  case status =>
    obtain ⟨period, downshift, next⟩ := statusArmed_link s (s.now + s.link.period.period)
    refine ⟨_, exec_statusTimerExpiry running deadline due, period, downshift, next.trans ?_,
      statusArmed_offers running _, statusArmed_eq s _⟩
    cases s.link.period <;> rfl
  case upshift =>
    rw [upshift_slower running slower]
    obtain ⟨period, downshift, next⟩ := statusArmed_link s.alerted (s.now + 1000000)
    exact ⟨period, downshift, next, alerted_offers running _, statusArmed_eq s.alerted _⟩

/-! ### The end of LISTENING (R139, R190) -/

/-- The state just in RUNNING, before its first STATUS (R139, R190). -/
def State.started (s : State) : State := (s.setStartup { s.startup with station := .running }).alerted

theorem listeningEnd_due {s : State} {since : Nat} (listening : s.startup.station = .listening)
    (entered : s.startup.listeningSince = some since) (due : since + 2 * second ≤ s.now) : exec .listeningEnd s =
      .next (if s.startup.listenOnlyMark then s.enterListenOnly else s.started.statusArmed (s.now + second)) :=
  congrArg Host.Outcome.next (if_pos ⟨listening, entered ▸ reached_some due⟩)

theorem enterListenOnly_flushes {s : State} (steady : s.startup.restarting = false) : s.enterListenOnly =
    (s.setStartup { s.startup with station := .listenOnly }).setLink { s.link with
      queue := [], transmitter := .idle, committed := none, statusNext := none, downshift := none } :=
  if_neg (by rw [steady]; exact Bool.false_ne_true)

/-- Settles O13: LISTENING ends in the first STATUS of RUNNING, or by its mark in LISTEN_ONLY. -/
theorem listeningEnd : Obligations.ListeningEnd := by
  intro since s head listening entered due steady empty
  rw [listeningEnd_due listening entered due]
  refine ⟨fun unmarked => ?_, fun marked => by rw [marked, if_pos rfl, enterListenOnly_flushes steady]⟩
  rw [unmarked, if_neg Bool.false_ne_true]
  obtain ⟨period, downshift, next⟩ := statusArmed_link s.started (s.now + second)
  have queue : (s.started.statusArmed (s.now + second)).link.queue =
      [⟨s.link.nextUid, .status s.started.statusHead s.started.statusTail, 0, s.link.carriedNow.map (fun e => e.uid)⟩] :=
    (offer_queue (s := s.started) rfl steady _ _).trans (taking_empty (l := s.started.link) empty _ _)
  have shape := statusArmed_eq s.started (s.now + second)
  have startup : (s.started.statusArmed (s.now + second)).startup = { s.startup with station := .running } :=
    congrArg State.startup shape
  refine ⟨_, _, rfl, startup, period, downshift, next, queue, ?_, rfl, shape.trans (by rw [startup]; rfl)⟩
  rw [statusHead_eq]
  rfl

/-! ### RESTART (R138, R192) -/

theorem live_cases {s : State} (live : s.live = true) :
    s.startup.station = .listening ∨ s.startup.station = .running ∨ s.startup.station = .listenOnly := by
  unfold State.live at live
  cases station : s.startup.station <;> simp_all

theorem exec_restart_busy {s : State} (idle : s.evidence.txn = none) (busy : s.startup.station = .loading ∨
    s.startup.station = .checking ∨ (s.live = true ∧ s.startup.restarting = true)) :
    exec .restart s = .next (s.answer [0x01] .nothing) := by
  change execRestart s = _
  unfold execRestart
  rw [request_served idle]
  rcases busy with loading | checking | ⟨live, restarting⟩
  · rw [loading]
  · rw [checking]
  · rw [restarting]
    rcases live_cases live with station | station | station <;> rw [station] <;> rfl

theorem exec_restart_accepted {s : State} (idle : s.evidence.txn = none) (live : s.live = true)
    (steady : s.startup.restarting = false) : exec .restart s = .next (s.acceptRestart.answer [0x00] .nothing) := by
  change execRestart s = _
  unfold execRestart
  rw [request_served idle, steady]
  rcases live_cases live with station | station | station <;> rw [station] <;> rfl

/-- The line with a WITHDRAW as its only notice (R138). -/
def ShelfLink.withdrawing (l : ShelfLink) : ShelfLink :=
  ({ l with queue := [⟨l.nextUid, .withdraw, 0, []⟩], nextUid := l.nextUid + 1 }).settle l.headUid

/-- The line with its queue emptied (R138). -/
def ShelfLink.emptied (l : ShelfLink) : ShelfLink := ({ l with queue := [] }).settle l.headUid

theorem acceptRestart_running {s : State} (running : s.startup.station = .running) : s.acceptRestart =
    (s.setStartup { s.startup with restarting := true, withdrawReported := false }).setLink s.link.withdrawing := by
  unfold State.acceptRestart State.beginWithdrawal
  rw [State.setStartup_startup]
  dsimp only
  rw [running]
  rfl

theorem acceptRestart_other {s : State} (other : s.startup.station ≠ .running) : s.acceptRestart =
    (s.setStartup { s.startup with restarting := true, withdrawReported := true }).setLink s.link.emptied := by
  unfold State.acceptRestart State.beginWithdrawal
  rw [State.setStartup_startup]
  dsimp only
  cases station : s.startup.station with
  | running => exact absurd station other
  | loading | checking | listening | listenOnly | fault => rfl

/-- Settles O14: RESTART is busy or accepted, and withdraws where the station was RUNNING. -/
theorem restartAnswers : Obligations.RestartAnswers := by
  refine fun s idle => ⟨exec_restart_busy idle, fun live steady => ⟨_, exec_restart_accepted idle live steady, ?_⟩⟩
  by_cases running : s.startup.station = .running
  · rw [acceptRestart_running running, if_pos running, decide_eq_false (not_not_intro running)]
    refine ⟨rfl, rfl, ?_, ShelfLink.settle_noticeDrops _ _, rfl⟩
    exact congrArg (List.map QueuedNotice.notice) (ShelfLink.settle_queue _ _)
  · rw [acceptRestart_other running, if_neg running, decide_eq_true running]
    refine ⟨rfl, rfl, ?_, ShelfLink.settle_noticeDrops _ _, rfl⟩
    exact congrArg (List.map QueuedNotice.notice) (ShelfLink.settle_queue _ _)

end Sys2Proof.Machine
end

section
/-! PROOF. The bytes of a notice and of a frame, the bits on the line, and what a receiver reads from them (R122 to R124, R132,
R135 to R137). Settles O56. -/

namespace Sys2Proof.Machine

/-! ### Codes and marks read back (R132, R135, R136) -/

theorem SegClass.ofCode?_code (c : SegClass) : SegClass.ofCode? (BitVec.ofNat 8 c.code).toNat = some c := by cases c <;> rfl

theorem Scope.ofCode?_code (c : Scope) : Scope.ofCode? (BitVec.ofNat 8 c.code).toNat = some c := by cases c <;> rfl

theorem Reception.ofCode?_code (c : Reception) : Reception.ofCode? (BitVec.ofNat 8 c.code).toNat = some c := by
  cases c <;> rfl

theorem PeriodClass.ofCode?_code (c : PeriodClass) : PeriodClass.ofCode? (BitVec.ofNat 8 c.code).toNat = some c := by
  cases c <;> rfl

theorem VerdictKind.ofCode?_code (c : VerdictKind) : VerdictKind.ofCode? (BitVec.ofNat 8 c.code).toNat = some c := by
  cases c <;> rfl

theorem Category.ofSharedCode?_code {c : Category} (shared : c.shared = true) :
    Category.ofSharedCode? (BitVec.ofNat 8 c.code).toNat = some c := by
  revert shared
  cases c <;> decide

theorem markBit_getLsbD (b : Bool) : (BitVec.ofNat 8 (markBit 0 b)).getLsbD 0 = b := by cases b <;> rfl

/-- The flags byte of a BREACH notice (R135). -/
def breachFlagsByte (ended figured impaired proxy : Bool) : Byte :=
  BitVec.ofNat 8 (markBit 0 ended + markBit 1 figured + markBit 2 impaired + markBit 3 proxy)

theorem breachFlagsByte_toNat : ∀ ended figured impaired proxy : Bool, (breachFlagsByte ended figured impaired proxy).toNat =
    (if ended then 1 else 0) + (if figured then 2 else 0) + (if impaired then 4 else 0) + (if proxy then 8 else 0) := by
  decide

theorem breachFlagsByte_bits : ∀ ended figured impaired proxy : Bool,
    let b := breachFlagsByte ended figured impaired proxy
    b.getLsbD 0 = ended ∧ b.getLsbD 1 = figured ∧ b.getLsbD 2 = impaired ∧ b.getLsbD 3 = proxy := by decide

/-! ### Layouts -/

/-- The whole of a layout is as long as its widths together. -/
theorem length_of_fields {fields : List (List Byte)} {widths : List Nat} (sized : fields.map List.length = widths) :
    fields.flatten.length = widths.sum := by rw [List.length_flatten, sized]

/-- The 15 bytes of a STATUS head (R132). -/
def statusHeadFields (h : StatusHead) : List (List Byte) :=
  [beBytes 2 h.serviceId.toNat, [h.regionGroup], [qualityByte h.timeClass h.correcting], [BitVec.ofNat 8 h.reception.code],
    [h.quality], [BitVec.ofNat 8 h.period.code], beBytes 4 h.segmentId.toNat, [BitVec.ofNat 8 h.cls.code],
    [BitVec.ofNat 8 h.scope.code], [h.commonCount], [h.openBreaches]]

/-- The fields of a STATUS tail (R132); the signatures are one field. -/
def statusTailFields : Option StatusTail → List (List Byte)
  | none => []
  | some t => [loudnessBytes t.shortTerm, [BitVec.ofNat 8 (markBit 0 t.shown)], beBytes 2 t.digest.toNat,
      [BitVec.ofNat 8 t.signatures.length], (t.signatures.map signatureBytes).flatten]

/-- The fields of a BREACH notice (R135). -/
def breachFields (b : BreachNotice) : List (List Byte) :=
  [beBytes 2 b.number, [BitVec.ofNat 8 b.category.code],
    [breachFlagsByte b.endStamp.isSome b.figure.isSome b.flags.impaired b.flags.proxy], beBytes 4 b.segmentId.toNat,
    [BitVec.ofNat 8 b.scope.code], stampBytes b.startStamp, stampBytes? b.endStamp, signedBytes 2 (b.figure.getD 0)]

/-- The fields of a VERDICT notice (R136). -/
def verdictNoticeFields (v : VerdictNotice) : List (List Byte) :=
  [[BitVec.ofNat 8 v.kind.code], beBytes 4 v.id.toNat, [BitVec.ofNat 8 v.cls.code], [BitVec.ofNat 8 v.scope.code],
    stampBytes v.startStamp, stampBytes v.endStamp, loudnessBytes v.figures.integrated,
    loudnessBytes v.figures.maxMomentary, loudnessBytes v.figures.maxShortTerm, signedBytes 2 v.figures.maxPeak,
    beBytes 4 v.figures.offered, beBytes 2 (v.coverage.getD 65535), [1], [BitVec.ofNat 8 (markBit 0 v.impaired)]]

/-- The fields of a notice's payload, in order. -/
def Notice.fields : Notice → List (List Byte)
  | .status h tail => statusHeadFields h ++ statusTailFields tail
  | .breach b => breachFields b
  | .verdict v => verdictNoticeFields v
  | .withdraw => []

/-- The widths of a STATUS head's fields (R132). -/
def statusHeadWidths : List Nat := [2, 1, 1, 1, 1, 1, 4, 1, 1, 1, 1]

/-- The widths of a STATUS tail's fields (R132). -/
def statusTailWidths : Option StatusTail → List Nat
  | none => []
  | some t => [2, 1, 2, 1, 8 * t.signatures.length]

/-- The widths of a notice's fields, in order. -/
def Notice.widths : Notice → List Nat
  | .status _ tail => statusHeadWidths ++ statusTailWidths tail
  | .breach _ => [2, 1, 1, 4, 1, 9, 9, 2]
  | .verdict _ => [1, 4, 1, 1, 9, 9, 2, 2, 2, 2, 4, 2, 1, 1]
  | .withdraw => []

theorem payload_eq_fields (n : Notice) : n.payload = n.fields.flatten := by
  cases n with
  | status h tail =>
    cases tail with
    | none => simp [Notice.payload, Notice.fields, statusHeadBytes, statusHeadFields, statusTailFields]
    | some t =>
      simp [Notice.payload, Notice.fields, statusHeadBytes, statusHeadFields, statusTailBytes, statusTailFields]
  | breach b => simp [Notice.payload, Notice.fields, breachBytes, breachFields, breachFlagsByte]
  | verdict v => simp [Notice.payload, Notice.fields, verdictNoticeBytes, verdictBodyBytes, verdictNoticeFields]
  | withdraw => rfl

@[simp] theorem signatureBytes_length (g : Signature) : (signatureBytes g).length = 8 := by simp [signatureBytes]

theorem signaturesBytes_sized (l : List Signature) :
    (l.map signatureBytes).map List.length = List.replicate l.length 8 := by
  rw [List.map_map, List.eq_replicate_iff]
  simp

theorem signaturesBytes_length (l : List Signature) : (l.map signatureBytes).flatten.length = 8 * l.length := by
  rw [length_of_fields (signaturesBytes_sized l), List.sum_replicate, smul_eq_mul, Nat.mul_comm]

theorem fields_sized (n : Notice) : n.fields.map List.length = n.widths := by
  cases n with
  | status h tail =>
    cases tail with
    | none => simp [Notice.fields, Notice.widths, statusHeadFields, statusTailFields, statusHeadWidths, statusTailWidths]
    | some t =>
      have signatures := signaturesBytes_length t.signatures
      simp [Notice.fields, Notice.widths, statusHeadFields, statusTailFields, statusHeadWidths, statusTailWidths,
        signatures, -List.length_flatten]
  | breach b => simp [Notice.fields, Notice.widths, breachFields, stampBytes?_length]
  | verdict v => simp [Notice.fields, Notice.widths, verdictNoticeFields]
  | withdraw => rfl

theorem payload_length (n : Notice) : n.payload.length = n.widths.sum := by
  rw [payload_eq_fields, length_of_fields (fields_sized n)]

/-! ### What stands at a place of a payload -/

theorem payload_window {n : Notice} {i at_ k : Nat} {field : List Byte} (is : n.fields[i]? = some field)
    (width : n.widths[i]? = some k) (place : (n.widths.take i).sum = at_) : (n.payload.drop at_).take k = field := by
  rw [payload_eq_fields]
  exact window_of_fields (fields_sized n) is width place

/-- A field of one byte. -/
theorem byteAt_of_field {bytes : List Byte} {at_ : Nat} {b : Byte} (window : (bytes.drop at_).take 1 = [b]) :
    byteAt bytes at_ = b := byteAt_of_window window (j := 0) Nat.one_pos

/-- A byte that holds a code, as a number. -/
theorem natAt_of_byte {bytes : List Byte} {at_ : Nat} {b : Byte} (window : (bytes.drop at_).take 1 = [b]) :
    natAt bytes at_ 1 = b.toNat := (congrArg beNat window).trans (beNat_single b)

theorem natAt_of_number {bytes : List Byte} {at_ k x : Nat} (window : (bytes.drop at_).take k = beBytes k x)
    (fits : x < 256 ^ k) : natAt bytes at_ k = x := (congrArg beNat window).trans (beNat_beBytes_of_lt fits)

/-- The fields of a STATUS head (R132). -/
theorem status_window {h : StatusHead} {i at_ k : Nat} {field : List Byte} (is : (statusHeadFields h)[i]? = some field)
    (width : statusHeadWidths[i]? = some k) (place : (statusHeadWidths.take i).sum = at_) (tail : Option StatusTail) :
    ((Notice.status h tail).payload.drop at_).take k = field := by
  obtain ⟨inside, -⟩ := List.getElem?_eq_some_iff.mp is
  obtain ⟨narrow, -⟩ := List.getElem?_eq_some_iff.mp width
  refine payload_window (n := .status h tail) (i := i) ((List.getElem?_append_left inside).trans is)
    ((List.getElem?_append_left narrow).trans width) ?_
  exact (congrArg List.sum (List.take_append_of_le_length narrow.le)).trans place

/-- The fields of a STATUS tail, behind the head's 15 bytes (R132). -/
theorem status_tail_window {h : StatusHead} {t : StatusTail} {i at_ k : Nat} {field : List Byte}
    (is : (statusTailFields (some t))[i]? = some field) (width : (statusTailWidths (some t))[i]? = some k)
    (place : 15 + ((statusTailWidths (some t)).take i).sum = at_) :
    ((Notice.status h (some t)).payload.drop at_).take k = field := by
  refine payload_window (n := .status h (some t)) (i := 11 + i) ?_ ?_ ?_
  · rw [← is, Nat.add_comm]
    rfl
  · rw [← width, Nat.add_comm]
    rfl
  · have front : (statusHeadWidths ++ statusTailWidths (some t)).take (11 + i) =
        statusHeadWidths ++ (statusTailWidths (some t)).take i := List.take_length_add_append (l₁ := statusHeadWidths) i
    rw [Notice.widths, front, List.sum_append]
    exact place

/-- A number in two's complement, read from the bytes it was written in. -/
theorem intAt_of_signed {bytes : List Byte} {at_ k : Nat} {x : Int} (wide : 0 < k)
    (window : (bytes.drop at_).take k = signedBytes k x) (low : -2 ^ (8 * k - 1) ≤ x) (high : x < 2 ^ (8 * k - 1)) :
    intAt bytes at_ k = x := by
  unfold intAt natAt
  rw [window]
  exact signedOf_signedBytes wide low high

theorem intAt_of_figure {bytes : List Byte} {at_ : Nat} {x : Int} (window : (bytes.drop at_).take 2 = signedBytes 2 x)
    (range : -32768 ≤ x ∧ x ≤ 32767) : intAt bytes at_ 2 = x :=
  intAt_of_signed (by decide) window range.1 (Int.lt_of_le_sub_one range.2)

section Loudness

variable {bytes : List Byte} {at_ : Nat} {x : Option Int} (window : (bytes.drop at_).take 2 = loudnessBytes x)
  (fits : loudnessFits x)

include window fits

theorem intAt_of_fitting : intAt bytes at_ 2 = x.getD (-32768) := by
  obtain ⟨whenNone, whenSome⟩ := intAt_of_loudness window
  cases x with
  | none => exact whenNone rfl
  | some i =>
    obtain ⟨low, high⟩ := fits i rfl
    exact whenSome i rfl (by omega) high

theorem readLoudness?_of_fitting : readLoudness? bytes at_ = x := by
  unfold readLoudness?
  rw [intAt_of_fitting window fits]
  cases x with
  | none => rfl
  | some i =>
    obtain ⟨low, -⟩ := fits i rfl
    exact if_neg (by rw [Option.getD_some]; omega)

end Loudness

/-! ### Signatures (R132) -/

/-- The levels that a signature's byte can hold (R132). -/
def Signature.Fits (g : Signature) : Prop := -128 ≤ g.level ∧ g.level ≤ 127

/-- The fields of a signature (R132). -/
def signatureFields (g : Signature) : List (List Byte) :=
  [beBytes 4 g.second.toNat, beBytes 2 g.trend.toNat, signedBytes 1 g.level, [BitVec.ofNat 8 (markBit 0 g.impaired)]]

theorem signatureBytes_flatten (g : Signature) : signatureBytes g = (signatureFields g).flatten := by
  simp [signatureBytes, signatureFields]

theorem signatureFields_sized (g : Signature) : (signatureFields g).map List.length = [4, 2, 1, 1] := by
  simp [signatureFields]

section SignatureFields

variable {bytes : List Byte} {at_ : Nat} {g : Signature} (window : (bytes.drop at_).take 8 = signatureBytes g)

include window

theorem signature_part {i j k : Nat} {field : List Byte} (is : (signatureFields g)[i]? = some field)
    (width : [4, 2, 1, 1][i]? = some k) (place : ([4, 2, 1, 1].take i).sum = j) (inside : j + k ≤ 8) :
    (bytes.drop (at_ + j)).take k = field := by
  rw [← window_of_fields (signatureFields_sized g) is width place, ← signatureBytes_flatten, ← window, List.drop_take,
    List.take_take, List.drop_drop, Nat.min_eq_left (by omega)]

/-- The fields of a signature at their places. -/
theorem signature_fields (fits : g.Fits) : natAt bytes at_ 4 = g.second.toNat ∧
    natAt bytes (at_ + 4) 2 = g.trend.toNat ∧ intAt bytes (at_ + 6) 1 = g.level ∧
    byteAt bytes (at_ + 7) = BitVec.ofNat 8 (markBit 0 g.impaired) :=
  ⟨natAt_of_number (signature_part window (i := 0) rfl rfl rfl (by decide)) g.second.isLt,
    natAt_of_number (signature_part window (i := 1) rfl rfl rfl (by decide))
      (Nat.lt_trans g.trend.isLt (by decide)),
    intAt_of_signed (by decide) (signature_part window (i := 2) rfl rfl rfl (by decide)) fits.1
      (Int.lt_of_le_sub_one fits.2),
    byteAt_of_field (signature_part window (i := 3) rfl rfl rfl (by decide))⟩

end SignatureFields

theorem readSignature_signatureBytes {g : Signature} (fits : g.Fits) (rest : List Byte) :
    readSignature (signatureBytes g ++ rest) = g := by
  have window : ((signatureBytes g ++ rest).drop 0).take 8 = signatureBytes g := List.take_left' (signatureBytes_length g)
  obtain ⟨second, trend, level, impaired⟩ := signature_fields window fits
  unfold readSignature
  rw [second, trend, level, impaired, markBit_getLsbD, BitVec.ofNat_toNat, BitVec.ofNat_toNat, BitVec.setWidth_eq,
    BitVec.setWidth_eq]

theorem readSignatures_bytes (rest : List Byte) : ∀ {l : List Signature}, (∀ g ∈ l, g.Fits) →
    readSignatures l.length ((l.map signatureBytes).flatten ++ rest) = l
  | [], _ => rfl
  | g :: l, fits => by
    obtain ⟨first, others⟩ := List.forall_mem_cons.mp fits
    rw [List.map_cons, List.flatten_cons, List.append_assoc, List.length_cons, readSignatures,
      readSignature_signatureBytes first, List.drop_left' (signatureBytes_length g), readSignatures_bytes rest others]

/-- The signatures of a tail stand behind its first 21 bytes (R132). -/
theorem signatures_window (h : StatusHead) (t : StatusTail) :
    ((Notice.status h (some t)).payload.drop 21).take (8 * t.signatures.length) = (t.signatures.map signatureBytes).flatten :=
  status_tail_window (i := 4) rfl rfl rfl

/-- The bytes of a signature of a tail, by its number in the tail (R132). -/
theorem signature_window {h : StatusHead} {t : StatusTail} {i : Nat} {g : Signature} (is : t.signatures[i]? = some g) :
    ((Notice.status h (some t)).payload.drop (21 + 8 * i)).take 8 = signatureBytes g := by
  obtain ⟨inside, -⟩ := List.getElem?_eq_some_iff.mp is
  have one := window_of_fields (signaturesBytes_sized t.signatures) (i := i) (at_ := 8 * i) (n := 8)
    (field := signatureBytes g) (by rw [List.getElem?_map, is]; rfl) (by simp [inside])
    (by rw [List.take_replicate, Nat.min_eq_left inside.le, List.sum_replicate, smul_eq_mul, Nat.mul_comm])
  rw [← one, ← signatures_window, List.drop_take, List.take_take, List.drop_drop, Nat.min_eq_left (by omega)]

/-! ### The payload read back (R124, R132, R135, R136) -/

theorem ofNat_eq_of_toNat {w n : Nat} {x : BitVec w} (h : n = x.toNat) : BitVec.ofNat w n = x := by
  rw [h, BitVec.ofNat_toNat, BitVec.setWidth_eq]

theorem status_length (h : StatusHead) (t : StatusTail) :
    (Notice.status h (some t)).payload.length = 21 + 8 * t.signatures.length := by
  rw [payload_length]
  simp only [Notice.widths, statusHeadWidths, statusTailWidths, List.sum_append, List.sum_cons, List.sum_nil]
  omega

/-- The signature count of a tail that is sent (R132). -/
theorem status_count {h : StatusHead} {t : StatusTail} (most : t.signatures.length ≤ 8) :
    (byteAt (Notice.status h (some t)).payload 20).toNat = t.signatures.length := by
  rw [byteAt_of_field (status_tail_window (i := 3) (at_ := 20) rfl rfl rfl), BitVec.toNat_ofNat]
  omega

theorem statusLengthOk_sent (h : StatusHead) {tail : Option StatusTail} (sendable : (Notice.status h tail).Sendable) :
    statusLengthOk (Notice.status h tail).payload = true := by
  cases tail with
  | none => rfl
  | some t =>
    obtain ⟨-, least, most, -⟩ := sendable
    unfold statusLengthOk
    rw [status_count most, status_length]
    simp [least, most]

theorem readStatusTail_sent (h : StatusHead) {tail : Option StatusTail} (sendable : (Notice.status h tail).Sendable) :
    readStatusTail (Notice.status h tail).payload = tail := by
  cases tail with
  | none => rfl
  | some t =>
    obtain ⟨loudness, least, most, levels⟩ := sendable
    have long : ¬ (Notice.status h (some t)).payload.length = 15 := by
      rw [status_length]
      omega
    have shortTerm := readLoudness?_of_fitting
      (status_tail_window (h := h) (t := t) (i := 0) (at_ := 15) rfl rfl rfl) loudness
    have shown := byteAt_of_field (status_tail_window (h := h) (t := t) (i := 1) (at_ := 17) rfl rfl rfl)
    have digest : BitVec.ofNat 16 (natAt (Notice.status h (some t)).payload 18 2) = t.digest := ofNat_eq_of_toNat
      (natAt_of_number (status_tail_window (i := 2) rfl rfl rfl) t.digest.isLt)
    unfold readStatusTail
    rw [if_neg long, status_count most, shortTerm, shown, digest, markBit_getLsbD,
      ← List.take_append_drop (8 * t.signatures.length) ((Notice.status h (some t)).payload.drop 21), signatures_window,
      readSignatures_bytes _ levels]

theorem readStatus?_sent (h : StatusHead) {tail : Option StatusTail} (sendable : (Notice.status h tail).Sendable) :
    readStatus? (Notice.status h tail).payload = some (.status h tail) := by
  have service : BitVec.ofNat 16 (natAt (Notice.status h tail).payload 0 2) = h.serviceId := ofNat_eq_of_toNat
    (natAt_of_number (status_window (i := 0) rfl rfl rfl tail) h.serviceId.isLt)
  have segment : BitVec.ofNat 32 (natAt (Notice.status h tail).payload 7 4) = h.segmentId := ofNat_eq_of_toNat
    (natAt_of_number (status_window (i := 6) rfl rfl rfl tail) h.segmentId.isLt)
  have byte : ∀ {i at_ : Nat} {b : Byte}, (statusHeadFields h)[i]? = some [b] → statusHeadWidths[i]? = some 1 →
      (statusHeadWidths.take i).sum = at_ → byteAt (Notice.status h tail).payload at_ = b :=
    fun is width place => byteAt_of_field (status_window is width place tail)
  obtain ⟨cls, correcting⟩ := qualityByte_read h.timeClass h.correcting
  unfold readStatus?
  rw [if_pos (statusLengthOk_sent h sendable), readStatusTail_sent h sendable, service, segment,
    byte (i := 1) (at_ := 2) rfl rfl rfl, byte (i := 2) (at_ := 3) rfl rfl rfl, byte (i := 3) (at_ := 4) rfl rfl rfl,
    byte (i := 4) (at_ := 5) rfl rfl rfl, byte (i := 5) (at_ := 6) rfl rfl rfl, byte (i := 7) (at_ := 11) rfl rfl rfl,
    byte (i := 8) (at_ := 12) rfl rfl rfl, byte (i := 9) (at_ := 13) rfl rfl rfl, byte (i := 10) (at_ := 14) rfl rfl rfl,
    cls, correcting, Reception.ofCode?_code, PeriodClass.ofCode?_code, SegClass.ofCode?_code, Scope.ofCode?_code]

theorem breach_length (b : BreachNotice) : (Notice.breach b).payload.length = 29 := payload_length _

theorem verdict_length (v : VerdictNotice) : (Notice.verdict v).payload.length = 41 := payload_length _

/-- The end time of a BREACH notice, or nine zero bytes (R135). -/
theorem breach_end_window (b : BreachNotice) : ((Notice.breach b).payload.drop 18).take 9 = stampBytes? b.endStamp :=
  payload_window (n := .breach b) (i := 6) rfl rfl rfl

theorem readBreach?_sent {b : BreachNotice} (sendable : (Notice.breach b).Sendable) :
    readBreach? (Notice.breach b).payload = some (.breach b) := by
  obtain ⟨least, most, shared, start, stop, figure⟩ := sendable
  have number : natAt (Notice.breach b).payload 0 2 = b.number :=
    natAt_of_number (payload_window (n := .breach b) (i := 0) rfl rfl rfl) (Nat.lt_succ_of_le most)
  have segment : BitVec.ofNat 32 (natAt (Notice.breach b).payload 4 4) = b.segmentId := ofNat_eq_of_toNat
    (natAt_of_number (payload_window (n := .breach b) (i := 3) rfl rfl rfl) b.segmentId.isLt)
  have flags := byteAt_of_field (payload_window (n := .breach b) (i := 2) (at_ := 3) rfl rfl rfl)
  obtain ⟨ended, figured, impaired, proxy⟩ :=
    breachFlagsByte_bits b.endStamp.isSome b.figure.isSome b.flags.impaired b.flags.proxy
  have endRead : readEndStamp? (Notice.breach b).payload = some b.endStamp := by
    unfold readEndStamp?
    rw [flags, ended]
    cases given : b.endStamp with
    | none => rfl
    | some x =>
      have window := breach_end_window b
      rw [given] at window
      rw [readStamp?_of_stamp window (stop x given)]
      rfl
  have figureRead : (if b.figure.isSome then some (intAt (Notice.breach b).payload 27 2) else none) = b.figure := by
    cases given : b.figure with
    | none => rfl
    | some i =>
      have window := payload_window (n := .breach b) (i := 7) (at_ := 27) rfl rfl rfl
      rw [given] at window
      exact congrArg some (intAt_of_figure window (figure i given))
  have accepted : (decide (29 ≤ (Notice.breach b).payload.length) && natAt (Notice.breach b).payload 0 2 != 0) = true := by
    rw [breach_length, number]
    simpa using Nat.ne_of_gt least
  unfold readBreach?
  rw [if_pos accepted, number, segment, flags, figured, impaired, proxy, endRead,
    byteAt_of_field (payload_window (n := .breach b) (i := 1) (at_ := 2) rfl rfl rfl),
    byteAt_of_field (payload_window (n := .breach b) (i := 4) (at_ := 8) rfl rfl rfl),
    readStamp?_of_stamp (payload_window (n := .breach b) (i := 5) (at_ := 9) rfl rfl rfl) start,
    Category.ofSharedCode?_code shared, Scope.ofCode?_code]
  dsimp only
  rw [figureRead]

theorem readVerdict?_sent {v : VerdictNotice} (sendable : (Notice.verdict v).Sendable) :
    readVerdict? (Notice.verdict v).payload = some (.verdict v) := by
  obtain ⟨start, stop, integrated, momentary, shortTerm, peak, offered, covered⟩ := sendable
  have id : BitVec.ofNat 32 (natAt (Notice.verdict v).payload 1 4) = v.id := ofNat_eq_of_toNat
    (natAt_of_number (payload_window (n := .verdict v) (i := 1) rfl rfl rfl) v.id.isLt)
  have range : v.coverage.getD 65535 ≤ 1000 ∨ v.coverage.getD 65535 = 65535 := by
    cases given : v.coverage with
    | none => exact .inr rfl
    | some c => exact .inl (covered c given)
  have coverage : natAt (Notice.verdict v).payload 37 2 = v.coverage.getD 65535 :=
    natAt_of_number (payload_window (n := .verdict v) (i := 11) rfl rfl rfl) (by omega)
  have offeredRead : natAt (Notice.verdict v).payload 33 4 = v.figures.offered :=
    natAt_of_number (payload_window (n := .verdict v) (i := 10) rfl rfl rfl) offered
  have source : byteAt (Notice.verdict v).payload 39 = 1 := byteAt_of_field (payload_window (n := .verdict v) (i := 12) rfl rfl rfl)
  have coverageRead : (if v.coverage.getD 65535 = 65535 then none else some (v.coverage.getD 65535)) = v.coverage := by
    cases given : v.coverage with
    | none => rfl
    | some c =>
      have small := covered c given
      exact if_neg (by rw [Option.getD_some]; omega)
  have accepted : (decide (41 ≤ (Notice.verdict v).payload.length) && (decide (natAt (Notice.verdict v).payload 37 2 ≤ 1000)
      || natAt (Notice.verdict v).payload 37 2 == 65535) && byteAt (Notice.verdict v).payload 39 == 1) = true := by
    rw [verdict_length, coverage, source]
    simpa using range
  unfold readVerdict?
  rw [if_pos accepted, id, coverage, coverageRead, offeredRead,
    byteAt_of_field (payload_window (n := .verdict v) (i := 0) (at_ := 0) rfl rfl rfl),
    byteAt_of_field (payload_window (n := .verdict v) (i := 2) (at_ := 5) rfl rfl rfl),
    byteAt_of_field (payload_window (n := .verdict v) (i := 3) (at_ := 6) rfl rfl rfl),
    byteAt_of_field (payload_window (n := .verdict v) (i := 13) (at_ := 40) rfl rfl rfl), markBit_getLsbD,
    readStamp?_of_stamp (payload_window (n := .verdict v) (i := 4) (at_ := 7) rfl rfl rfl) start,
    readStamp?_of_stamp (payload_window (n := .verdict v) (i := 5) (at_ := 16) rfl rfl rfl) stop,
    readLoudness?_of_fitting (payload_window (n := .verdict v) (i := 6) (at_ := 25) rfl rfl rfl) integrated,
    readLoudness?_of_fitting (payload_window (n := .verdict v) (i := 7) (at_ := 27) rfl rfl rfl) momentary,
    readLoudness?_of_fitting (payload_window (n := .verdict v) (i := 8) (at_ := 29) rfl rfl rfl) shortTerm,
    intAt_of_figure (payload_window (n := .verdict v) (i := 9) (at_ := 31) rfl rfl rfl) peak,
    VerdictKind.ofCode?_code, SegClass.ofCode?_code, Scope.ofCode?_code]

/-- A payload sent is read as the notice it was composed from. -/
theorem readNotice?_sent {n : Notice} (sendable : n.Sendable) : readNotice? n.kindCode n.payload = some n := by
  cases n with
  | status h tail => exact readStatus?_sent h sendable
  | breach b => exact readBreach?_sent sendable
  | verdict v => exact readVerdict?_sent sendable
  | withdraw => rfl

theorem payload_length_le {n : Notice} (sendable : n.Sendable) : n.payload.length ≤ 256 := by
  cases n with
  | status h tail =>
    cases tail with
    | none => exact (payload_length (.status h none)).trans_le (by simp [Notice.widths, statusHeadWidths, statusTailWidths])
    | some t =>
      obtain ⟨-, -, most, -⟩ := sendable
      rw [status_length]
      omega
  | breach b => exact (breach_length b).trans_le (by decide)
  | verdict v => exact (verdict_length v).trans_le (by decide)
  | withdraw => exact Nat.zero_le _

/-! ### The frame (R123) -/

/-- The part of a frame that its CRC is counted over (R123). -/
def frameFront (sender time : Nat) (n : Notice) : List Byte :=
  [BitVec.ofNat 8 sender, BitVec.ofNat 8 n.kindCode] ++ beBytes 2 n.payload.length ++ timeBytes time ++ n.payload

/-- The fields of a frame behind its delimiter (R123). -/
def frameFields (sender time : Nat) (n : Notice) : List (List Byte) :=
  [[BitVec.ofNat 8 sender], [BitVec.ofNat 8 n.kindCode], beBytes 2 n.payload.length, timeBytes time, n.payload,
    beBytes 2 (crc16 (frameFront sender time n)).toNat]

/-- The widths of those fields (R123). -/
def frameWidths (n : Notice) : List Nat := [1, 1, 2, 8, n.payload.length, 2]

theorem frameFront_length (sender time : Nat) (n : Notice) : (frameFront sender time n).length = 12 + n.payload.length := by
  simp [frameFront, timeBytes]
  omega

theorem frameBody_eq (sender time : Nat) (n : Notice) : frameBody sender time n =
    frameFront sender time n ++ beBytes 2 (crc16 (frameFront sender time n)).toNat := rfl

theorem frameFields_sized (sender time : Nat) (n : Notice) :
    (frameFields sender time n).map List.length = frameWidths n := by
  simp [frameFields, frameWidths, timeBytes]

theorem frameBody_flatten (sender time : Nat) (n : Notice) : frameBody sender time n = (frameFields sender time n).flatten := by
  simp [frameBody_eq, frameFields, frameFront]

theorem frameBody_length (sender time : Nat) (n : Notice) : (frameBody sender time n).length = 14 + n.payload.length := by
  rw [frameBody_eq, List.length_append, frameFront_length, beBytes_length]
  omega

theorem frameBody_window {sender time : Nat} {n : Notice} {i at_ k : Nat} {field : List Byte}
    (is : (frameFields sender time n)[i]? = some field) (width : (frameWidths n)[i]? = some k)
    (place : ((frameWidths n).take i).sum = at_) : ((frameBody sender time n).drop at_).take k = field := by
  rw [frameBody_flatten]
  exact window_of_fields (frameFields_sized sender time n) is width place

/-- The fields of a frame behind its delimiter, at their places (R123). -/
theorem frameBody_fields {sender time : Nat} (n : Notice) (station : sender ≤ 255) (within : time ≤ shelfMax)
    (short : n.payload.length ≤ 256) :
    let b := frameBody sender time n
    let length := n.payload.length
    byteAt b 0 = BitVec.ofNat 8 sender ∧ (byteAt b 0).toNat = sender ∧ (byteAt b 1).toNat = n.kindCode ∧
    natAt b 2 2 = length ∧ natAt b 4 4 = time / 1000000 ∧ natAt b 8 4 = time % 1000000 ∧
    (b.drop 12).take length = n.payload ∧ b.take (12 + length) = frameFront sender time n ∧
    natAt b (12 + length) 2 = (crc16 (frameFront sender time n)).toNat := by
  intro b length
  have byte : ∀ {i at_ : Nat} {x : Byte}, (frameFields sender time n)[i]? = some [x] → (frameWidths n)[i]? = some 1 →
      ((frameWidths n).take i).sum = at_ → byteAt b at_ = x := fun is width place =>
    byteAt_of_field (frameBody_window is width place)
  have first : byteAt b 0 = BitVec.ofNat 8 sender := byte (i := 0) rfl rfl rfl
  have kind : byteAt b 1 = BitVec.ofNat 8 n.kindCode := byte (i := 1) rfl rfl rfl
  obtain ⟨seconds, micros⟩ := timeBytes_of_window (frameBody_window (i := 3) (at_ := 4) rfl rfl rfl) within
  refine ⟨first, ?_, ?_, ?_, seconds, micros, frameBody_window (i := 4) rfl rfl rfl,
    List.take_left' (frameFront_length sender time n), ?_⟩
  · rw [first, BitVec.toNat_ofNat]
    omega
  · rw [kind]
    cases n <;> rfl
  · exact natAt_of_number (frameBody_window (i := 2) rfl rfl rfl) (by omega)
  · have place : ((frameWidths n).take 5).sum = 12 + length := by
      simp only [frameWidths, List.take, List.sum_cons, List.sum_nil, length]
      omega
    exact natAt_of_number (frameBody_window (i := 5) rfl rfl place) (BitVec.isLt _)

/-- A frame as a station sends it is read by a receiver as sent (R123, R124). -/
theorem readFrame?_sent {sender time : Nat} {n : Notice} (least : 1 ≤ sender) (station : sender ≤ 255)
    (within : time ≤ shelfMax) (sendable : n.Sendable) :
    readFrame? (frameBody sender time n) = some ⟨BitVec.ofNat 8 sender, time, n⟩ := by
  have short := payload_length_le sendable
  obtain ⟨first, number, kind, length, seconds, micros, payload, front, crc⟩ := frameBody_fields n station within short
  have time_eq : readTime (frameBody sender time n) 4 = time := by
    unfold readTime
    rw [seconds, micros]
    exact Nat.div_add_mod' time 1000000
  have nonzero : byteAt (frameBody sender time n) 0 ≠ 0 := fun zero => by
    rw [zero] at number
    exact Nat.ne_of_gt least number.symm
  unfold readFrame? frameLength
  dsimp only
  rw [length, if_pos ⟨by rw [crc, front], nonzero, short⟩, kind, payload, readNotice?_sent sendable]
  dsimp only
  rw [first, time_eq]

/-- The fields of a frame on the line, at their places (R123). -/
theorem frameBytes_fields {sender time : Nat} (n : Notice) (station : sender ≤ 255) (within : time ≤ shelfMax)
    (short : n.payload.length ≤ 256) :
    let b := frameBytes sender time n
    let length := n.payload.length
    b.length = 16 + length ∧ natAt b 0 1 = 0x96 ∧ natAt b 1 1 = 0x69 ∧ natAt b 2 1 = sender ∧ natAt b 3 1 = n.kindCode ∧
    natAt b 4 2 = length ∧ natAt b 6 4 = time / 1000000 ∧ natAt b 10 4 = time % 1000000 ∧
    (b.drop 14).take length = n.payload ∧ natAt b (14 + length) 2 = (crc16 ((b.drop 2).take (12 + length))).toNat := by
  intro b length
  have behind : ∀ j k, natAt b (j + 2) k = natAt (frameBody sender time n) j k := fun _ _ => rfl
  obtain ⟨-, number, kind, lengthField, seconds, micros, payload, front, crc⟩ := frameBody_fields n station within short
  refine ⟨?_, rfl, rfl, (natAt_one b 2).trans number, (natAt_one b 3).trans kind, lengthField, seconds, micros, payload, ?_⟩
  · have two : b.length = 2 + (frameBody sender time n).length := List.length_append
    rw [two, frameBody_length]
    omega
  · have front : (b.drop 2).take (12 + length) = frameFront sender time n := front
    rw [front, show 14 + length = 12 + length + 2 by omega, behind, crc]

/-! ### The bits on the line (R122) -/

theorem transmittedBits_contending {s : State} {q : QueuedNotice} {behind : List QueuedNotice}
    (contending : s.link.transmitter = .contending) (queue : s.link.queue = q :: behind) :
    s.transmittedBits = some (bitsOfBytes (frameBytes s.config.stationNumber s.link.sendTime q.notice)) := by
  unfold State.transmittedBits State.transmittedFrame
  rw [contending, queue]
  rfl

theorem transmittedBits_committed {s : State} {q : QueuedNotice} (committed : s.link.transmitter = .committed)
    (going : s.link.committed = some q) :
    s.transmittedBits = some (bitsOfBytes (frameBytes s.config.stationNumber s.link.sendTime q.notice)) := by
  unfold State.transmittedBits State.transmittedFrame
  rw [committed, going]
  rfl

theorem transmittedBits_none {s : State} (silent : s.link.transmitter = .idle ∨ s.link.transmitter = .waiting) :
    s.transmittedBits = none := by
  unfold State.transmittedBits State.transmittedFrame
  rcases silent with idle | waiting
  · rw [idle]
    rfl
  · rw [waiting]
    rfl

/-! ### The fields of each kind of notice, at their places (R132, R135, R136) -/

theorem Reception.code_toNat (c : Reception) : (BitVec.ofNat 8 c.code).toNat = c.code := by cases c <;> rfl

theorem PeriodClass.code_toNat (c : PeriodClass) : (BitVec.ofNat 8 c.code).toNat = c.code := by cases c <;> rfl

/-- The shared categories with their codes (R135, R167). -/
theorem sharedCategory_code {c : Category} (shared : c.shared = true) : (c, (BitVec.ofNat 8 c.code).toNat) ∈
    [(Category.loudnessHigh, 1), (Category.loudnessLow, 2), (Category.peakExcess, 3), (Category.shortTermExcess, 4),
      (Category.captionAbsent, 5), (Category.contentDivergent, 7)] := by
  revert shared
  cases c <;> decide

theorem status_head_fields (h : StatusHead) (tail : Option StatusTail) :
    let p := (Notice.status h tail).payload
    natAt p 0 2 = h.serviceId.toNat ∧ byteAt p 2 = h.regionGroup ∧
    natAt p 3 1 = (qualityByte h.timeClass h.correcting).toNat ∧ natAt p 4 1 = h.reception.code ∧ byteAt p 5 = h.quality ∧
    natAt p 6 1 = h.period.code ∧ natAt p 7 4 = h.segmentId.toNat ∧ natAt p 11 1 = h.cls.code ∧
    natAt p 12 1 = h.scope.code ∧ byteAt p 13 = h.commonCount ∧ byteAt p 14 = h.openBreaches :=
  ⟨natAt_of_number (status_window (i := 0) rfl rfl rfl tail) h.serviceId.isLt,
    byteAt_of_field (status_window (i := 1) rfl rfl rfl tail), natAt_of_byte (status_window (i := 2) rfl rfl rfl tail),
    (natAt_of_byte (status_window (i := 3) rfl rfl rfl tail)).trans h.reception.code_toNat,
    byteAt_of_field (status_window (i := 4) rfl rfl rfl tail),
    (natAt_of_byte (status_window (i := 5) rfl rfl rfl tail)).trans h.period.code_toNat,
    natAt_of_number (status_window (i := 6) rfl rfl rfl tail) h.segmentId.isLt,
    (natAt_of_byte (status_window (i := 7) rfl rfl rfl tail)).trans h.cls.code_toNat,
    (natAt_of_byte (status_window (i := 8) rfl rfl rfl tail)).trans h.scope.code_toNat,
    byteAt_of_field (status_window (i := 9) rfl rfl rfl tail), byteAt_of_field (status_window (i := 10) rfl rfl rfl tail)⟩

theorem status_tail_fields {h : StatusHead} {t : StatusTail} (sendable : (Notice.status h (some t)).Sendable) :
    let p := (Notice.status h (some t)).payload
    p.length = 21 + 8 * t.signatures.length ∧ intAt p 15 2 = t.shortTerm.getD (-32768) ∧
    natAt p 17 1 = (if t.shown then 1 else 0) ∧ natAt p 18 2 = t.digest.toNat ∧ natAt p 20 1 = t.signatures.length ∧
    ∀ i g, t.signatures[i]? = some g → natAt p (21 + 8 * i) 4 = g.second.toNat ∧ natAt p (25 + 8 * i) 2 = g.trend.toNat ∧
      intAt p (27 + 8 * i) 1 = g.level ∧ natAt p (28 + 8 * i) 1 = (if g.impaired then 1 else 0) := by
  intro p
  obtain ⟨loudness, least, most, levels⟩ := sendable
  refine ⟨status_length h t, intAt_of_fitting (status_tail_window (i := 0) rfl rfl rfl) loudness,
    (natAt_of_byte (status_tail_window (i := 1) rfl rfl rfl)).trans (markBit_toNat _),
    natAt_of_number (status_tail_window (i := 2) rfl rfl rfl) t.digest.isLt,
    (natAt_one p 20).trans (status_count most), fun i g is => ?_⟩
  obtain ⟨second, trend, level, impaired⟩ := signature_fields (signature_window is) (levels g (List.mem_of_getElem? is))
  rw [show 25 + 8 * i = 21 + 8 * i + 4 by omega, show 27 + 8 * i = 21 + 8 * i + 6 by omega,
    show 28 + 8 * i = 21 + 8 * i + 7 by omega, natAt_one, impaired]
  exact ⟨second, trend, level, markBit_toNat _⟩

theorem breach_fields {b : BreachNotice} (sendable : (Notice.breach b).Sendable) :
    let p := (Notice.breach b).payload
    natAt p 0 2 = b.number ∧ (b.category, natAt p 2 1) ∈ [(Category.loudnessHigh, 1), (Category.loudnessLow, 2),
      (Category.peakExcess, 3), (Category.shortTermExcess, 4), (Category.captionAbsent, 5),
      (Category.contentDivergent, 7)] ∧
    natAt p 3 1 = (if b.endStamp.isSome then 1 else 0) + (if b.figure.isSome then 2 else 0) +
      (if b.flags.impaired then 4 else 0) + (if b.flags.proxy then 8 else 0) ∧
    natAt p 4 4 = b.segmentId.toNat ∧ natAt p 8 1 = b.scope.code ∧ intAt p 27 2 = b.figure.getD 0 := by
  intro p
  obtain ⟨-, most, shared, -, -, figure⟩ := sendable
  have part := fun {i at_ k field} => payload_window (n := .breach b) (i := i) (at_ := at_) (k := k) (field := field)
  refine ⟨natAt_of_number (part (i := 0) rfl rfl rfl) (Nat.lt_succ_of_le most), ?_,
    (natAt_of_byte (part (i := 2) rfl rfl rfl)).trans (breachFlagsByte_toNat ..),
    natAt_of_number (part (i := 3) rfl rfl rfl) b.segmentId.isLt,
    (natAt_of_byte (part (i := 4) rfl rfl rfl)).trans b.scope.code_toNat,
    intAt_of_figure (part (i := 7) rfl rfl rfl) ?_⟩
  · rw [natAt_of_byte (part (i := 1) (at_ := 2) rfl rfl rfl)]
    exact sharedCategory_code shared
  · cases given : b.figure with
    | none => decide
    | some i => exact figure i given

theorem verdict_fields {v : VerdictNotice} (sendable : (Notice.verdict v).Sendable) :
    let p := (Notice.verdict v).payload
    natAt p 0 1 = v.kind.code ∧ natAt p 1 4 = v.id.toNat ∧ natAt p 5 1 = v.cls.code ∧ natAt p 6 1 = v.scope.code ∧
    intAt p 25 2 = v.figures.integrated.getD (-32768) ∧ intAt p 27 2 = v.figures.maxMomentary.getD (-32768) ∧
    intAt p 29 2 = v.figures.maxShortTerm.getD (-32768) ∧ intAt p 31 2 = v.figures.maxPeak ∧
    natAt p 33 4 = v.figures.offered ∧ natAt p 37 2 = v.coverage.getD 65535 ∧ natAt p 39 1 = 1 ∧
    natAt p 40 1 = (if v.impaired then 1 else 0) := by
  intro p
  obtain ⟨-, -, integrated, momentary, shortTerm, peak, offered, covered⟩ := sendable
  have part := fun {i at_ k field} => payload_window (n := .verdict v) (i := i) (at_ := at_) (k := k) (field := field)
  have coverage : v.coverage.getD 65535 < 256 ^ 2 := by
    cases given : v.coverage with
    | none => decide
    | some c =>
      have small := covered c given
      rw [Option.getD_some]
      omega
  exact ⟨(natAt_of_byte (part (i := 0) rfl rfl rfl)).trans v.kind.code_toNat,
    natAt_of_number (part (i := 1) rfl rfl rfl) v.id.isLt,
    (natAt_of_byte (part (i := 2) rfl rfl rfl)).trans v.cls.code_toNat,
    (natAt_of_byte (part (i := 3) rfl rfl rfl)).trans v.scope.code_toNat,
    intAt_of_fitting (part (i := 6) rfl rfl rfl) integrated, intAt_of_fitting (part (i := 7) rfl rfl rfl) momentary,
    intAt_of_fitting (part (i := 8) rfl rfl rfl) shortTerm, intAt_of_figure (part (i := 9) rfl rfl rfl) peak,
    natAt_of_number (part (i := 10) rfl rfl rfl) offered, natAt_of_number (part (i := 11) rfl rfl rfl) coverage,
    natAt_of_byte (part (i := 12) rfl rfl rfl), (natAt_of_byte (part (i := 13) rfl rfl rfl)).trans (markBit_toNat _)⟩

/-- Settles O56: a sent frame is read as sent (`readFrame?_sent`), and the frame and each kind of payload hold their fields at
their places (`frameBytes_fields`, `status_head_fields`, `status_tail_fields`, `breach_fields`, `verdict_fields`). -/
theorem frameRoundTrip : Obligations.FrameRoundTrip := by
  refine ⟨fun sender time n least station within sendable => ⟨readFrame?_sent least station within sendable,
    frameBody_length sender time n, payload_length_le sendable⟩,
    fun bytes b => ⟨rfl, bitsOfBytes_cons b bytes, bytesOfBits_bitsOfBytes bytes, frameOfBits?_delimited bytes⟩,
    fun sender time n => frameOfBits?_delimited _,
    fun s => ⟨fun q behind => transmittedBits_contending, fun q => transmittedBits_committed, transmittedBits_none⟩,
    fun sender time n station within short => ?frame, fun n sendable => ?notice⟩
  case frame =>
    obtain ⟨length, first, second, number, kind, rest⟩ := frameBytes_fields n station within short
    exact ⟨length, first, second, number, kind.trans (by cases n <;> rfl), rest⟩
  case notice =>
    intro p stampIn loudnessIn classCode scopeCode
    cases n with
    | withdraw => rfl
    | status h tail =>
      obtain ⟨service, region, quality, reception, figure, period, segment, cls, scope, common, open_⟩ :=
        status_head_fields h tail
      refine ⟨service, region, quality.trans (qualityByte_toNat ..), reception, figure, period, segment, cls, scope, common,
        open_, fun none => ?_, fun x some => ?_⟩
      · subst none
        rfl
      · subst some
        exact status_tail_fields sendable
    | breach b =>
      have ends := breach_end_window b
      obtain ⟨number, category, flags, segment, scope, figure⟩ := breach_fields sendable
      refine ⟨breach_length b, number, category, flags, segment, scope,
        stamp_of_window (payload_window (n := .breach b) (i := 5) rfl rfl rfl), fun none => ?_, fun x some => ?_, figure⟩
      · rw [none] at ends
        exact congrArg beNat ends
      · rw [some] at ends
        exact stamp_of_window ends
    | verdict v =>
      obtain ⟨kind, id, cls, scope, integrated, momentary, shortTerm, peak, offered, coverage, source, impaired⟩ :=
        verdict_fields sendable
      exact ⟨verdict_length v, kind, id, cls, scope,
        stamp_of_window (payload_window (n := .verdict v) (i := 4) rfl rfl rfl),
        stamp_of_window (payload_window (n := .verdict v) (i := 5) rfl rfl rfl), integrated, momentary, shortTerm, peak,
        offered, coverage, source, impaired⟩

end Sys2Proof.Machine
end

section
/-! PROOF. When a received frame is valid (R124): the CRC, the sender, the length, and the lengths and coded fields of each kind
of notice (R123, R132, R135, R136; log 16). -/

namespace Sys2Proof.Machine

/-! ### The CRC (R123) -/

/-- One bit of the CRC's division, by the bit that leaves at the top. -/
theorem crcBit_eq (c : BitVec 16) : crcBit c = if c.getLsbD 15 then (c <<< 1) ^^^ 0x1021#16 else c <<< 1 := by
  unfold crcBit
  rw [BitVec.msb_eq_getLsbD_last]

theorem crcByte_eq (c : BitVec 16) (b : Byte) : crcByte c b = crcBit^[8] (c ^^^ (b.setWidth 16 <<< 8)) := rfl

theorem crc16_concat (bytes : List Byte) (b : Byte) : crc16 (bytes ++ [b]) = crcByte (crc16 bytes) b := List.foldl_append

/-! ### Coded fields (R132, R135, R136) -/

theorem TimeClass.ofNumber?_isSome (n : Nat) : (TimeClass.ofNumber? n).isSome = true ↔ 1 ≤ n ∧ n ≤ 4 := by
  rcases n with _ | _ | _ | _ | _ | n <;> simp [TimeClass.ofNumber?]

theorem Reception.ofCode?_isSome (n : Nat) : (Reception.ofCode? n).isSome = true ↔ 1 ≤ n ∧ n ≤ 2 := by
  rcases n with _ | _ | _ | n <;> simp [Reception.ofCode?]

theorem PeriodClass.ofCode?_isSome (n : Nat) : (PeriodClass.ofCode? n).isSome = true ↔ 1 ≤ n ∧ n ≤ 3 := by
  rcases n with _ | _ | _ | _ | n <;> simp [PeriodClass.ofCode?]

theorem VerdictKind.ofCode?_isSome (n : Nat) : (VerdictKind.ofCode? n).isSome = true ↔ 1 ≤ n ∧ n ≤ 2 := by
  rcases n with _ | _ | _ | n <;> simp [VerdictKind.ofCode?]

theorem Category.ofSharedCode?_isSome (n : Nat) :
    (Category.ofSharedCode? n).isSome = true ↔ n ∈ [1, 2, 3, 4, 5, 7] := by
  rcases n with _ | _ | _ | _ | _ | _ | _ | _ | n <;> simp [Category.ofSharedCode?]

/-- A byte holds a code from 1 to the last. -/
def Coded (p : List Byte) (i last : Nat) : Prop := 1 ≤ (byteAt p i).toNat ∧ (byteAt p i).toNat ≤ last

/-- The time class in a time quality byte is one of the four. -/
def Stamped (p : List Byte) (i : Nat) : Prop := 1 ≤ (byteAt p i).toNat % 8 ∧ (byteAt p i).toNat % 8 ≤ 4

theorem readStamp?_isSome (p : List Byte) (i : Nat) : (readStamp? p i).isSome = true ↔ Stamped p (i + 8) := by
  unfold Stamped
  rw [← TimeClass.ofNumber?_isSome]
  unfold readStamp?
  cases TimeClass.ofNumber? ((byteAt p (i + 8)).toNat % 8) <;> rfl

theorem readEndStamp?_isSome (p : List Byte) :
    (readEndStamp? p).isSome = true ↔ ((byteAt p 3).getLsbD 0 = true → Stamped p 26) := by
  rw [← readStamp?_isSome p 18]
  unfold readEndStamp?
  cases (byteAt p 3).getLsbD 0 <;> simp

/-! ### Payloads (R124, R132, R135, R136) -/

/-- A STATUS payload that R124 accepts, by length and coded fields (R132). -/
def StatusValid (p : List Byte) : Prop :=
  (p.length = 15 ∨ (21 ≤ p.length ∧ Coded p 20 8 ∧ 21 + 8 * (byteAt p 20).toNat ≤ p.length)) ∧
    Stamped p 3 ∧ Coded p 4 2 ∧ Coded p 6 3 ∧ Coded p 11 4 ∧ Coded p 12 2

/-- A BREACH payload that R124 accepts (R135; log 16). -/
def BreachValid (p : List Byte) : Prop :=
  29 ≤ p.length ∧ natAt p 0 2 ≠ 0 ∧ (byteAt p 2).toNat ∈ [1, 2, 3, 4, 5, 7] ∧ Coded p 8 2 ∧ Stamped p 17 ∧
    ((byteAt p 3).getLsbD 0 = true → Stamped p 26)

/-- A VERDICT payload that R124 accepts (R136; log 16). -/
def VerdictValid (p : List Byte) : Prop :=
  41 ≤ p.length ∧ Coded p 0 2 ∧ Coded p 5 4 ∧ Coded p 6 2 ∧ Stamped p 15 ∧ Stamped p 24 ∧
    (natAt p 37 2 ≤ 1000 ∨ natAt p 37 2 = 65535) ∧ (byteAt p 39).toNat = 1

theorem statusLengthOk_iff (p : List Byte) : statusLengthOk p = true ↔
    p.length = 15 ∨ (21 ≤ p.length ∧ Coded p 20 8 ∧ 21 + 8 * (byteAt p 20).toNat ≤ p.length) := by
  simp [statusLengthOk, Coded, and_assoc]

/-- A STATUS is read exactly from a valid payload. -/
theorem readStatus?_spec (p : List Byte) : (StatusValid p → ∃ h tail, readStatus? p = some (.status h tail)) ∧
    (¬ StatusValid p → readStatus? p = none) := by
  unfold StatusValid Stamped Coded
  rw [← TimeClass.ofNumber?_isSome, ← Reception.ofCode?_isSome, ← PeriodClass.ofCode?_isSome, ← SegClass.ofCode?_isSome,
    ← Scope.ofCode?_isSome]
  unfold readStatus?
  constructor
  · simp only [Option.isSome_iff_exists]
    rintro ⟨length, ⟨_, cls⟩, ⟨_, reception⟩, ⟨_, period⟩, ⟨_, segment⟩, ⟨_, scope⟩⟩
    rw [if_pos ((statusLengthOk_iff p).mpr length), cls, reception, period, segment, scope]
    exact ⟨_, _, rfl⟩
  · intro invalid
    split
    · next length =>
      split
      · next cls reception period segment scope =>
        exact absurd ⟨(statusLengthOk_iff p).mp length, by rw [cls]; rfl, by rw [reception]; rfl, by rw [period]; rfl,
          by rw [segment]; rfl, by rw [scope]; rfl⟩ invalid
      · rfl
    · rfl

theorem readBreach?_spec (p : List Byte) : (BreachValid p → ∃ b, readBreach? p = some (.breach b)) ∧
    (¬ BreachValid p → readBreach? p = none) := by
  unfold BreachValid Coded
  rw [← Category.ofSharedCode?_isSome, ← Scope.ofCode?_isSome, ← readStamp?_isSome p 9, ← readEndStamp?_isSome]
  have accepted : (decide (29 ≤ p.length) && natAt p 0 2 != 0) = true ↔ 29 ≤ p.length ∧ natAt p 0 2 ≠ 0 := by simp
  unfold readBreach?
  constructor
  · simp only [Option.isSome_iff_exists]
    rintro ⟨length, number, ⟨_, category⟩, ⟨_, scope⟩, ⟨_, start⟩, ⟨_, stop⟩⟩
    rw [if_pos (accepted.mpr ⟨length, number⟩), category, scope, start, stop]
    exact ⟨_, rfl⟩
  · intro invalid
    split
    · next short =>
      split
      · next category scope start stop =>
        obtain ⟨length, number⟩ := accepted.mp short
        exact absurd ⟨length, number, by rw [category]; rfl, by rw [scope]; rfl, by rw [start]; rfl, by rw [stop]; rfl⟩
          invalid
      · rfl
    · rfl

theorem readVerdict?_spec (p : List Byte) : (VerdictValid p → ∃ v, readVerdict? p = some (.verdict v)) ∧
    (¬ VerdictValid p → readVerdict? p = none) := by
  unfold VerdictValid Coded
  rw [← VerdictKind.ofCode?_isSome, ← SegClass.ofCode?_isSome, ← Scope.ofCode?_isSome, ← readStamp?_isSome p 7,
    ← readStamp?_isSome p 16]
  have accepted : (decide (41 ≤ p.length) && (decide (natAt p 37 2 ≤ 1000) || natAt p 37 2 == 65535) && byteAt p 39 == 1)
      = true ↔ 41 ≤ p.length ∧ (natAt p 37 2 ≤ 1000 ∨ natAt p 37 2 = 65535) ∧ (byteAt p 39).toNat = 1 := by
    simp [and_assoc, BitVec.toNat_eq]
  unfold readVerdict?
  constructor
  · simp only [Option.isSome_iff_exists]
    rintro ⟨length, ⟨_, kind⟩, ⟨_, cls⟩, ⟨_, scope⟩, ⟨_, start⟩, ⟨_, stop⟩, coverage, source⟩
    rw [if_pos (accepted.mpr ⟨length, coverage, source⟩), kind, cls, scope, start, stop]
    exact ⟨_, rfl⟩
  · intro invalid
    split
    · next fits =>
      split
      · next kind cls scope start stop =>
        obtain ⟨length, coverage, source⟩ := accepted.mp fits
        exact absurd ⟨length, by rw [kind]; rfl, by rw [cls]; rfl, by rw [scope]; rfl, by rw [start]; rfl,
          by rw [stop]; rfl, coverage, source⟩ invalid
      · rfl
    · rfl

/-- A payload that R124 accepts for a kind code. -/
def PayloadValid (kind : Nat) (p : List Byte) : Prop :=
  (kind = 1 ∧ StatusValid p) ∨ (kind = 2 ∧ BreachValid p) ∨ (kind = 3 ∧ VerdictValid p) ∨ kind = 4

theorem readNotice?_spec (kind : Nat) (p : List Byte) :
    (PayloadValid kind p → ∃ n, readNotice? kind p = some n ∧ n.kindCode = kind) ∧
    (¬ PayloadValid kind p → readNotice? kind p = none) := by
  constructor
  · rintro (⟨rfl, valid⟩ | ⟨rfl, valid⟩ | ⟨rfl, valid⟩ | rfl)
    · obtain ⟨h, tail, read⟩ := (readStatus?_spec p).1 valid
      exact ⟨_, read, rfl⟩
    · obtain ⟨b, read⟩ := (readBreach?_spec p).1 valid
      exact ⟨_, read, rfl⟩
    · obtain ⟨v, read⟩ := (readVerdict?_spec p).1 valid
      exact ⟨_, read, rfl⟩
    · exact ⟨_, rfl, rfl⟩
  · intro invalid
    unfold readNotice?
    split
    · exact (readStatus?_spec p).2 fun valid => invalid (.inl ⟨rfl, valid⟩)
    · exact (readBreach?_spec p).2 fun valid => invalid (.inr (.inl ⟨rfl, valid⟩))
    · exact (readVerdict?_spec p).2 fun valid => invalid (.inr (.inr (.inl ⟨rfl, valid⟩)))
    · exact absurd (.inr (.inr (.inr rfl))) invalid
    · rfl

/-! ### Frames (R123, R124) -/

/-- A frame whose CRC, sender and length R124 accepts. -/
def FrameSound (bytes : List Byte) : Prop :=
  natAt bytes (12 + natAt bytes 2 2) 2 = (crc16 (bytes.take (12 + natAt bytes 2 2))).toNat ∧ byteAt bytes 0 ≠ 0 ∧
    natAt bytes 2 2 ≤ 256

/-- A frame is read exactly when every check of R124 passes. -/
theorem readFrame?_spec (bytes : List Byte) :
    let valid := FrameSound bytes ∧ PayloadValid (byteAt bytes 1).toNat ((bytes.drop 12).take (natAt bytes 2 2))
    (¬ valid → readFrame? bytes = none) ∧
    (valid → ∃ f, readFrame? bytes = some f ∧ f.sender = byteAt bytes 0 ∧
      f.senderTime = natAt bytes 4 4 * 1000000 + natAt bytes 8 4 ∧ f.notice.kindCode = (byteAt bytes 1).toNat) := by
  intro valid
  obtain ⟨read, unread⟩ := readNotice?_spec (byteAt bytes 1).toNat ((bytes.drop 12).take (natAt bytes 2 2))
  constructor
  · intro invalid
    by_cases sound : FrameSound bytes
    · refine (if_pos sound).trans ?_
      have none : readNotice? (byteAt bytes 1).toNat ((bytes.drop 12).take (frameLength bytes)) = none :=
        unread fun payload => invalid ⟨sound, payload⟩
      rw [none]
    · exact if_neg sound
  · rintro ⟨sound, payload⟩
    obtain ⟨n, some, kind⟩ := read payload
    refine ⟨⟨byteAt bytes 0, readTime bytes 4, n⟩, (if_pos sound).trans ?_, rfl, rfl, kind⟩
    have some : readNotice? (byteAt bytes 1).toNat ((bytes.drop 12).take (frameLength bytes)) = .some n := some
    rw [some]

end Sys2Proof.Machine
end

section
/-! PROOF. FRAME_COMPLETE (R124 to R126, R144, R149): the frame judged, the own number, the peer table, and what takes a
notice. Settles O57. -/

namespace Sys2Proof.Machine

/-! ### The frame judged (R124 to R126) -/

/-- The state with no frame being received. -/
def State.received (s : State) : State := s.setLink { s.link with rx := none }

section Complete

variable {s : State} {bytes : List Byte} {rx : FrameRx} (live : s.live = true) (receiving : s.link.rx = some rx)
  (whole : rx.overlong = false)

include live receiving whole

/-- A header that states more than 256 bytes is judged at once (R124). -/
theorem exec_frameComplete_overlong (header : 12 ≤ bytes.length) (long : 256 < natAt bytes 2 2) :
    exec (.frameComplete bytes) s = .next (s.setLink { s.link with rx := some { rx with overlong := true } }) := by
  change execFrameComplete bytes s = _
  unfold execFrameComplete
  rw [receiving]
  dsimp only
  rw [live, whole, (overlongHeader_iff bytes).mpr ⟨header, long⟩]
  rfl

theorem exec_frameComplete_judged (fits : natAt bytes 2 2 ≤ 256) (complete : bytes.length = 14 + natAt bytes 2 2) :
    exec (.frameComplete bytes) s = .next (s.received.judgeFrame bytes rx) := by
  have short : overlongHeader bytes = false :=
    Bool.eq_false_iff.mpr fun long => Nat.not_lt.mpr fits ((overlongHeader_iff bytes).mp long).2
  change execFrameComplete bytes s = _
  unfold execFrameComplete frameLength
  rw [receiving]
  dsimp only
  rw [live, whole, short, if_neg Bool.false_ne_true, if_pos complete]
  exact if_pos rfl

end Complete

section Judged

variable {s : State} {bytes : List Byte} {f : ReceivedFrame} (rx : FrameRx)

theorem judgeFrame_invalid (invalid : readFrame? bytes = none) :
    s.judgeFrame bytes rx = s.setLink { s.link with crcErrors := addCount s.link.crcErrors 1 } := by
  unfold State.judgeFrame
  rw [invalid]

theorem judgeFrame_own (valid : readFrame? bytes = some f) (own : f.sender.toNat = s.config.stationNumber) :
    s.judgeFrame bytes rx = s.duplicateHeard rx := by
  unfold State.judgeFrame
  rw [valid]
  exact if_pos own

theorem judgeFrame_foreign (valid : readFrame? bytes = some f) (foreign : f.sender.toNat ≠ s.config.stationNumber) :
    s.judgeFrame bytes rx = s.takeFrame f rx := by
  unfold State.judgeFrame
  rw [valid]
  exact if_neg foreign

end Judged

/-! ### The own number heard (R125, R190) -/

theorem offer_rx (s : State) (n : Notice) (carried : List Nat) : (s.offer n carried).link.rx = s.link.rx :=
  (congrArg ShelfLink.rx (offer_link_eq s n carried) :)

theorem upshift_rx (s : State) : s.upshift.link.rx = s.link.rx := by
  unfold State.upshift State.offerStatus
  split
  · dsimp only
    split
    · rfl
    · exact offer_rx _ _ _
  · rfl

/-- A creation that retains no evidence leaves the frame being received. -/
theorem raise_rx {q : BreachRequest} (plain : q.category.retains = false) (s : State) :
    (s.raise q).link.rx = s.link.rx := by
  have entered : (s.enterRecord q).1.link.rx = s.link.rx := congrArg ShelfLink.rx (enterRecord_link s q)
  rw [raise_plain plain, ← entered]
  unfold State.announce
  dsimp only
  split <;> split
  · exact (upshift_rx _).trans (offer_rx _ _ _)
  · exact upshift_rx _
  · exact offer_rx _ _ _
  · rfl

/-- The request of a DUPLICATE_STATION record (R125). -/
def duplicateRequest (rx : FrameRx) : BreachRequest :=
  { category := .duplicateStation, startStamp := rx.stamp, endStamp := some rx.stamp }

/-- The state with the DUPLICATE_STATION record and the listen-only mark (R125, R190). -/
def State.duplicateMarked (s : State) (rx : FrameRx) : State :=
  (s.raise (duplicateRequest rx)).setStartup { (s.raise (duplicateRequest rx)).startup with listenOnlyMark := true }

theorem duplicateHeard_moves {s : State} (live : s.live = true) (other : s.startup.station ≠ .listenOnly) (rx : FrameRx) :
    s.duplicateHeard rx = (s.duplicateMarked rx).enterListenOnly := by
  unfold State.duplicateHeard
  rcases live_cases live with station | station | station
  · rw [station]
    rfl
  · rw [station]
    rfl
  · exact absurd station other

theorem duplicateHeard_listenOnly {s : State} (station : s.startup.station = .listenOnly) (rx : FrameRx) :
    s.duplicateHeard rx = s := by
  unfold State.duplicateHeard
  rw [station]

theorem enterListenOnly_keeps (s : State) : s.enterListenOnly.startup = { s.startup with station := .listenOnly } ∧
    s.enterListenOnly.peers = s.peers ∧ s.enterListenOnly.time = s.time ∧ s.enterListenOnly.log = s.log ∧
    s.enterListenOnly.link.rx = s.link.rx := by
  unfold State.enterListenOnly
  dsimp only
  split <;> exact ⟨rfl, rfl, rfl, rfl, rfl⟩

/-- The own number heard in LISTENING and RUNNING: the record, the mark and LISTEN_ONLY (R125, R138, R190). -/
theorem duplicateHeard_spec {s : State} (live : s.live = true) (other : s.startup.station ≠ .listenOnly) (rx : FrameRx) :
    let t := s.duplicateHeard rx
    t.startup = { s.startup with station := .listenOnly, listenOnlyMark := true } ∧ t.peers = s.peers ∧ t.time = s.time ∧
    t.link.rx = s.link.rx ∧
    (s.startup.restarting = false → t.link.queue = [] ∧ t.link.transmitter = .idle ∧
      t.link.statusNext = none ∧ t.link.downshift = none) ∧
    (s.log.records.length < 128 → ∃ r ∈ t.log.records, r.category = .duplicateStation ∧ r.isOpen = false ∧
      r.startStamp = rx.stamp ∧ r.endStamp = some rx.stamp ∧ r.figure = none) := by
  intro t
  have plain : (duplicateRequest rx).category.retains = false := rfl
  have raised := raise_reports plain s
  have startup : (s.duplicateMarked rx).startup = { s.startup with listenOnlyMark := true } :=
    congrArg (fun u : Startup => { u with listenOnlyMark := true }) raised.measured.startup
  have kept : (s.duplicateMarked rx).peers = s.peers ∧ (s.duplicateMarked rx).time = s.time ∧
      (s.duplicateMarked rx).link.rx = s.link.rx := by
    simp only [State.duplicateMarked, State.setStartup_peers, State.setStartup_time, State.setStartup_link, raised.peers,
      raised.measured.time, raise_rx plain, and_self]
  obtain ⟨keptPeers, keptTime, keptFrame⟩ := kept
  have is : t = (s.duplicateMarked rx).enterListenOnly := duplicateHeard_moves live other rx
  clear_value t
  subst is
  obtain ⟨moved, peers, time, log, frame⟩ := enterListenOnly_keeps (s.duplicateMarked rx)
  refine ⟨?_, peers.trans keptPeers, time.trans keptTime, frame.trans keptFrame, fun steady => ?_, fun room => ?_⟩
  · rw [moved, startup]
  · have steady : (s.duplicateMarked rx).startup.restarting = false := by
      rw [startup]
      exact steady
    rw [enterListenOnly_flushes steady]
    exact ⟨rfl, rfl, rfl, rfl⟩
  · have records : (s.duplicateMarked rx).log.records = _ := raise_records plain room
    rw [log, records]
    exact ⟨_, List.mem_append_right _ (List.mem_singleton_self _), rfl, rfl, rfl, rfl, rfl⟩

/-! ### The peer table (R143, R144) -/

theorem peer?_of_table {s t : State} (table : t.peers.table = s.peers.table) (n : Byte) : t.peer? n = s.peer? n := by
  unfold State.peer?
  rw [table]

theorem peer?_none_iff (s : State) (n : Byte) : s.peer? n = none ↔ ∀ x ∈ s.peers.table, x.station ≠ n := by
  simp [State.peer?]

theorem peer?_station {s : State} {n : Byte} {e : PeerEntry} (known : s.peer? n = some e) : e.station = n :=
  eq_of_beq (List.find?_some (p := fun x : PeerEntry => x.station == n) known)

theorem change_eq (p : PeerMonitor) (n : Byte) (f : PeerEntry → PeerEntry) :
    p.change n f = { p with table := p.table.map (fun e => if e.station = n then f e else e) } := by
  simp only [PeerMonitor.change, beq_iff_eq]

section Change

variable {n : Byte} {f : PeerEntry → PeerEntry}

theorem findPeer_changed (station : ∀ e, (f e).station = e.station) : ∀ l : List PeerEntry,
    (l.map (fun e => if e.station == n then f e else e)).find? (fun e => e.station == n) =
      (l.find? (fun e => e.station == n)).map f
  | [] => rfl
  | e :: l => by
    by_cases here : e.station = n
    · simp [here, station]
    · simpa [here] using findPeer_changed station l

/-- The entry of a station whose entry is changed (R143). -/
theorem peer?_change (station : ∀ e, (f e).station = e.station) (s : State) :
    (s.setPeers (s.peers.change n f)).peer? n = (s.peer? n).map f := findPeer_changed station s.peers.table

theorem mem_change {p : PeerMonitor} {x : PeerEntry} (member : x ∈ p.table) (other : x.station ≠ n) :
    x ∈ (p.change n f).table := by
  rw [change_eq]
  exact List.mem_map.mpr ⟨x, member, if_neg other⟩

end Change

/-! ### What leaves the peer entries alone -/

theorem closeBreach_peers (s : State) (c : Category) (stop : Stamp) (figure : Option Int) (impaired : Bool) :
    (s.closeBreach c stop figure impaired).peers = s.peers := by
  cases found : s.log.cause? c with
  | none => rw [closeBreach_none found]
  | some k =>
    have ended : (s.causeHoldEnded k stop).peers = s.peers := by
      unfold State.causeHoldEnded State.setEnd
      split
      · rfl
      · split <;> rfl
    rw [closeBreach_some stop figure impaired found]
    unfold State.causeClosed State.closingOffered
    split
    · exact (offer_reports _ _ _).peers.trans ended
    · exact ended

theorem reportSource_peers (s : State) (was : TimeClass) : (s.reportSource was).peers = s.peers := by
  unfold State.reportSource
  split
  · split
    · exact (raise_reports (by rfl) s).peers
    · split
      · exact closeBreach_peers _ _ _ _ _
      · rfl
  · rfl

theorem enterSource_peers (s : State) (c : TimeClass) : (s.enterSource c).peers = s.peers := reportSource_peers _ _

theorem follow_peers (s : State) (e : PeerEntry) : (s.follow e).peers = s.peers := enterSource_peers _ _

theorem considerPeers_peers (s : State) : s.considerPeers.peers = s.peers := by
  unfold State.considerPeers
  split
  · exact follow_peers s _
  · split
    · exact follow_peers s _
    · rfl
  · rfl

theorem loseFollowed_peers (s : State) (n : Byte) : (s.loseFollowed n).peers = s.peers := by
  unfold State.loseFollowed
  split
  · split
    · exact follow_peers s _
    · exact enterSource_peers s _
  · rfl

theorem upshift_peers (s : State) : s.upshift.peers = s.peers := (upshift_reports s).peers

theorem judge_noted (s : State) : s.judge.peers.noted = s.peers.noted := by
  unfold State.judge State.closeDivergent
  dsimp only
  split
  · split
    · rw [closeBreach_peers]
      rfl
    · rfl
  · rfl

/-- The second state has the Time Base and the peer table of the first. -/
structure KeepsEntries (s t : State) : Prop where
  time  : t.time = s.time
  table : t.peers.table = s.peers.table

namespace KeepsEntries

variable {s t u : State}

theorem refl (s : State) : KeepsEntries s s := ⟨rfl, rfl⟩

theorem trans (a : KeepsEntries s t) (b : KeepsEntries t u) : KeepsEntries s u :=
  ⟨b.time.trans a.time, b.table.trans a.table⟩

theorem of (h : KeepsMeasured s t) : KeepsEntries s t := ⟨h.time, h.table⟩

theorem foldl {α : Type} {f : State → α → State} (each : ∀ s x, KeepsEntries s (f s x)) :
    ∀ (l : List α) (s : State), KeepsEntries s (l.foldl f s)
  | [], s => refl s
  | x :: l, s => (each s x).trans (foldl each l (f s x))

end KeepsEntries

theorem checkPending_entries (c : CacheEntry) (s : State) (e : PendingVerdict) : KeepsEntries s (s.checkPending c e) := by
  unfold State.checkPending
  split
  · refine ⟨?_, (resolveProxy_peers _ _ _).1⟩
    rw [resolveProxy_eq, (checkLoudness_keeps _ _ _).time, issue_time]
    rfl
  · exact .refl s

theorem checkEntry_entries (s : State) (c : CacheEntry) : KeepsEntries s (s.checkEntry c) :=
  KeepsEntries.foldl (fun s e => checkPending_entries c s e) _ s

theorem checkPeerCache_entries (s : State) (n : Byte) : KeepsEntries s (s.checkPeerCache n) :=
  KeepsEntries.foldl checkEntry_entries _ s

theorem relationChanged_entries (s : State) (n : Byte) (r : Relation) : KeepsEntries s (s.relationChanged n r) := by
  have judged : KeepsEntries s s.upshift.judge := .of ((upshift_keeps s).trans (judge_keeps _))
  unfold State.relationChanged
  dsimp only
  split
  · exact judged.trans (checkPeerCache_entries _ _)
  · exact judged

theorem takeVerdict_entries (s : State) (n : Byte) (rx : FrameRx) (v : VerdictNotice) :
    KeepsEntries s (s.takeVerdict n rx v) := by
  unfold State.takeVerdict
  dsimp only
  split
  · refine KeepsEntries.trans ?_ (checkEntry_entries _ _)
    exact ⟨rfl, rfl⟩
  · exact .refl s

theorem takeBreach_table (s : State) (n : Byte) (b : BreachNotice) : (s.takeBreach n b).peers.table = s.peers.table := by
  unfold State.takeBreach
  split
  · split
    · rw [endNoted_eq]
      rfl
    · rfl
  · split
    · next d _ _ =>
      by_cases full : b.endStamp = none ∧ 32 ≤ s.peers.noted.length
      · rw [noteBreach_full full.1 full.2]
        rfl
      · obtain ⟨closed, open_⟩ := noteBreach_room (s := s) (station := n) (b := b) (d := d) fun none =>
          Nat.lt_of_not_le fun many => full ⟨none, many⟩
        have held : (s.notedHeld n b d).1.peers.table = s.peers.table := by rw [notedHeld_peers]
        by_cases ends : b.endStamp = none
        · rw [open_ ends, State.setPeers_peers]
          exact held
        · rw [closed ends, held]
    · rfl

/-! ### A STATUS taken (R145, R152) -/

/-- The entry of a station as last heard, whatever its relation, streak and store. -/
structure PeerEntry.SameHearing (e x : PeerEntry) : Prop where
  station   : x.station = e.station
  heard     : x.heard = e.heard
  lastHeard : x.lastHeard = e.lastHeard
  status    : x.status = e.status

theorem evaluated_sameHearing (own : List Signature) (e : PeerEntry) : e.SameHearing (e.evaluated own) := by
  unfold PeerEntry.evaluated
  split
  · exact ⟨rfl, rfl, rfl, rfl⟩
  · split <;> exact ⟨rfl, rfl, rfl, rfl⟩

/-- An evaluation leaves the other entries, and of the peer's own what its last frame gave (R152). -/
theorem compare_spec {s : State} {n : Byte} {e : PeerEntry} (known : s.peer? n = some e) :
    (s.compare n).time = s.time ∧ (∃ x, (s.compare n).peer? n = some x ∧ e.SameHearing x) ∧
    ∀ x ∈ s.peers.table, x.station ≠ n → x ∈ (s.compare n).peers.table := by
  let own := s.loudness.ownHistory
  let evaluated := s.setPeers (s.peers.change n (fun x => x.evaluated own))
  have kept : KeepsEntries evaluated (s.compare n) := by
    unfold State.compare
    rw [known]
    dsimp only
    split
    · exact .refl _
    · exact relationChanged_entries _ _ _
  have entry : evaluated.peer? n = some (e.evaluated own) :=
    (peer?_change (fun x => (evaluated_sameHearing own x).station) s).trans (by rw [known]; rfl)
  exact ⟨kept.time, ⟨_, (peer?_of_table kept.table n).trans entry, evaluated_sameHearing own e⟩,
    fun x member other => kept.table ▸ mem_change member other⟩

/-- The time a peer's STATUS tells makes shelf time step (R32, R34). -/
def State.PeerSteps (s : State) (n : Byte) (c : TimeClass) (senderTime : Nat) (noted : BitVec 64) : Prop :=
  s.time.source = .peer ∧ s.time.followed = some n ∧
    5000 ≤ (senderTime : Int) + (s.time.localCount - noted).toNat - s.time.shelf ∧ (c = .locked ∨ c = .holdover)

theorem takePeerTime_peers {s : State} {n : Byte} {c : TimeClass} {senderTime : Nat} {noted : BitVec 64}
    (steady : ¬ s.PeerSteps n c senderTime noted) : (s.takePeerTime n c senderTime noted).peers = s.peers := by
  by_cases followed : s.time.source = .peer ∧ s.time.followed = some n
  · obtain ⟨corrects, loses⟩ := takePeerTime_followed followed c senderTime noted
    by_cases referenced : c = .locked ∨ c = .holdover
    · have slew : s.offsetOf senderTime noted < 5000 :=
        Int.not_le.mp fun step => steady ⟨followed.1, followed.2, step, referenced⟩
      rw [corrects referenced, correct_slew s slew]
      exact considerPeers_peers _
    · have other : c = .peer ∨ c = .free := by cases c <;> simp_all
      rw [loses other, considerPeers_peers, loseFollowed_peers]
  · have same : s.takePeerTime n c senderTime noted = s.considerPeers := congrArg State.considerPeers (if_neg followed)
    rw [same, considerPeers_peers]

theorem takeStatus_spec {s : State} {n : Byte} {e : PeerEntry} (known : s.peer? n = some e) {rx : FrameRx}
    {senderTime : Nat} {h : StatusHead} (steady : ¬ s.PeerSteps n h.timeClass senderTime rx.noted)
    (tail : Option StatusTail) :
    let t := s.takeStatus n rx senderTime h tail
    (∃ x, t.peer? n = some x ∧ x.heard = e.heard ∧ x.lastHeard = e.lastHeard ∧ x.status = some h.fields) ∧
    ∀ x ∈ s.peers.table, x.station ≠ n → x ∈ t.peers.table := by
  intro t
  let stored := s.setPeers (s.peers.change n (fun x => x.takeStatus h (tailSignatures tail)))
  let evaluates := !(tailSignatures tail).isEmpty && h.serviceId == s.config.serviceId && s.reception.state == .normal
  let compared := if evaluates then stored.compare n else stored
  have entry : stored.peer? n = some (e.takeStatus h (tailSignatures tail)) :=
    (peer?_change (f := fun x => x.takeStatus h (tailSignatures tail)) (fun _ => rfl) s).trans (by rw [known]; rfl)
  obtain ⟨time, ⟨x, found, same⟩, others⟩ : compared.time = s.time ∧
      (∃ x, compared.peer? n = some x ∧ (e.takeStatus h (tailSignatures tail)).SameHearing x) ∧
      ∀ x ∈ s.peers.table, x.station ≠ n → x ∈ compared.peers.table := by
    obtain ⟨time, found, others⟩ := compare_spec entry
    simp only [compared]
    split
    · exact ⟨time, found, fun x member other => others x (mem_change member other) other⟩
    · exact ⟨rfl, ⟨_, entry, ⟨rfl, rfl, rfl, rfl⟩⟩, fun x member other => mem_change member other⟩
  have judged := judge_keeps compared
  have peers : t.peers = compared.judge.peers := takePeerTime_peers (s := compared.judge) (by
    unfold State.PeerSteps
    rw [judged.time, time]
    exact steady)
  have table : t.peers.table = compared.peers.table := (congrArg PeerMonitor.table peers).trans judged.table
  exact ⟨⟨x, (peer?_of_table table n).trans found, same.heard, same.lastHeard, same.status⟩,
    fun x member other => table ▸ others x member other⟩

/-! ### The entry made ready (R144, R149, R153) -/

/-- A state made ready for a sender's notice: its entry HEARD at the frame's stamp, the others kept, the clock kept, and no
sender followed that was not followed before. -/
structure State.ReadyFor (s ready : State) (n : Byte) (stamp : Stamp) (e : PeerEntry) : Prop where
  known      : ready.peer? n = some e
  heard      : e.heard = true
  lastHeard  : e.lastHeard = stamp
  others     : ∀ x ∈ s.peers.table, x.station ≠ n → x ∈ ready.peers.table
  shelf      : ready.time.shelf = s.time.shelf
  localCount : ready.time.localCount = s.time.localCount
  followed   : ready.time.source = .peer → ready.time.followed = some n → s.time.source = .peer ∧ s.time.followed = some n

theorem State.ReadyFor.steady {s ready : State} {n : Byte} {stamp : Stamp} {e : PeerEntry}
    (r : s.ReadyFor ready n stamp e) {c : TimeClass} {senderTime : Nat} {noted : BitVec 64}
    (steady : ¬ s.PeerSteps n c senderTime noted) : ¬ ready.PeerSteps n c senderTime noted := by
  rintro ⟨peer, followed, step, cls⟩
  obtain ⟨peer, followed⟩ := r.followed peer followed
  exact steady ⟨peer, followed, by rwa [← r.shelf, ← r.localCount], cls⟩

/-- An entry as a frame refreshes it (R144). -/
def PeerEntry.refreshed (e : PeerEntry) (stamp : Stamp) : PeerEntry := { e with lastHeard := stamp, heard := true }

theorem refreshPeer_eq (s : State) (e : PeerEntry) (stamp : Stamp) : s.refreshPeer e stamp =
    if e.heard then s.setPeers (s.peers.change e.station (fun x => x.refreshed stamp))
    else (s.setPeers (s.peers.change e.station (fun x => x.refreshed stamp))).judge := rfl

theorem refreshPeer_ready {s : State} {n : Byte} {e : PeerEntry} (known : s.peer? n = some e) (stamp : Stamp) :
    s.ReadyFor (s.refreshPeer e stamp) n stamp (e.refreshed stamp) := by
  let t := s.setPeers (s.peers.change n (fun x => x.refreshed stamp))
  have kept : KeepsEntries t (s.refreshPeer e stamp) := by
    rw [refreshPeer_eq, peer?_station known]
    split
    · exact .refl _
    · exact .of (judge_keeps _)
  have entry : t.peer? n = some (e.refreshed stamp) :=
    (peer?_change (f := fun x => x.refreshed stamp) (fun _ => rfl) s).trans (by rw [known]; rfl)
  exact { known := (peer?_of_table kept.table n).trans entry
          heard := rfl
          lastHeard := rfl
          others := fun x member other => kept.table ▸ mem_change member other
          shelf := congrArg TimeBase.shelf kept.time
          localCount := congrArg TimeBase.localCount kept.time
          followed := fun peer followed => ⟨kept.time ▸ peer, kept.time ▸ followed⟩ }

/-- A peer choice follows a candidate of the table, or leaves the followed peer (R31). -/
theorem considerPeers_followed {s : State} {n : Byte} (peer : s.considerPeers.time.source = .peer)
    (followed : s.considerPeers.time.followed = some n) :
    (s.time.source = .peer ∧ s.time.followed = some n) ∨ ∃ e, s.Candidate e ∧ e.station = n := by
  cases choice : s.peerChoice with
  | none =>
    rw [considerPeers_none choice] at peer followed
    exact .inl ⟨peer, followed⟩
  | some e =>
    have candidate : s.Candidate e := (candidate_iff s e).mpr (leastBy_mem _ _ _ choice)
    have chosen : (s.follow e).time.followed = some n → e.station = n := fun h => by
      rw [State.follow, enterSource_time] at h
      exact Option.some.inj h
    cases source : s.time.source with
    | locked =>
      rw [considerPeers_other (.inl source)] at peer followed
      exact .inl ⟨source ▸ peer, followed⟩
    | holdover =>
      rw [considerPeers_other (.inr source)] at peer followed
      exact .inl ⟨source ▸ peer, followed⟩
    | free =>
      rw [considerPeers_free source choice] at followed
      exact .inr ⟨e, candidate, chosen followed⟩
    | peer =>
      rw [considerPeers_peer source choice] at followed
      split at followed
      · exact .inr ⟨e, candidate, chosen followed⟩
      · exact .inl ⟨rfl, followed⟩

/-- The peer table with a new entry, in order of station number (R143). -/
def State.withPeer (s : State) (n : Byte) (stamp : Stamp) : State :=
  s.setPeers { s.peers with
    table := placeBefore (fun y => n.toNat < y.station.toNat) (.fresh n stamp) s.peers.table }

theorem createPeer_eq (s : State) (n : Byte) (stamp : Stamp) :
    s.createPeer n stamp = (s.withPeer n stamp).upshift.considerPeers.judge := rfl

theorem withPeer_mem {s : State} {n : Byte} {stamp : Stamp} {x : PeerEntry} :
    x ∈ (s.withPeer n stamp).peers.table ↔ x = .fresh n stamp ∨ x ∈ s.peers.table :=
  (placeBefore_perm _ _ _).mem_iff.trans List.mem_cons

theorem withPeer_peer? {s : State} {n : Byte} (new : s.peer? n = none) (stamp : Stamp) :
    (s.withPeer n stamp).peer? n = some (.fresh n stamp) := by
  have strangers := (peer?_none_iff s n).mp new
  obtain ⟨ahead, behind, parts, placed, -⟩ :=
    placeBefore_split (fun y : PeerEntry => n.toNat < y.station.toNat) (.fresh n stamp) s.peers.table
  have before : ahead.find? (fun e => e.station == n) = none := by
    refine List.find?_eq_none.mpr fun x member is => ?_
    exact strangers x (parts ▸ List.mem_append_left _ member) (eq_of_beq is)
  have table : (s.withPeer n stamp).peers.table = ahead ++ .fresh n stamp :: behind := placed
  unfold State.peer?
  rw [table, List.find?_append, before, List.find?_cons_of_pos (by simp [PeerEntry.fresh])]
  rfl

theorem createPeer_ready {s : State} {n : Byte} (new : s.peer? n = none) (stamp : Stamp) :
    s.ReadyFor (s.createPeer n stamp) n stamp (.fresh n stamp) := by
  let raised := (s.withPeer n stamp).upshift
  have judged := judge_keeps raised.considerPeers
  have moved := considerPeers_moves raised
  have time : raised.time = s.time := (upshift_keeps (s.withPeer n stamp)).time
  have table : raised.peers.table = (s.withPeer n stamp).peers.table := congrArg PeerMonitor.table (upshift_peers _)
  have final : (s.createPeer n stamp).peers.table = (s.withPeer n stamp).peers.table := by
    rw [createPeer_eq, judged.table, considerPeers_peers]
    exact table
  have clock : (s.createPeer n stamp).time = raised.considerPeers.time := judged.time
  refine { known := (peer?_of_table final n).trans (withPeer_peer? new stamp)
           heard := rfl
           lastHeard := rfl
           others := fun x member other => final ▸ withPeer_mem.mpr (.inr member)
           shelf := by rw [clock, moved.shelf, time]
           localCount := by rw [clock, moved.localCount, time]
           followed := fun peer followed => ?_ }
  rw [clock] at peer followed
  rcases considerPeers_followed peer followed with same | ⟨e, ⟨member, _, _, p, status, _⟩, station⟩
  · rwa [time] at same
  · rcases withPeer_mem.mp (table ▸ member) with rfl | old
    · exact nomatch status
    · exact absurd station ((peer?_none_iff s n).mp new e old)

/-! ### What takes a notice (R144, step 3) -/

/-- What acts on a notice, by its kind (R144, step 3). -/
theorem actOn_cases (s : State) (f : ReceivedFrame) (rx : FrameRx) :
    (∀ h tail, f.notice = .status h tail → s.actOn f rx = s.takeStatus f.sender rx f.senderTime h tail) ∧
    (∀ b, f.notice = .breach b → s.actOn f rx = s.takeBreach f.sender b) ∧
    (∀ v, f.notice = .verdict v → s.actOn f rx = s.takeVerdict f.sender rx v) ∧
    (f.notice = .withdraw → s.actOn f rx = s.removePeer f.sender) := by
  unfold State.actOn
  refine ⟨fun h tail notice => ?_, fun b notice => ?_, fun v notice => ?_, fun notice => ?_⟩ <;> rw [notice]

/-- A BREACH or VERDICT notice leaves the peer table (R149, R156). -/
theorem actOn_event {s : State} {f : ReceivedFrame} (stays : f.notice ≠ .withdraw)
    (event : ∀ h tail, f.notice ≠ .status h tail) (rx : FrameRx) : (s.actOn f rx).peers.table = s.peers.table := by
  obtain ⟨-, breach, verdict, -⟩ := actOn_cases s f rx
  cases notice : f.notice with
  | withdraw => exact absurd notice stays
  | status h tail => exact absurd notice (event h tail)
  | breach b =>
    rw [breach b notice]
    exact takeBreach_table s f.sender b
  | verdict v =>
    rw [verdict v notice]
    exact (takeVerdict_entries s f.sender rx v).table

/-- Behind a STATUS, BREACH or VERDICT notice that steps no time the sender's entry is HEARD as it was made ready, and the other
entries are kept. -/
theorem actOn_spec {s : State} {f : ReceivedFrame} {rx : FrameRx} {e : PeerEntry} (known : s.peer? f.sender = some e)
    (stays : f.notice ≠ .withdraw)
    (steady : ∀ h tail, f.notice = .status h tail → ¬ s.PeerSteps f.sender h.timeClass f.senderTime rx.noted) :
    ∃ x, (s.actOn f rx).peer? f.sender = some x ∧ x.heard = e.heard ∧ x.lastHeard = e.lastHeard ∧
      (∀ y ∈ s.peers.table, y.station ≠ f.sender → y ∈ (s.actOn f rx).peers.table) ∧
      ((∀ h tail, f.notice ≠ .status h tail) → x = e) ∧
      (∀ h tail, f.notice = .status h tail → x.status = some h.fields) := by
  by_cases status : ∃ h tail, f.notice = .status h tail
  · obtain ⟨h, tail, notice⟩ := status
    obtain ⟨⟨x, found, heard, lastHeard, fields⟩, others⟩ := takeStatus_spec known (steady h tail notice) tail
    rw [(actOn_cases s f rx).1 h tail notice]
    refine ⟨x, found, heard, lastHeard, others, fun event => absurd notice (event h tail), fun h' tail' notice' => ?_⟩
    obtain ⟨rfl, -⟩ := Notice.status.inj (notice.symm.trans notice')
    exact fields
  · have event : ∀ h tail, f.notice ≠ .status h tail := fun h tail notice => status ⟨h, tail, notice⟩
    have table := actOn_event (s := s) stays event rx
    exact ⟨e, (peer?_of_table table _).trans known, rfl, rfl, fun y member _ => table ▸ member, fun _ => rfl,
      fun h tail notice => absurd notice (event h tail)⟩

/-- The lists a peer is dropped from (R148, step 2). -/
theorem dropPeer_spec (s : State) (n : Byte) :
    (s.dropPeer n).peers.table = s.peers.table.filter (fun e => e.station != n) ∧
    (s.dropPeer n).peers.cache = s.peers.cache.filter (fun e => e.sender != n) ∧
    (s.dropPeer n).peers.pendingVerdicts = s.peers.pendingVerdicts ∧ ∀ x ∈ (s.dropPeer n).peers.noted, x.peer ≠ n := by
  have ended := loseAllNoted_keeps (s.peers.noted.filter (fun e => e.peer == n)) s
  unfold State.dropPeer
  dsimp only
  rw [State.setPeers_peers, ended.table, ended.cache]
  exact ⟨rfl, rfl, ended.proxies, fun x member => by simpa using List.of_mem_filter member⟩

/-- A peer removed leaves the table, the noted breaches and the cache; its pending verdicts wait on (R148). -/
theorem removePeer_spec (s : State) (n : Byte) :
    let t := s.removePeer n
    t.peer? n = none ∧ (∀ x ∈ t.peers.noted, x.peer ≠ n) ∧ (∀ x ∈ t.peers.cache, x.sender ≠ n) ∧
    (∀ x ∈ s.peers.table, x.station ≠ n → x ∈ t.peers.table) ∧
    t.peers.pendingVerdicts = s.peers.pendingVerdicts := by
  intro t
  let lost := (s.dropPeer n).upshift.loseFollowed n
  have peers : lost.considerPeers.peers = (s.dropPeer n).peers := by
    rw [considerPeers_peers, loseFollowed_peers, upshift_peers]
  have judged := judge_keeps lost.considerPeers
  have removed : t = lost.considerPeers.judge := rfl
  obtain ⟨table, cache, pending, noted⟩ := dropPeer_spec s n
  rw [← peers, ← judged.table, ← removed] at table
  rw [← peers, ← judged.cache, ← removed] at cache
  rw [← peers, ← judged.proxies, ← removed] at pending
  rw [← peers, ← judge_noted, ← removed] at noted
  refine ⟨(peer?_none_iff t n).mpr fun x member => ?_, noted, fun x member => ?_, fun x member other => ?_, pending⟩
  · rw [table] at member
    simpa using List.of_mem_filter member
  · rw [cache] at member
    simpa using List.of_mem_filter member
  · rw [table]
    exact List.mem_filter.mpr ⟨member, by simpa using other⟩

/-! ### A frame of another station (R144) -/

section Taken

variable {s : State} {f : ReceivedFrame} (rx : FrameRx)

theorem takeFrame_known {e : PeerEntry} (known : s.peer? f.sender = some e) :
    s.takeFrame f rx = (s.refreshPeer e rx.stamp).actOn f rx := by
  unfold State.takeFrame
  rw [known]

theorem takeFrame_stranger (new : s.peer? f.sender = none) (leaves : f.notice = .withdraw) : s.takeFrame f rx = s := by
  unfold State.takeFrame
  rw [new]
  exact if_pos (f.notice.isWithdraw_iff.mpr leaves)

theorem takeFrame_new (new : s.peer? f.sender = none) (stays : f.notice ≠ .withdraw) : s.takeFrame f rx =
    if s.peers.table.length < 15 then (s.createPeer f.sender rx.stamp).actOn f rx
    else s.setPeers { s.peers with overflow := addCount s.peers.overflow 1 } := by
  unfold State.takeFrame
  rw [new]
  exact if_neg (mt f.notice.isWithdraw_iff.mp stays)

theorem takeFrame_created (new : s.peer? f.sender = none) (stays : f.notice ≠ .withdraw)
    (room : s.peers.table.length < 15) : s.takeFrame f rx = (s.createPeer f.sender rx.stamp).actOn f rx :=
  (takeFrame_new rx new stays).trans (if_pos room)

theorem takeFrame_full (new : s.peer? f.sender = none) (stays : f.notice ≠ .withdraw)
    (full : 15 ≤ s.peers.table.length) :
    s.takeFrame f rx = s.setPeers { s.peers with overflow := addCount s.peers.overflow 1 } :=
  (takeFrame_new rx new stays).trans (if_neg (Nat.not_lt.mpr full))

/-- The entry that a notice of a station finds, with what became of the state to have it (R144). -/
theorem takeFrame_ready (stays : f.notice ≠ .withdraw) (room : s.peer? f.sender ≠ none ∨ s.peers.table.length < 15) :
    ∃ ready e, s.takeFrame f rx = ready.actOn f rx ∧ s.ReadyFor ready f.sender rx.stamp e ∧
      (s.peer? f.sender = none → e = .fresh f.sender rx.stamp) := by
  cases known : s.peer? f.sender with
  | none => exact ⟨_, _, takeFrame_created rx known stays (room.resolve_left fun some => some known),
      createPeer_ready known rx.stamp, fun _ => rfl⟩
  | some e => exact ⟨_, _, takeFrame_known rx known, refreshPeer_ready known rx.stamp, nofun⟩

end Taken

/-- A place that is behind all the numbers not above the new one and before a number above it is the place taken. -/
theorem placeBefore_between {α : Type} {later : α → Bool} {x : α} {behind : List α}
    (after : ∀ y, behind.head? = some y → later y = true) : ∀ {ahead : List α}, (∀ y ∈ ahead, later y = false) →
    placeBefore later x (ahead ++ behind) = ahead ++ x :: behind
  | [], _ => by
    cases behind with
    | nil => rfl
    | cons y ys => exact if_pos (after y rfl)
  | y :: ys, before => by
    obtain ⟨first, rest⟩ := List.forall_mem_cons.mp before
    rw [List.cons_append, placeBefore, if_neg (by rw [first]; exact Bool.false_ne_true), placeBefore_between after rest]
    rfl

/-- A station's notice that is not a WITHDRAW, where its entry is or has room, and that steps no shelf time: its entry is HEARD
behind it, and the others are kept (R144). -/
theorem takeFrame_spec {s : State} {f : ReceivedFrame} {rx : FrameRx} (stays : f.notice ≠ .withdraw)
    (room : s.peer? f.sender ≠ none ∨ s.peers.table.length < 15)
    (steady : ∀ h tail, f.notice = .status h tail → ¬ s.PeerSteps f.sender h.timeClass f.senderTime rx.noted) :
    ∃ e, (s.takeFrame f rx).peer? f.sender = some e ∧ e.heard = true ∧ e.lastHeard = rx.stamp ∧
      (∀ x ∈ s.peers.table, x.station ≠ f.sender → x ∈ (s.takeFrame f rx).peers.table) ∧
      (s.peer? f.sender = none → (∀ h tail, f.notice ≠ .status h tail) → e = .fresh f.sender rx.stamp) ∧
      (∀ h tail, f.notice = .status h tail → e.status = some h.fields) := by
  obtain ⟨ready, e, taken, isReady, fresh⟩ := takeFrame_ready rx stays room
  obtain ⟨x, found, heard, lastHeard, others, event, fields⟩ :=
    actOn_spec isReady.known stays fun h tail notice => isReady.steady (steady h tail notice)
  rw [taken]
  exact ⟨x, found, heard.trans isReady.heard, lastHeard.trans isReady.lastHeard,
    fun y member other => others y (isReady.others y member other) other,
    fun new eventful => (event eventful).trans (fresh new), fields⟩

/-- A WITHDRAW of a known station removes it (R144, R148). -/
theorem takeFrame_withdraw {s : State} {f : ReceivedFrame} {rx : FrameRx} (known : s.peer? f.sender ≠ none)
    (leaves : f.notice = .withdraw) :
    let t := s.takeFrame f rx
    t.peer? f.sender = none ∧ (∀ x ∈ t.peers.noted, x.peer ≠ f.sender) ∧ (∀ x ∈ t.peers.cache, x.sender ≠ f.sender) ∧
    (∀ x ∈ s.peers.table, x.station ≠ f.sender → x ∈ t.peers.table) ∧
    t.peers.pendingVerdicts = s.peers.pendingVerdicts := by
  obtain ⟨e, known⟩ := Option.ne_none_iff_exists'.mp known
  have pending : (s.refreshPeer e rx.stamp).peers.pendingVerdicts = s.peers.pendingVerdicts := by
    rw [refreshPeer_eq]
    split
    · rfl
    · exact (judge_keeps _).proxies
  obtain ⟨-, -, -, removes⟩ := actOn_cases (s.refreshPeer e rx.stamp) f rx
  obtain ⟨gone, noted, cache, others, proxies⟩ := removePeer_spec (s.refreshPeer e rx.stamp) f.sender
  rw [takeFrame_known rx known, removes leaves]
  exact ⟨gone, noted, cache, fun x member other => others x ((refreshPeer_ready known rx.stamp).others x member other) other,
    proxies.trans pending⟩

/-- The entry that a new station gets stands between the numbers that are not above its own and those that are (R143). -/
theorem withPeer_between {s : State} {n : Byte} {ahead behind : List PeerEntry} (stamp : Stamp)
    (parts : s.peers.table = ahead ++ behind) (before : ∀ y ∈ ahead, y.station.toNat ≤ n.toNat)
    (after : ∀ y, behind.head? = some y → n.toNat < y.station.toNat) :
    s.withPeer n stamp = s.setPeers { s.peers with table := ahead ++ .fresh n stamp :: behind } := by
  unfold State.withPeer
  rw [parts, placeBefore_between (fun y first => decide_eq_true (after y first))
    fun y member => decide_eq_false (Nat.not_lt.mpr (before y member))]

section Foreign

variable {s : State} {bytes : List Byte} {rx : FrameRx} {f : ReceivedFrame} (live : s.live = true)
  (receiving : s.link.rx = some rx) (whole : rx.overlong = false) (fits : natAt bytes 2 2 ≤ 256)
  (complete : bytes.length = 14 + natAt bytes 2 2) (valid : readFrame? bytes = some f)

include live receiving whole fits complete valid

theorem exec_frameComplete_foreign (foreign : f.sender.toNat ≠ s.startup.config.stationNumber) :
    exec (.frameComplete bytes) s = .next (s.received.takeFrame f rx) := by
  rw [exec_frameComplete_judged live receiving whole fits complete, judgeFrame_foreign (s := s.received) rx valid foreign]

/-- The own number at FRAME_COMPLETE (R125, R190). -/
theorem exec_frameComplete_own (own : f.sender.toNat = s.startup.config.stationNumber) :
    exec (.frameComplete bytes) s = .next (s.received.duplicateHeard rx) := by
  rw [exec_frameComplete_judged live receiving whole fits complete, judgeFrame_own (s := s.received) rx valid own]

end Foreign

/-- What a state ready for a notice does with it (R144, step 3). -/
theorem acts_of_taken {s ready : State} {f : ReceivedFrame} {rx : FrameRx} {outcome : Host.Outcome State Fault Refusal}
    (taken : f.notice ≠ .withdraw ∨ s.peer? f.sender ≠ none → outcome = .next (ready.actOn f rx)) :
    (∀ h tail, f.notice = .status h tail → outcome = .next (ready.takeStatus f.sender rx f.senderTime h tail)) ∧
    (∀ b, f.notice = .breach b → outcome = .next (ready.takeBreach f.sender b)) ∧
    (∀ v, f.notice = .verdict v → outcome = .next (ready.takeVerdict f.sender rx v)) ∧
    (f.notice = .withdraw → s.peer? f.sender ≠ none → outcome = .next (ready.removePeer f.sender)) := by
  obtain ⟨status, breach, verdict, withdraw⟩ := actOn_cases ready f rx
  refine ⟨fun h tail notice => ?_, fun b notice => ?_, fun v notice => ?_, fun notice known => ?_⟩
  · rw [taken (.inl (by rw [notice]; nofun)), status h tail notice]
  · rw [taken (.inl (by rw [notice]; nofun)), breach b notice]
  · rw [taken (.inl (by rw [notice]; nofun)), verdict v notice]
  · rw [taken (.inr known), withdraw notice]

/-! ### The obligation -/

/-- Settles O57: a frame is read exactly when its checks pass (`readFrame?_spec`); the own number is heard
(`duplicateHeard_spec`); another station's entry is made ready (`takeFrame_ready`) and its notice acts behind it
(`actOn_spec`, `removePeer_spec`, `actOn_cases`). -/
theorem frameTaken : Obligations.FrameTaken := by
  unfold Obligations.FrameTaken
  intro steps
  refine ⟨fun bytes => ?validity, rfl, fun bytes b => ?crc, fun s bytes rx live receiving whole header =>
    ⟨exec_frameComplete_overlong live receiving whole header, fun fits complete => ?judged⟩,
    fun s bytes rx f live receiving whole complete fits valid foreign => ?taken⟩
  case validity =>
    intro n kind p coded stamped status breach verdict valid
    have parts : valid ↔ FrameSound bytes ∧ PayloadValid kind p :=
      ⟨fun ⟨crc, sender, length, payload⟩ => ⟨⟨crc, sender, length⟩, payload⟩,
        fun ⟨⟨crc, sender, length⟩, payload⟩ => ⟨crc, sender, length, payload⟩⟩
    rw [parts]
    exact readFrame?_spec bytes
  case crc =>
    intro step
    rw [crc16_concat, crcByte_eq]
    exact congrArg (fun g : BitVec 16 → BitVec 16 => g^[8] _) (funext crcBit_eq)
  case judged =>
    intro received
    have judged := exec_frameComplete_judged live receiving whole fits complete
    refine ⟨fun invalid => ?invalid, fun f valid => ⟨fun own => ?own, fun foreign => ?foreign⟩⟩
    case invalid =>
      rw [judged, judgeFrame_invalid rx invalid]
      rfl
    case own =>
      have heard := exec_frameComplete_own live receiving whole fits complete valid own
      refine ⟨fun listens => ?_, fun other => ?_⟩
      · rw [heard, duplicateHeard_listenOnly (s := s.received) listens]
        rfl
      · exact ⟨_, heard, duplicateHeard_spec (s := s.received) live other rx⟩
    case foreign =>
      have takes := exec_frameComplete_foreign live receiving whole fits complete valid foreign
      refine ⟨fun new leaves => ?stranger, fun new stays full => ?full, fun stays room steady => ?notice,
        fun known leaves => ⟨_, takes, takeFrame_withdraw (s := s.received) known leaves⟩⟩
      case stranger =>
        rw [takes, takeFrame_stranger (s := s.received) rx new leaves]
        rfl
      case full =>
        rw [takes, takeFrame_full (s := s.received) rx new stays full]
        rfl
      case notice =>
        have keepsTime : ∀ h tail, f.notice = .status h tail →
            ¬ s.received.PeerSteps f.sender h.timeClass f.senderTime rx.noted :=
          fun h tail notice ⟨peer, followed, step, reference⟩ => steady ⟨peer, followed, step, h, tail, notice, reference⟩
        obtain ⟨e, found, heard, lastHeard, others, fresh, fields⟩ :=
          takeFrame_spec (s := s.received) (rx := rx) stays room keepsTime
        refine ⟨_, e, takes, found, heard, lastHeard, others, fun new event => ?_, fields⟩
        rw [fresh new event]
        exact ⟨rfl, rfl, rfl, rfl⟩
  case taken =>
    intro received acts
    have takes := exec_frameComplete_foreign live receiving whole fits complete valid foreign
    refine ⟨fun e known => ?known, fun ahead behind new room parts before after => ?new⟩
    case known =>
      intro refreshed
      have ready : s.received.refreshPeer e rx.stamp = if e.heard then refreshed else refreshed.judge := by
        rw [refreshPeer_eq, peer?_station known, change_eq]
        rfl
      refine acts_of_taken fun _ => ?_
      rw [takes, takeFrame_known (s := s.received) rx known, ready]
    case new =>
      refine acts_of_taken fun notice => ?_
      have stays : f.notice ≠ .withdraw := notice.resolve_right fun known => known new
      rw [takes, takeFrame_created (s := s.received) rx new stays room, createPeer_eq,
        withPeer_between (s := s.received) rx.stamp parts before after]
      rfl

end Sys2Proof.Machine
end

section
/-! PROOF. The cross-feed comparison: the place of a signature in a store (R146), the pairs and matches at an offset and the
best of the offsets that fit (R151), and what an evaluation and its change of relation do (R145, R150, R152). Settles
O60. -/

namespace Sys2Proof.Machine

/-! ### The signature store (R146) -/

/-- A signature stands in a list of signatures behind the seconds not above its own and before those above it (R146). -/
def Signature.PlacedIn (g : Signature) (l placed : List Signature) : Prop :=
  ∃ ahead behind, l = ahead ++ behind ∧ placed = ahead ++ g :: behind ∧
    (∀ y ∈ ahead, y.second.toNat ≤ g.second.toNat) ∧ ∀ y, behind.head? = some y → g.second.toNat < y.second.toNat

theorem placeBefore_placedIn (g : Signature) (l : List Signature) :
    g.PlacedIn l (placeBefore (fun y => g.second.toNat < y.second.toNat) g l) := by
  obtain ⟨ahead, behind, parts, placed, before, after⟩ :=
    placeBefore_split (fun y : Signature => g.second.toNat < y.second.toNat) g l
  exact ⟨ahead, behind, parts, placed, fun y early => Nat.le_of_not_lt (of_decide_eq_false (before y early)),
    fun y late => of_decide_eq_true (after y late)⟩

section Placed

variable {g : Signature} {store : List Signature}

/-- A signature of a second that the store has replaces that one (R146). -/
theorem placeSignature_replaces (held : ∃ y ∈ store, y.second = g.second) :
    placeSignature g store = store.map (fun y => if y.second = g.second then g else y) := by
  have any : store.any (fun y => y.second == g.second) = true := by simpa using held
  unfold placeSignature
  dsimp only
  rw [if_pos any]
  simp only [beq_iff_eq]

theorem placeSignature_new (new : ∀ y ∈ store, y.second ≠ g.second) : placeSignature g store =
    if store.length < 16 then placeBefore (fun y => g.second.toNat < y.second.toNat) g store
    else if store.all (fun y => g.second.toNat < y.second.toNat) then store
    else placeBefore (fun y => g.second.toNat < y.second.toNat) g (store.drop 1) := by
  have none : ¬ store.any (fun y => y.second == g.second) = true := by simpa using new
  unfold placeSignature
  exact if_neg none

theorem placeSignature_room (new : ∀ y ∈ store, y.second ≠ g.second) (room : store.length < 16) :
    g.PlacedIn store (placeSignature g store) := by
  rw [placeSignature_new new, if_pos room]
  exact placeBefore_placedIn g store

/-- A full store discards a signature older than all that it holds (R146). -/
theorem placeSignature_oldest (new : ∀ y ∈ store, y.second ≠ g.second) (full : 16 ≤ store.length)
    (oldest : ∀ y ∈ store, g.second.toNat < y.second.toNat) : placeSignature g store = store := by
  have all : store.all (fun y => g.second.toNat < y.second.toNat) = true := by simpa using oldest
  rw [placeSignature_new new, if_neg (Nat.not_lt.mpr full), if_pos all]

/-- A full store gives up its oldest for any other (R146). -/
theorem placeSignature_full (new : ∀ y ∈ store, y.second ≠ g.second) (full : 16 ≤ store.length)
    (later : ∃ y ∈ store, y.second.toNat ≤ g.second.toNat) : g.PlacedIn (store.drop 1) (placeSignature g store) := by
  have some : ¬ store.all (fun y => g.second.toNat < y.second.toNat) = true := by simpa using later
  rw [placeSignature_new new, if_neg (Nat.not_lt.mpr full), if_neg some]
  exact placeBefore_placedIn g (store.drop 1)

end Placed

/-! ### Pairs and matches at an offset (R151) -/

/-- The peer signature that an own signature is paired with at an offset (R151). -/
def partnerAt (store : List Signature) (d : Int) (a : Signature) : Option Signature :=
  store.find? (fun b => (b.second.toNat : Int) = a.second.toNat - d && b.usable)

theorem pairsAt_cons (a : Signature) (own store : List Signature) (d : Int) : pairsAt (a :: own) store d =
    (if a.usable then ((partnerAt store d a).map (fun b => (a, b))).toList else []) ++ pairsAt own store d := by
  unfold pairsAt
  cases usable : a.usable with
  | false => simp [usable]
  | true =>
    rw [List.filter_cons_of_pos usable, List.filterMap_cons, ← partnerAt]
    cases partnerAt store d a <;> rfl

/-- The pairs that pass a test, counted by their own signatures (R151). -/
theorem pairsAt_count (test : Signature → Signature → Bool) (store : List Signature) (d : Int) :
    ∀ own : List Signature, ((pairsAt own store d).filter (fun p => test p.1 p.2)).length =
      (own.filter (fun a => a.usable && (partnerAt store d a).any (test a))).length
  | [] => rfl
  | a :: own => by
    rw [pairsAt_cons, List.filter_append, List.length_append, pairsAt_count test store d own, List.filter_cons]
    cases a.usable with
    | false => simp
    | true =>
      cases partnerAt store d a with
      | none => simp
      | some b => cases passes : test a b <;> simp [passes, Nat.add_comm]

theorem pairCount_eq (own store : List Signature) (d : Int) :
    pairCount own store d = (own.filter (fun a => a.usable && (partnerAt store d a).isSome)).length := by
  have counted := pairsAt_count (fun _ _ => true) store d own
  simpa [pairCount] using counted

theorem trendDifference_eq (a b : Signature) : trendDifference a b =
    ((List.range 10).filter (fun k => a.trend.getLsbD k != b.trend.getLsbD k)).length := by
  simp [trendDifference]

theorem matchCount_eq (own store : List Signature) (d : Int) :
    matchCount own store d = (own.filter (fun a => a.usable && (partnerAt store d a).any (signaturesMatch a))).length :=
  pairsAt_count signaturesMatch store d own

/-! ### The best offset (R151) -/

theorem mem_offsetsTried (d : Int) : d ∈ offsetsTried ↔ -6 ≤ d ∧ d ≤ 6 := by
  simp only [offsetsTried, List.mem_cons, List.not_mem_nil, or_false]
  omega

/-- Of two offsets with as many matches the first is preferred: smaller, or as small and negative (R151). -/
def OffsetPreferred (d x : Int) : Prop := d.natAbs < x.natAbs ∨ (d.natAbs = x.natAbs ∧ d < x)

theorem offsetsTried_preferred : offsetsTried.Pairwise OffsetPreferred := by
  unfold OffsetPreferred
  decide

/-- An offset outdoes another by its matches, or by preference where these are equal (R151). -/
def Outdoes (own store : List Signature) (d x : Int) : Prop :=
  matchCount own store x < matchCount own store d ∨
    (matchCount own store x = matchCount own store d ∧ OffsetPreferred d x)

section Best

variable {own store : List Signature}

theorem Outdoes.le {d x : Int} (h : Outdoes own store d x) : matchCount own store x ≤ matchCount own store d :=
  h.elim Nat.le_of_lt fun same => same.1.le

theorem Outdoes.asymm {d x : Int} (h : Outdoes own store d x) : ¬ Outdoes own store x d := by
  unfold Outdoes OffsetPreferred at *
  omega

theorem bestOf_none_iff (l : List Int) : bestOf own store l = none ↔ l = [] := by
  cases l with
  | nil => exact ⟨fun _ => rfl, fun _ => rfl⟩
  | cons d ds =>
    unfold bestOf
    refine ⟨fun none => ?_, fun empty => nomatch empty⟩
    split at none
    · cases none
    · split at none <;> cases none

/-- The best of a list in order of preference is in it and outdoes the others (R151). -/
theorem bestOf_spec : ∀ {l : List Int} {best : Int}, l.Pairwise OffsetPreferred → bestOf own store l = some best →
    best ∈ l ∧ ∀ x ∈ l, x ≠ best → Outdoes own store best x
  | d :: ds, best, ordered, is => by
    obtain ⟨first, rest⟩ := List.pairwise_cons.mp ordered
    unfold bestOf at is
    split at is
    · next alone =>
      cases is
      rw [(bestOf_none_iff ds).mp alone]
      exact ⟨List.mem_singleton_self _, fun x member other => absurd (List.mem_singleton.mp member) other⟩
    · next e behind =>
      obtain ⟨member, outdoes⟩ := bestOf_spec rest behind
      split at is
      · next enough =>
        cases is
        refine ⟨List.mem_cons_self .., fun x held other => ?_⟩
        have later : x ∈ ds := (List.mem_cons.mp held).resolve_left other
        have below : matchCount own store x ≤ matchCount own store e := by
          by_cases same : x = e
          · rw [same]
          · exact (outdoes x later same).le
        exact (Nat.lt_or_eq_of_le (below.trans enough)).imp_right fun same => ⟨same, first x later⟩
      · next fewer =>
        cases is
        refine ⟨List.mem_cons_of_mem _ member, fun x held other => ?_⟩
        rcases List.mem_cons.mp held with rfl | later
        · exact .inl (Nat.lt_of_not_le fewer)
        · exact outdoes x later other

/-- An offset is tried and fits (R151). -/
def FitsAt (own store : List Signature) (d : Int) : Prop :=
  -6 ≤ d ∧ d ≤ 6 ∧ 4 ≤ pairCount own store d ∧ pairCount own store d ≤ matchCount own store d + 1

theorem mem_fitting (d : Int) : d ∈ offsetsTried.filter (offsetFits own store) ↔ FitsAt own store d := by
  unfold FitsAt
  rw [List.mem_filter, mem_offsetsTried]
  simp [offsetFits, and_assoc]

theorem bestOffset_none_iff : bestOffset own store = none ↔ ∀ d, ¬ FitsAt own store d := by
  unfold bestOffset
  rw [bestOf_none_iff, List.eq_nil_iff_forall_not_mem]
  simp only [mem_fitting]

/-- The fitting offset that outdoes the others is the best (R151). -/
theorem bestOffset_eq {d : Int} (fits : FitsAt own store d)
    (outdoes : ∀ x, FitsAt own store x → x ≠ d → Outdoes own store d x) : bestOffset own store = some d := by
  cases is : bestOffset own store with
  | none => exact absurd fits (bestOffset_none_iff.mp is d)
  | some best =>
    obtain ⟨member, beats⟩ := bestOf_spec (offsetsTried_preferred.filter _) is
    by_cases same : best = d
    · rw [same]
    · exact absurd (beats d ((mem_fitting d).mpr fits) (Ne.symm same))
        (outdoes best ((mem_fitting best).mp member) same).asymm

end Best

/-! ### An evaluation (R152) -/

section Evaluation

variable {own : List Signature} {e : PeerEntry}

theorem evaluated_common {d : Int} (best : bestOffset own e.store = some d) :
    e.evaluated own = { e with relation := .common d, streak := 0 } := by
  unfold PeerEntry.evaluated
  rw [best]

theorem tried_enough_iff : offsetsTried.any (fun d => 4 ≤ pairCount own e.store d) = true ↔
    ∃ d, -6 ≤ d ∧ d ≤ 6 ∧ 4 ≤ pairCount own e.store d := by
  simp [mem_offsetsTried, and_assoc]

theorem evaluated_unfit (unfit : bestOffset own e.store = none)
    (enough : ∃ d, -6 ≤ d ∧ d ≤ 6 ∧ 4 ≤ pairCount own e.store d) : e.evaluated own =
      { e with streak := min (e.streak + 1) 3, relation := if 2 ≤ e.streak then .apart else e.relation } := by
  unfold PeerEntry.evaluated
  rw [unfit]
  exact if_pos (tried_enough_iff.mpr enough)

theorem evaluated_unmeasured (few : ∀ d, -6 ≤ d → d ≤ 6 → pairCount own e.store d < 4) : e.evaluated own = e := by
  have unfit : bestOffset own e.store = none :=
    bestOffset_none_iff.mpr fun d ⟨low, high, enough, _⟩ => Nat.not_le.mpr (few d low high) enough
  unfold PeerEntry.evaluated
  rw [unfit]
  exact if_neg fun some =>
    have ⟨d, low, high, enough⟩ := tried_enough_iff.mp some
    Nat.not_le.mpr (few d low high) enough

end Evaluation

/-! ### What makes an evaluation run, and what it brings (R145, R150, R152) -/

/-- Whether a STATUS notice with these signatures makes an evaluation run (R150). -/
theorem evaluates_iff (s : State) (serviceId : BitVec 16) (signatures : List Signature) :
    (!signatures.isEmpty && serviceId == s.config.serviceId && s.reception.state == .normal) = true ↔
      signatures ≠ [] ∧ serviceId = s.config.serviceId ∧ s.reception.state = .normal := by
  simp [and_assoc]

/-- The state behind steps 1 and 2 of R145. -/
def State.storedStatus (s : State) (station : Byte) (h : StatusHead) (signatures : List Signature) : State :=
  s.setPeers { s.peers with table := s.peers.table.map (fun e =>
    if e.station = station then e.takeStatus h signatures else e) }

theorem takeStatus_eq (s : State) (station : Byte) (rx : FrameRx) (time : Nat) (h : StatusHead)
    (tail : Option StatusTail) : s.takeStatus station rx time h tail =
      (if !(tailSignatures tail).isEmpty && h.serviceId == s.config.serviceId && s.reception.state == .normal then
        (s.storedStatus station h (tailSignatures tail)).compare station
      else s.storedStatus station h (tailSignatures tail)).judge.takePeerTime station h.timeClass time rx.noted := by
  unfold State.takeStatus State.storedStatus
  dsimp only
  rw [change_eq]

theorem compare_absent {s : State} {station : Byte} (absent : s.peer? station = none) : s.compare station = s := by
  unfold State.compare
  rw [absent]

/-- The state with a peer's entry evaluated, its change of relation still to be reported (R152). -/
def State.evaluatedPeer (s : State) (station : Byte) : State :=
  s.setPeers { s.peers with table := s.peers.table.map (fun x =>
    if x.station = station then x.evaluated s.loudness.ownHistory else x) }

theorem compare_known {s : State} {station : Byte} {e : PeerEntry} (known : s.peer? station = some e) :
    s.compare station = if (e.evaluated s.loudness.ownHistory).relation = e.relation then s.evaluatedPeer station
      else (s.evaluatedPeer station).relationChanged station (e.evaluated s.loudness.ownHistory).relation := by
  unfold State.compare State.evaluatedPeer
  rw [known, change_eq]

theorem relationChanged_common (s : State) (station : Byte) (d : Int) :
    s.relationChanged station (.common d) = s.upshift.judge.checkPeerCache station := rfl

theorem relationChanged_other (s : State) (station : Byte) {r : Relation} (other : ∀ d, r ≠ .common d) :
    s.relationChanged station r = s.upshift.judge :=
  if_neg fun common => have ⟨d, is⟩ := (Relation.isCommon_iff r).mp common; other d is

/-! ### The obligation -/

/-- Settles O60: a signature's place (`placeSignature_room` and the lemmas beside it), the best offset (`bestOffset_eq`), the
evaluation's three outcomes, when it runs (`takeStatus_eq`), and what a changed relation brings (`compare_known`). -/
theorem comparison : Obligations.Comparison := by
  unfold Obligations.Comparison
  refine ⟨fun g store => ?store, fun own e => ?evaluation, fun s station rx time h tail => ?status,
    fun s station => ⟨compare_absent, fun e known => ?compare⟩⟩
  case store =>
    exact ⟨placeSignature_replaces, fun new => ⟨placeSignature_room new,
      fun full => ⟨placeSignature_oldest new full, placeSignature_full new full⟩⟩⟩
  case evaluation =>
    intro usable partner differ pairs matched fits
    have pairs_eq : ∀ d, pairs d = pairCount own e.store d := fun d => (pairCount_eq own e.store d).symm
    have matched_eq : ∀ d, matched d = matchCount own e.store d := fun d => by
      rw [matchCount_eq]
      unfold signaturesMatch
      simp only [trendDifference_eq]
      rfl
    have fits_iff : ∀ d, fits d ↔ FitsAt own e.store d := fun d => by
      simp only [fits, FitsAt, pairs_eq, matched_eq]
    clear_value pairs matched fits
    obtain rfl : pairs = pairCount own e.store := funext pairs_eq
    obtain rfl : matched = matchCount own e.store := funext matched_eq
    obtain rfl : fits = FitsAt own e.store := funext fun d => propext (fits_iff d)
    refine ⟨fun d fit best => evaluated_common (bestOffset_eq fit best), fun unfit enough => ?_, evaluated_unmeasured⟩
    rw [evaluated_unfit (bestOffset_none_iff.mpr unfit) enough]
    refine ⟨fun early => ?_, fun third => ?_⟩
    · rw [if_neg (Nat.not_le.mpr early), show min (e.streak + 1) 3 = e.streak + 1 by omega]
    · rw [if_pos third, show min (e.streak + 1) 3 = 3 by omega]
  case status =>
    intro signatures stored runs
    have is : s.takeStatus station rx time h tail = _ := takeStatus_eq s station rx time h tail
    have runs_iff := evaluates_iff s h.serviceId (tailSignatures tail)
    refine ⟨fun run => ?_, fun rest => ?_⟩
    · rw [is, if_pos (runs_iff.mpr run)]
      rfl
    · rw [is, if_neg (mt runs_iff.mp rest)]
      rfl
  case compare =>
    intro own updated
    have is : s.compare station = if (e.evaluated own).relation = e.relation then updated
      else updated.relationChanged station (e.evaluated own).relation := compare_known known
    refine ⟨fun same => is.trans (if_pos same), fun changed => ?_⟩
    rw [is, if_neg changed]
    exact ⟨fun other => relationChanged_other updated station other,
      fun d common => common ▸ relationChanged_common updated station d⟩

end Sys2Proof.Machine
end

section
/-! PROOF. The Peer Monitor's deadlines (R147, R154, R163), the removal of a peer and what it closes (R148), the judgement of the
expected companions (R153, R154) and the closing of CONTENT_DIVERGENT (R155). Settles O59. -/

namespace Sys2Proof.Machine

/-! ### One peer entry changed or gone (R143) -/

section Entries

variable {n x : Byte}

theorem findPeer_other {f : PeerEntry → PeerEntry} (station : ∀ e, (f e).station = e.station) (other : x ≠ n) :
    ∀ l : List PeerEntry, (l.map (fun e => if e.station == n then f e else e)).find? (fun e => e.station == x) =
      l.find? (fun e => e.station == x)
  | [] => rfl
  | e :: l => by
    by_cases changed : e.station = n
    · have skipped : ¬ n = x := Ne.symm other
      simpa [changed, station, skipped] using findPeer_other station other l
    · simp only [List.map_cons, beq_iff_eq, changed, if_false, List.find?_cons]
      split
      · rfl
      · simpa using findPeer_other station other l

/-- The entries of the other stations stay where one station's is changed (R143). -/
theorem peer?_change_other {f : PeerEntry → PeerEntry} (station : ∀ e, (f e).station = e.station) (other : x ≠ n)
    (s : State) : (s.setPeers (s.peers.change n f)).peer? x = s.peer? x := findPeer_other station other s.peers.table

theorem peer?_dropped {s t : State} (table : t.peers.table = s.peers.table.filter (fun e => e.station != n)) :
    t.peer? n = none ∧ ∀ x, x ≠ n → t.peer? x = s.peer? x := by
  refine ⟨(peer?_none_iff t n).mpr fun e member => ?_, fun x other => ?_⟩
  · rw [table] at member
    simpa using List.of_mem_filter member
  · unfold State.peer?
    rw [table, List.find?_filter]
    refine congrArg (fun p => s.peers.table.find? p) (funext fun e => ?_)
    by_cases here : e.station = x <;> simp [here, other]

end Entries

/-! ### PEER_NOTED records closed (R148, R171) -/

/-- A PEER_NOTED record as the loss of its peer leaves it (R148, step 1). -/
def BreachRecord.lostPeer (r : BreachRecord) (stop : Stamp) : BreachRecord :=
  { r with endStamp := some stop, isOpen := false, flags := { r.flags with peerLost := true } }

theorem closePeerNoted_lost (s : State) (n : Nat) (stop : Stamp) :
    s.closePeerNoted n stop false false true = s.setLog { s.log with records := s.log.records.map (fun r =>
      if r.number = n ∧ r.isOpen = true ∧ r.category = .peerNoted then r.lostPeer stop else r) } := by
  unfold State.closePeerNoted BreachLog.change
  congr 2
  refine List.map_congr_left fun r _ => ?_
  by_cases here : r.number = n
  · by_cases open_ : r.isOpen = true ∧ r.category = .peerNoted <;> simp [here, open_, BreachRecord.lostPeer]
  · simp [here]

theorem loseNoted_unrecorded {x : NotedBreach} (unrecorded : x.ownBreach = none) (s : State) :
    s.loseNoted x = s.endHold x.hold s.now := by
  unfold State.loseNoted
  rw [unrecorded]

theorem loseNoted_recorded {x : NotedBreach} {n : Nat} (recorded : x.ownBreach = some n) (s : State) :
    s.loseNoted x = (s.endHold x.hold s.now).setLog { s.log with records := s.log.records.map (fun r =>
      if r.number = n ∧ r.isOpen = true ∧ r.category = .peerNoted then r.lostPeer s.nowStamp else r) } := by
  unfold State.loseNoted
  rw [recorded]
  dsimp only
  rw [closePeerNoted_lost, endHold_rest]
  rfl

theorem loseNoted_peers (s : State) (x : NotedBreach) : (s.loseNoted x).peers = s.peers := by
  cases recorded : x.ownBreach with
  | none => rw [loseNoted_unrecorded recorded, endHold_rest, State.setRecorder_peers]
  | some n => rw [loseNoted_recorded recorded, endHold_rest, State.setLog_peers, State.setRecorder_peers]

/-- No PEER_NOTED record under a breach number is OPEN. -/
def State.NotedClosed (s : State) (n : Nat) : Prop :=
  ∀ r ∈ s.log.records, r.number = n → r.category = .peerNoted → r.isOpen = false

namespace State.NotedClosed

variable {s t : State} {n : Nat}

theorem of_log (log : t.log = s.log) (closed : s.NotedClosed n) : t.NotedClosed n := by
  unfold State.NotedClosed
  rwa [log]

/-- Records changed without opening any stay closed. -/
theorem of_map {f : BreachRecord → BreachRecord} (records : t.log.records = s.log.records.map f)
    (keeps : ∀ r, (f r).number = r.number ∧ (f r).category = r.category ∧ (r.isOpen = false → (f r).isOpen = false))
    (closed : s.NotedClosed n) : t.NotedClosed n := by
  intro r member isNumber isNoted
  obtain ⟨old, held, rfl⟩ := List.mem_map.mp (records ▸ member)
  obtain ⟨number, category, shut⟩ := keeps old
  exact shut (closed old held (number ▸ isNumber) (category ▸ isNoted))

/-- Records of other categories come without harm (R169). -/
theorem raise {q : BreachRequest} (plain : q.category.retains = false) (other : q.category ≠ .peerNoted)
    (closed : s.NotedClosed n) : (s.raise q).NotedClosed n := by
  intro r member number noted
  obtain ⟨-, -, origin⟩ := raise_log plain s
  rcases origin r member with old | ⟨m, k, rfl⟩
  · exact closed r old number noted
  · exact absurd noted other

/-- A close request opens no record (R170). -/
theorem closeBreach (category : Category) (stop : Stamp) (figure : Option Int) (impaired : Bool)
    (closed : s.NotedClosed n) : (s.closeBreach category stop figure impaired).NotedClosed n := by
  cases found : s.log.cause? category with
  | none => rwa [closeBreach_none found]
  | some c =>
    have records : (s.closeBreach category stop figure impaired).log.records =
        (s.log.closedCause c stop figure impaired).records := by
      rw [closeBreach_some stop figure impaired found, causeClosed_eq]
      rfl
    unfold BreachLog.closedCause at records
    split at records
    · refine closed.of_map records fun r => ?_
      split
      · exact ⟨rfl, rfl, fun _ => rfl⟩
      · exact ⟨rfl, rfl, id⟩
    · exact closed.of_map (f := id) (records.trans (List.map_id _).symm) fun _ => ⟨rfl, rfl, id⟩

theorem enterSource (c : TimeClass) (closed : s.NotedClosed n) : (s.enterSource c).NotedClosed n := by
  unfold State.enterSource State.reportSource
  split
  · split
    · exact raise (by rfl) nofun (closed.of_log (by rfl))
    · split
      · exact closeBreach _ _ _ _ (closed.of_log (by rfl))
      · exact closed.of_log (by rfl)
  · exact closed.of_log (by rfl)

theorem follow (e : PeerEntry) (closed : s.NotedClosed n) : (s.follow e).NotedClosed n :=
  enterSource .peer (closed.of_log (by rfl))

theorem considerPeers (closed : s.NotedClosed n) : s.considerPeers.NotedClosed n := by
  unfold State.considerPeers
  split
  · exact closed.follow _
  · split
    · exact closed.follow _
    · exact closed
  · exact closed

theorem loseFollowed (station : Byte) (closed : s.NotedClosed n) : (s.loseFollowed station).NotedClosed n := by
  unfold State.loseFollowed
  split
  · split
    · exact closed.follow _
    · exact closed.enterSource _
  · exact closed

theorem judge (closed : s.NotedClosed n) : s.judge.NotedClosed n := by
  unfold State.judge State.closeDivergent
  dsimp only
  split
  · split
    · exact closeBreach _ _ _ _ (closed.of_log (by rfl))
    · exact closed.of_log (by rfl)
  · exact closed.of_log (by rfl)

/-- The loss of a noted breach opens no record (R148, step 1). -/
theorem loseNoted (x : NotedBreach) (closed : s.NotedClosed n) : (s.loseNoted x).NotedClosed n := by
  cases recorded : x.ownBreach with
  | none =>
    refine closed.of_log ?_
    rw [loseNoted_unrecorded recorded, endHold_rest, State.setRecorder_log]
  | some m =>
    rw [loseNoted_recorded recorded]
    refine closed.of_map rfl fun r => ?_
    split
    · exact ⟨rfl, rfl, fun _ => rfl⟩
    · exact ⟨rfl, rfl, id⟩

theorem loseAllNoted : ∀ (l : List NotedBreach) {s : State}, s.NotedClosed n →
    (l.foldl (fun t e => t.loseNoted e) s).NotedClosed n
  | [], _, closed => closed
  | x :: l, _, closed => loseAllNoted l (closed.loseNoted x)

end State.NotedClosed

/-- The loss of a noted breach closes its record (R148, step 1). -/
theorem loseNoted_closes {x : NotedBreach} {n : Nat} (recorded : x.ownBreach = some n) (s : State) :
    (s.loseNoted x).NotedClosed n := by
  rw [loseNoted_recorded recorded]
  intro r member number noted
  obtain ⟨old, -, rfl⟩ := List.mem_map.mp member
  by_cases lost : old.number = n ∧ old.isOpen = true ∧ old.category = .peerNoted
  · rw [if_pos lost]
    rfl
  · rw [if_neg lost] at number noted ⊢
    exact Bool.eq_false_iff.mpr fun open_ => lost ⟨number, open_, noted⟩

theorem loseAllNoted_closes {x : NotedBreach} {n : Nat} (recorded : x.ownBreach = some n) :
    ∀ {l : List NotedBreach} (s : State), x ∈ l → (l.foldl (fun t e => t.loseNoted e) s).NotedClosed n
  | [], _, member => absurd member List.not_mem_nil
  | y :: l, s, member => by
    rcases List.mem_cons.mp member with rfl | later
    · exact .loseAllNoted l (loseNoted_closes recorded s)
    · exact loseAllNoted_closes recorded (s.loseNoted y) later

/-! ### A peer removed (R148) -/

theorem loseAllNoted_peers : ∀ (l : List NotedBreach) (s : State),
    (l.foldl (fun t e => t.loseNoted e) s).peers = s.peers
  | [], _ => rfl
  | x :: l, s => (loseAllNoted_peers l (s.loseNoted x)).trans (loseNoted_peers s x)

theorem dropPeer_peers (s : State) (n : Byte) : (s.dropPeer n).peers = { s.peers with
    noted := s.peers.noted.filter (fun e => e.peer != n)
    cache := s.peers.cache.filter (fun e => e.sender != n)
    table := s.peers.table.filter (fun e => e.station != n) } := by
  unfold State.dropPeer
  dsimp only
  rw [State.setPeers_peers, loseAllNoted_peers]

theorem removePeer_eq (s : State) (n : Byte) :
    s.removePeer n = ((((s.dropPeer n).upshift).loseFollowed n).considerPeers).judge := rfl

/-- The lists behind a removal: the peer's entry, noted breaches and cache entries are gone (R148). -/
theorem removePeer_lists (s : State) (n : Byte) :
    let t := s.removePeer n
    t.peers.table = s.peers.table.filter (fun e => e.station != n) ∧
    t.peers.noted = s.peers.noted.filter (fun e => e.peer != n) ∧
    t.peers.cache = s.peers.cache.filter (fun e => e.sender != n) ∧
    t.peers.pendingVerdicts = s.peers.pendingVerdicts := by
  intro t
  let lost := (s.dropPeer n).upshift.loseFollowed n
  have peers : lost.considerPeers.peers = (s.dropPeer n).peers := by
    rw [considerPeers_peers, loseFollowed_peers, upshift_peers]
  have judged := judge_keeps lost.considerPeers
  have removed : t = lost.considerPeers.judge := removePeer_eq s n
  rw [removed, judged.table, judge_noted, judged.cache, judged.proxies, peers, dropPeer_peers]
  exact ⟨rfl, rfl, rfl, rfl⟩

/-- A removal closes the records of the peer's noted breaches (R148, step 1). -/
theorem removePeer_closes {s : State} {n : Byte} {x : NotedBreach} {m : Nat} (listed : x ∈ s.peers.noted)
    (peer : x.peer = n) (recorded : x.ownBreach = some m) : (s.removePeer n).NotedClosed m := by
  have ended : ((s.peers.noted.filter (fun e => e.peer == n)).foldl (fun t e => t.loseNoted e) s).NotedClosed m :=
    loseAllNoted_closes recorded s (List.mem_filter.mpr ⟨listed, by simpa using peer⟩)
  have dropped : (s.dropPeer n).NotedClosed m := ended.of_log (by rfl)
  have reported : (s.dropPeer n).upshift.NotedClosed m := dropped.of_log (upshift_log _)
  rw [removePeer_eq]
  exact ((reported.loseFollowed n).considerPeers).judge

/-! ### Stale and removed (R147) -/

theorem becomeStale_eq (s : State) (n : Byte) : s.becomeStale n = (s.setPeers { s.peers with
    table := s.peers.table.map (fun e => if e.station = n then { e with heard := false } else e) }).judge := by
  unfold State.becomeStale
  rw [change_eq]

/-- What STALE leaves of the peers: the other entries, the noted breaches, the cache and the pending verdicts (R147). -/
theorem becomeStale_spec (s : State) (n : Byte) :
    let t := s.becomeStale n
    t.peer? n = (s.peer? n).map (fun e => { e with heard := false }) ∧ (∀ x, x ≠ n → t.peer? x = s.peer? x) ∧
    t.peers.noted = s.peers.noted ∧ t.peers.cache = s.peers.cache ∧
    t.peers.pendingVerdicts = s.peers.pendingVerdicts := by
  intro t
  let silent := fun e : PeerEntry => { e with heard := false }
  let changed := s.setPeers (s.peers.change n silent)
  have judged := judge_keeps changed
  have stale : t = changed.judge := rfl
  rw [stale]
  exact ⟨(peer?_of_table judged.table n).trans (peer?_change (f := silent) (fun _ => rfl) s),
    fun x other => (peer?_of_table judged.table x).trans (peer?_change_other (f := silent) (fun _ => rfl) other s),
    judge_noted changed, judged.cache, judged.proxies⟩

section Deadlines

variable {s : State} {n : Byte}

theorem peerStaleDeadline_absent (absent : s.peer? n = none) : s.peerStaleDeadline n = s := by
  unfold State.peerStaleDeadline
  rw [absent]

theorem peerRemovalDeadline_absent (absent : s.peer? n = none) : s.peerRemovalDeadline n = s := by
  unfold State.peerRemovalDeadline
  rw [absent]

variable {e : PeerEntry} (known : s.peer? n = some e)

include known

theorem peerStaleDeadline_known : s.peerStaleDeadline n =
    if s.startup.station ≠ .fault ∧ e.heard = true ∧ e.lastHeard.time + 3 * e.period ≤ s.now then s.becomeStale n
    else s := by
  unfold State.peerStaleDeadline
  rw [known]
  rfl

theorem peerRemovalDeadline_known : s.peerRemovalDeadline n =
    if s.startup.station ≠ .fault ∧ e.lastHeard.time + 6 * e.period ≤ s.now then
      (if e.heard then s.becomeStale n else s).removePeer n
    else s := by
  unfold State.peerRemovalDeadline
  rw [known]
  rfl

end Deadlines

theorem peerStaleDeadline_fault {s : State} (fault : s.startup.station = .fault) (n : Byte) :
    s.peerStaleDeadline n = s := by
  cases known : s.peer? n with
  | none => exact peerStaleDeadline_absent known
  | some e => exact (peerStaleDeadline_known known).trans (if_neg fun ⟨runs, _⟩ => runs fault)

theorem peerRemovalDeadline_fault {s : State} (fault : s.startup.station = .fault) (n : Byte) :
    s.peerRemovalDeadline n = s := by
  cases known : s.peer? n with
  | none => exact peerRemovalDeadline_absent known
  | some e => exact (peerRemovalDeadline_known known).trans (if_neg fun ⟨runs, _⟩ => runs fault)

/-- A station's entry, noted breaches and cache entries are gone from the peers of a state, the records of those breaches closed
(R148). -/
structure State.PeerGone (s t : State) (n : Byte) : Prop where
  entry   : t.peer? n = none
  others  : ∀ x, x ≠ n → t.peer? x = s.peer? x
  noted   : t.peers.noted = s.peers.noted.filter (fun x => x.peer != n)
  cache   : t.peers.cache = s.peers.cache.filter (fun x => x.sender != n)
  pending : t.peers.pendingVerdicts = s.peers.pendingVerdicts
  closed  : ∀ x ∈ s.peers.noted, x.peer = n → ∀ m, x.ownBreach = some m → t.NotedClosed m

theorem removePeer_gone (s : State) (n : Byte) : s.PeerGone (s.removePeer n) n := by
  obtain ⟨table, noted, cache, pending⟩ := removePeer_lists s n
  obtain ⟨entry, others⟩ := peer?_dropped table
  exact ⟨entry, others, noted, cache, pending, fun _ listed peer _ recorded => removePeer_closes listed peer recorded⟩

/-- A peer that becomes STALE at its removal is gone as one that was STALE before (R147). -/
theorem staleRemoved_gone (s : State) (n : Byte) : s.PeerGone ((s.becomeStale n).removePeer n) n := by
  obtain ⟨-, others, noted, cache, pending⟩ := becomeStale_spec s n
  have gone := removePeer_gone (s.becomeStale n) n
  exact {
    entry := gone.entry
    others := fun x other => (gone.others x other).trans (others x other)
    noted := by rw [gone.noted, noted]
    cache := by rw [gone.cache, cache]
    pending := gone.pending.trans pending
    closed := by
      rw [← noted]
      exact gone.closed }

/-- What a removal at the removal deadline leaves, whether the entry was HEARD or not (R147, R148). -/
theorem dueRemoved_gone (s : State) (n : Byte) (heard : Bool) :
    s.PeerGone ((if heard then s.becomeStale n else s).removePeer n) n := by
  cases heard with
  | false => exact removePeer_gone s n
  | true => exact staleRemoved_gone s n

/-! ### The divergence timer's expiry (R154, R155) -/

/-- A hold placed or refused changes of the Peer Monitor only the links of noted breaches (R159). -/
theorem holdForRecord_peers (s : State) (q : BreachRequest) (number : Option Nat) :
    ∃ noted, (s.holdForRecord q number).peers = { s.peers with noted := noted } := by
  have refused : (s.createHoldRefused number).peers = s.peers := by
    rw [createHoldRefused_eq, upshift_peers, (enterRecord_reports ..).peers]
  by_cases plain : q.category.retains = false ∨ q.origin ≠ .own
  · exact ⟨s.peers.noted, by rw [holdForRecord_plain plain]⟩
  · rw [not_or, Bool.not_eq_false, not_not] at plain
    obtain ⟨whenRefused, whenPlaced⟩ := holdForRecord_own plain.1 plain.2 s number
    rcases placeHold_cases s .own q.startStamp.time (q.endStamp.map (fun x => x.time)) number with
      ⟨-, same⟩ | ⟨-, same⟩ | ⟨-, evicted, slot, -, -, placed⟩
    · exact ⟨s.peers.noted, by rw [whenRefused (congrArg Prod.snd same), refused]⟩
    · exact ⟨s.peers.noted, by rw [whenRefused (congrArg Prod.snd same), refused]⟩
    · rw [whenPlaced _ (congrArg Prod.snd placed), placed]
      exact ⟨_, rfl⟩

theorem raise_peers (s : State) (q : BreachRequest) : ∃ noted, (s.raise q).peers = { s.peers with noted := noted } := by
  obtain ⟨noted, held⟩ := holdForRecord_peers (s.enterRecord q).1 q
    (if (s.enterRecord q).2.2 then some (s.enterRecord q).2.1 else none)
  exact ⟨noted, ((announce_reports ..).peers.trans held).trans (by rw [(enterRecord_reports s q).peers])⟩

theorem divergenceExpiry_none {s : State} (stopped : s.peers.divergence = none) : s.divergenceExpiry = s := by
  unfold State.divergenceExpiry
  rw [stopped]

theorem divergenceExpiry_some {s : State} {start : Stamp} (runs : s.peers.divergence = some start) :
    s.divergenceExpiry =
      if s.startup.station ≠ .fault ∧ start.time + s.startup.config.divergenceTime * 1000000 ≤ s.now then
        (s.setPeers { s.peers with divergence := none, divergentOpen := true }).raise
          { category := .contentDivergent, startStamp := start }
      else s := by
  unfold State.divergenceExpiry
  rw [runs]
  rfl

theorem divergenceExpiry_fault {s : State} (fault : s.startup.station = .fault) : s.divergenceExpiry = s := by
  cases timer : s.peers.divergence with
  | none => exact divergenceExpiry_none timer
  | some start => exact (divergenceExpiry_some timer).trans (if_neg fun ⟨live, _⟩ => live fault)

/-- CONTENT_DIVERGENT opened, backdated to the timer's start (R154, R155). -/
theorem divergenceExpiry_opens {s : State} {start : Stamp} (runs : s.peers.divergence = some start)
    (live : s.startup.station ≠ .fault) (due : start.time + s.startup.config.divergenceTime * 1000000 ≤ s.now) :
    s.divergenceExpiry.peers.divergence = none ∧ s.divergenceExpiry.peers.divergentOpen = true ∧
    KeepsMeasured s s.divergenceExpiry ∧
    (s.log.records.length < 127 → ∃ r ∈ s.divergenceExpiry.log.records, r.category = .contentDivergent ∧
      r.isOpen = true ∧ r.startStamp = start ∧ r.figure = none ∧ r.segmentId = s.segments.current.segmentId) := by
  let stopped := s.setPeers { s.peers with divergence := none, divergentOpen := true }
  let q : BreachRequest := { category := .contentDivergent, startStamp := start }
  have opens : s.divergenceExpiry = stopped.raise q := (divergenceExpiry_some runs).trans (if_pos ⟨live, due⟩)
  obtain ⟨noted, peers⟩ := raise_peers stopped q
  rw [opens]
  refine ⟨congrArg PeerMonitor.divergence peers, congrArg PeerMonitor.divergentOpen peers,
    ((KeepsMeasured.refl s).setPeers _ (by rfl) (by rfl) (by rfl) (by rfl)).trans (raise_keeps stopped q), fun room => ?_⟩
  obtain ⟨r, member, told⟩ := raise_told (s := stopped) room q
  exact ⟨r, member, congrArg BreachRecord.category told, congrArg BreachRecord.isOpen told,
    congrArg BreachRecord.startStamp told, congrArg BreachRecord.figure told, congrArg BreachRecord.segmentId told⟩

/-! ### A pending verdict's deadline (R163) -/

theorem proxyDeadline_early {s : State} (early : ∀ x ∈ s.peers.pendingVerdicts, s.now < x.deadline) :
    s.proxyDeadline = s := by
  have none : s.peers.pendingVerdicts.find? (fun e => e.deadline ≤ s.now) = none :=
    List.find?_eq_none.mpr fun x member => by simpa using early x member
  unfold State.proxyDeadline
  rw [none]

theorem proxyDeadline_fault {s : State} (fault : s.startup.station = .fault) : s.proxyDeadline = s := by
  unfold State.proxyDeadline
  split
  · rfl
  · exact if_neg fun live => live fault

/-- The first pending verdict whose deadline has been reached leaves the list and is issued UNMEASURED (R163). -/
theorem proxyDeadline_due {s : State} {older newer : List PendingVerdict} {e : PendingVerdict}
    (list : s.peers.pendingVerdicts = older ++ e :: newer) (early : ∀ x ∈ older, s.now < x.deadline)
    (due : e.deadline ≤ s.now) (live : s.startup.station ≠ .fault) :
    s.proxyDeadline = (s.withPending (older ++ newer)).issueUnmeasured e.verdict := by
  have found : s.peers.pendingVerdicts.find? (fun x => x.deadline ≤ s.now) = some e :=
    List.find?_eq_some_iff_append.mpr ⟨decide_eq_true due, older, newer, list, fun x member => by
      simpa using early x member⟩
  have absent : e ∉ older := fun member => Nat.not_le.mpr (early e member) due
  have left : s.peers.pendingVerdicts.erase e = older ++ newer := by
    rw [list, List.erase_append_right _ absent, List.erase_cons_head]
  unfold State.proxyDeadline
  rw [found]
  dsimp only
  rw [if_pos live, State.resolveUnmeasured, PeerMonitor.takePending, left]
  rfl

theorem issueUnmeasured_peers (s : State) (v : Verdict) : (s.issueUnmeasured v).peers = s.peers := by
  rw [issueUnmeasured_eq, (raise_reports (q := v.lost) rfl _).peers, issue_peers]

/-- The MEASUREMENT_LOST record of a verdict carries the verdict's class and scope too (R75, R166). -/
theorem issueUnmeasured_names {s : State} (room : s.log.records.length < 128) (v : Verdict) :
    ∃ r ∈ (s.issueUnmeasured v).log.records, r.category = .measurementLost ∧ r.startStamp = v.startStamp ∧
      r.endStamp = some v.endStamp ∧ r.figure = none ∧ r.segmentId = v.id ∧ r.cls = v.cls ∧ r.scope = v.scope := by
  rw [← issue_log s { v with source := .unmeasured }] at room
  rw [issueUnmeasured_eq, raise_records (q := v.lost) rfl room]
  exact ⟨_, List.mem_append_right _ (List.mem_singleton_self _), rfl, rfl, rfl, rfl, rfl, rfl, rfl⟩

/-! ### The judgement (R153 to R155) -/

/-- The expected companions (R153). -/
theorem isCompanion_iff (s : State) (e : PeerEntry) : s.isCompanion e = true ↔ e.heard = true ∧ ∃ p, e.status = some p ∧
    p.serviceId = s.config.serviceId ∧ p.reception = .normal ∧
    (s.segments.current.scope = .national → p.scope = .national) ∧
    (s.segments.current.scope = .regional → p.regionGroup = s.config.regionGroup) := by
  unfold State.isCompanion scopeAgrees
  cases e.status with
  | none => simp
  | some p => cases s.segments.current.scope <;> simp [and_assoc]

theorem agreesWithSomeone_iff (e : PeerEntry) :
    e.agreesWithSomeone = true ↔ ∃ p, e.status = some p ∧ 1 ≤ p.commonCount.toNat := by
  unfold PeerEntry.agreesWithSomeone
  cases e.status <;> simp

/-- The divergence condition (R154). -/
theorem diverges_iff (s : State) : s.diverges = true ↔ s.reception.state = .normal ∧
    2 ≤ (s.peers.table.filter s.isCompanion).length ∧
    (∀ e, e ∈ s.peers.table ∧ s.isCompanion e = true → e.relation = .apart) ∧
    ∃ e p, (e ∈ s.peers.table ∧ s.isCompanion e = true) ∧ e.status = some p ∧ 1 ≤ p.commonCount.toNat := by
  unfold State.diverges State.companions
  simp only [Bool.and_eq_true, beq_iff_eq, decide_eq_true_eq, List.all_eq_true, List.any_eq_true, List.mem_filter,
    agreesWithSomeone_iff, and_assoc, exists_and_left]

section Judged

variable {s : State}

/-- A judgement with no companion held COMMON, or with no CONTENT_DIVERGENT record, drives the timer alone (R154, R155). -/
theorem judge_timed (rest : s.commonCount = 0 ∨ s.peers.divergentOpen = false) :
    s.judge = s.setPeers { s.peers with divergence := s.divergenceTimer } := by
  rcases rest with none | closed
  · unfold State.judge
    exact if_neg (by rw [none]; exact Nat.lt_irrefl 0)
  · exact judge_closed closed

theorem closeDivergent_open (open_ : s.peers.divergentOpen = true) : s.closeDivergent =
    (s.setPeers { s.peers with divergentOpen := false }).closeBreach .contentDivergent s.nowStamp none false :=
  if_pos open_

/-- A companion held COMMON closes CONTENT_DIVERGENT (R155). -/
theorem judge_agreed (common : 1 ≤ s.commonCount) (open_ : s.peers.divergentOpen = true) : s.judge =
    (s.setPeers { s.peers with divergence := s.divergenceTimer, divergentOpen := false }).closeBreach
      .contentDivergent s.nowStamp none false := by
  unfold State.judge
  exact (if_pos common).trans (closeDivergent_open open_)

theorem divergenceTimer_idle (agrees : ¬ s.diverges = true) : s.divergenceTimer = none := if_neg agrees

theorem divergenceTimer_running {start : Stamp} (diverges : s.diverges = true) (runs : s.peers.divergence = some start) :
    s.divergenceTimer = some start := by
  unfold State.divergenceTimer
  rw [if_pos diverges, runs]

theorem divergenceTimer_stopped (diverges : s.diverges = true) (stopped : s.peers.divergence = none) :
    s.divergenceTimer = if s.peers.divergentOpen then none else some s.nowStamp := by
  unfold State.divergenceTimer
  rw [if_pos diverges, stopped]

end Judged

/-! ### Reception entering IMPAIRED (R16, R155) -/

/-- The state with its reception IMPAIRED at a quality (R16). -/
def State.impairedAt (s : State) (quality : Nat) : State :=
  s.setReception { s.reception with
    state := .impaired, lowest := some quality, recoveryStart := none, latch := true }

/-- The RECEPTION_IMPAIRED request of a state (R16). -/
def State.impairedRequest (s : State) : BreachRequest := { category := .receptionImpaired, startStamp := s.nowStamp }

/-- The state with RECEPTION_IMPAIRED opened and the Caption Checker told, CONTENT_DIVERGENT still to be closed (R16, R91). -/
def State.impairedNoted (s : State) (quality : Nat) : State :=
  let opened := (s.impairedAt quality).raise s.impairedRequest
  opened.setCaptions opened.captions.noteImpaired

theorem enterImpaired_eq (s : State) (quality : Nat) :
    s.enterImpaired quality = (s.impairedNoted quality).closeDivergent.judge := rfl

theorem impairedNoted_peers (s : State) (quality : Nat) : (s.impairedNoted quality).peers = s.peers := by
  have opened := raise_reports (q := s.impairedRequest) rfl (s.impairedAt quality)
  rw [State.impairedNoted, State.setCaptions_peers, opened.peers, State.impairedAt, State.setReception_peers]

theorem impairedNoted_nowStamp (s : State) (quality : Nat) : (s.impairedNoted quality).nowStamp = s.nowStamp := by
  have opened := raise_keeps (s.impairedAt quality) s.impairedRequest
  unfold State.nowStamp
  rw [State.impairedNoted, State.setCaptions_time, opened.time, State.impairedAt, State.setReception_time]

theorem enterImpaired_closed {s : State} (closed : s.peers.divergentOpen = false) (quality : Nat) :
    s.enterImpaired quality = (s.impairedNoted quality).judge := by
  rw [enterImpaired_eq, closeDivergent_closed (by rw [impairedNoted_peers, closed])]

theorem enterImpaired_open {s : State} (open_ : s.peers.divergentOpen = true) (quality : Nat) :
    s.enterImpaired quality = (((s.impairedNoted quality).setPeers { (s.impairedNoted quality).peers with
      divergentOpen := false }).closeBreach .contentDivergent s.nowStamp none false).judge := by
  rw [enterImpaired_eq, closeDivergent_open (by rw [impairedNoted_peers, open_]), impairedNoted_nowStamp]

/-! ### The deadlines' commands -/

theorem exec_peerStaleDeadline (s : State) (n : Byte) :
    exec (.peerStaleDeadline n) s = .next (s.peerStaleDeadline n) := rfl

theorem exec_peerRemovalDeadline (s : State) (n : Byte) :
    exec (.peerRemovalDeadline n) s = .next (s.peerRemovalDeadline n) := rfl

theorem exec_divergenceExpiry (s : State) : exec .divergenceExpiry s = .next s.divergenceExpiry := rfl

theorem exec_proxyDeadline (s : State) : exec .proxyDeadline s = .next s.proxyDeadline := rfl

/-- The period that a peer's deadlines count in, in microseconds (R139, R147). -/
theorem period_eq (e : PeerEntry) : e.period = match e.status with
    | none => 16000000
    | some p => match p.period with | .alert => 1000000 | .steady => 4000000 | .quiet => 16000000 := by
  unfold PeerEntry.period
  cases e.status with
  | none => rfl
  | some p => cases p.period <;> rfl

/-! ### The obligation -/

/-- Settles O59: the deadlines (`peerStaleDeadline_known`, `dueRemoved_gone`, `divergenceExpiry_opens`,
`proxyDeadline_due`), the judgement (`judge_timed`, `judge_agreed` and the cases of the timer), the removal
(`loseNoted_recorded`), and the entry to IMPAIRED (`enterImpaired_open`). -/
theorem peerDeadlines : Obligations.PeerDeadlines := by
  unfold Obligations.PeerDeadlines
  refine ⟨fun s => ⟨fun station => ⟨fun absent => ?absent, fun e known => ?known⟩, fun start runs => ?divergence,
      fun stopped => ?stopped, fun fault => ?fault, fun older e newer list early due live => ?proxy,
      fun early => congrArg Host.Outcome.next (proxyDeadline_early early)⟩,
    fun s => ?judgement, fun s station => ⟨becomeStale_eq s station, rfl, rfl⟩, fun s x => ?loseNoted,
    fun s quality => ?impaired⟩
  case absent =>
    exact ⟨congrArg Host.Outcome.next (peerStaleDeadline_absent absent),
      congrArg Host.Outcome.next (peerRemovalDeadline_absent absent)⟩
  case known =>
    intro period
    have is : period = e.period := (period_eq e).symm
    clear_value period
    subst is
    rw [exec_peerStaleDeadline, exec_peerRemovalDeadline, peerStaleDeadline_known known, peerRemovalDeadline_known known]
    refine ⟨fun live heard due => ?stale, fun early => ?heard, fun live due => ?removed, fun early => ?kept⟩
    case stale =>
      obtain ⟨own, others, -, cache, -⟩ := becomeStale_spec s station
      rw [if_pos ⟨live, heard, due⟩]
      exact ⟨_, rfl, rfl, own.trans (by rw [known]; rfl), others, cache⟩
    case heard =>
      rw [if_neg fun ⟨_, heard, due⟩ => early.elim (fun stale => by simp [heard] at stale) (Nat.not_lt.mpr due)]
    case removed =>
      rw [if_pos ⟨live, due⟩]
      have gone := dueRemoved_gone s station e.heard
      exact ⟨_, rfl, fun stale => by rw [stale]; rfl, fun heard => by rw [heard]; rfl, gone.entry, gone.others, gone.noted,
        gone.cache, gone.pending, gone.closed⟩
    case kept => rw [if_neg fun ⟨_, due⟩ => Nat.not_lt.mpr due early]
  case divergence =>
    refine ⟨fun live due => ⟨_, rfl, divergenceExpiry_opens runs live due⟩, fun early => ?_⟩
    rw [exec_divergenceExpiry, divergenceExpiry_some runs, if_neg fun ⟨_, due⟩ => Nat.not_lt.mpr due early]
  case stopped => rw [exec_divergenceExpiry, divergenceExpiry_none stopped]
  case fault =>
    rw [exec_divergenceExpiry, divergenceExpiry_fault fault, exec_proxyDeadline, proxyDeadline_fault fault]
    refine ⟨rfl, rfl, fun station => ?_⟩
    rw [exec_peerStaleDeadline, peerStaleDeadline_fault fault, exec_peerRemovalDeadline, peerRemovalDeadline_fault fault]
    exact ⟨rfl, rfl⟩
  case proxy =>
    rw [exec_proxyDeadline, proxyDeadline_due list early due live]
    exact ⟨_, rfl, issueUnmeasured_peers _ _, issueUnmeasured_history _ _, fun room =>
      issueUnmeasured_names (s := s.withPending (older ++ newer)) room _⟩
  case judgement =>
    intro own companion common diverges timed judged
    have counted : common = s.commonCount := (commonCount_eq s).symm
    have condition : diverges ↔ s.diverges = true := (diverges_iff s).symm
    have driven : judged s.divergenceTimer := by
      refine ⟨fun rest => judge_timed (rest.imp_left counted.symm.trans), fun some open_ => ?_⟩
      exact judge_agreed (counted ▸ some) open_
    refine ⟨isCompanion_iff s, fun agrees => ?_, fun start apart runs => ?_, fun apart stopped open_ => ?_,
      fun apart stopped closed => ?_⟩
    · rwa [divergenceTimer_idle (mt condition.mpr agrees)] at driven
    · rwa [divergenceTimer_running (condition.mp apart) runs] at driven
    · rwa [divergenceTimer_stopped (condition.mp apart) stopped, if_pos open_] at driven
    · rwa [divergenceTimer_stopped (condition.mp apart) stopped, if_neg (by simp [closed])] at driven
  case loseNoted =>
    intro ended
    have is : ended = s.endHold x.hold s.now := rfl
    clear_value ended
    subst is
    exact ⟨fun unrecorded => loseNoted_unrecorded unrecorded s, fun n recorded => loseNoted_recorded recorded s⟩
  case impaired =>
    intro opened noted
    have is : noted = s.impairedNoted quality := rfl
    clear_value noted
    subst is
    exact ⟨fun closed => enterImpaired_closed closed quality, fun open_ => enterImpaired_open open_ quality⟩

end Sys2Proof.Machine
end

section
/-! PROOF. The number a creation draws is the first free one from the next breach number on (R168). Settles O28. -/

namespace Sys2Proof.Machine

namespace BreachLog

/-- A search that reaches as far as the first uncarried number answers it (R168). -/
theorem freeNumber_first {l : BreachLog} : ∀ {k fuel n : Nat}, k ≤ fuel →
    (∀ j < k, l.carries (numberAfter^[j] n) = true) → l.carries (numberAfter^[k] n) = false →
    l.freeNumber fuel n = numberAfter^[k] n
  | 0, 0, _, _, _, _ => rfl
  | 0, fuel + 1, n, _, _, free => by
    unfold freeNumber
    rw [if_neg (Bool.not_eq_true _ ▸ free)]
    rfl
  | k + 1, fuel + 1, n, within, taken, free => by
    unfold freeNumber
    exact (if_pos (taken 0 (Nat.succ_pos k))).trans
      (freeNumber_first (Nat.le_of_succ_le_succ within) (fun j below => taken (j + 1) (Nat.succ_lt_succ below)) free)

/-- The numbers after a breach number differ until they come round again (R168). -/
theorem numberAfter_nodup {n m : Nat} (low : 1 ≤ n) (high : n ≤ 65535) (short : m ≤ 65535) :
    ((List.range m).map (fun k => numberAfter^[k] n)).Nodup := by
  refine List.Nodup.map_on (fun j hj k hk same => ?_) List.nodup_range
  rw [List.mem_range] at hj hk
  simp only [numberAfter_iterate low high] at same
  omega

/-- One of the numbers after a breach number is free, no further on than numbers are carried (R168). -/
theorem exists_free {l : BreachLog} {n : Nat} (low : 1 ≤ n) (high : n ≤ 65535)
    (few : l.records.length + l.causes.length < 65535) :
    ∃ k ≤ l.records.length + l.causes.length, l.carries (numberAfter^[k] n) = false := by
  by_contra noneFree
  have taken : (List.range (l.carried.length + 1)).map (fun k => numberAfter^[k] n) ⊆ l.carried := by
    intro x member
    obtain ⟨k, below, rfl⟩ := List.mem_map.mp member
    refine (l.carries_iff _).mp (Bool.eq_true_of_not_eq_false fun free => noneFree ⟨k, ?_, free⟩)
    simpa [carried, Nat.lt_succ_iff] using below
  have size : l.carried.length = l.records.length + l.causes.length := by simp [carried]
  have more := (List.subperm_of_subset (numberAfter_nodup low high (by omega)) taken).length_le
  rw [List.length_map, List.length_range] at more
  omega

/-- The number drawn is the first free one, and a full log and open-cause table carry too few to hide it (R168). -/
theorem drawn_first {l : BreachLog} (low : 1 ≤ l.nextNumber) (high : l.nextNumber ≤ 65535)
    (few : l.records.length + l.causes.length ≤ 138) : ∃ k ≤ 138, l.drawn = numberAfter^[k] l.nextNumber ∧
      l.carries l.drawn = false ∧ ∀ j < k, l.carries (numberAfter^[j] l.nextNumber) = true := by
  have found : ∃ k, l.carries (numberAfter^[k] l.nextNumber) = false :=
    (exists_free low high (by omega)).imp fun _ => And.right
  obtain ⟨m, near, free⟩ := exists_free (l := l) low high (by omega)
  have within : Nat.find found ≤ 138 := ((Nat.find_min' found free).trans near).trans few
  have taken : ∀ j < Nat.find found, l.carries (numberAfter^[j] l.nextNumber) = true :=
    fun j below => Bool.eq_true_of_not_eq_false (Nat.find_min found below)
  have first : l.drawn = numberAfter^[Nat.find found] l.nextNumber :=
    freeNumber_first (within.trans (by decide)) taken (Nat.find_spec found)
  exact ⟨_, within, first, first ▸ Nat.find_spec found, taken⟩

theorem drawn_next {l : BreachLog} (free : l.carries l.nextNumber = false) : l.drawn = l.nextNumber :=
  freeNumber_first (k := 0) (Nat.zero_le _) (fun _ below => absurd below (Nat.not_lt_zero _)) free

end BreachLog

/-- Settles O28. -/
theorem breachNumbers : Obligations.BreachNumbers := by
  intro l low high records causes
  obtain ⟨k, near, first, free, taken⟩ := BreachLog.drawn_first low high (by omega)
  have drawn : l.drawn = (l.nextNumber - 1 + k) % 65535 + 1 := first.trans (numberAfter_iterate low high k)
  refine ⟨free, by omega, by omega, BreachLog.drawn_next, ⟨k, near, first, taken⟩, rfl, fun n below => if_pos below⟩

end Sys2Proof.Machine
end

section
/-! PROOF. Storing in a full log (R172): which record makes room, what is left of the log, and that a record for which there
is no room is refused. Settles O29. -/

namespace Sys2Proof.Machine

/-! ### The record that makes room (R172) -/

section Discardable

variable {l : BreachLog}

theorem discardable_acked {older newer : List BreachRecord} {x : BreachRecord} (split : l.records = older ++ x :: newer)
    (spent : x.isOpen = false ∧ x.acked = true ∧ x.hold = none)
    (first : ∀ y ∈ older, ¬ (y.isOpen = false ∧ y.acked = true ∧ y.hold = none)) : l.discardable = some x := by
  unfold BreachLog.discardable
  rw [split, find?_split (fun y member => by simpa [and_assoc] using first y member) (by simp [spent])]

theorem discardable_closed {older newer : List BreachRecord} {x : BreachRecord} (split : l.records = older ++ x :: newer)
    (spare : x.isOpen = false ∧ x.hold = none) (first : ∀ y ∈ older, ¬ (y.isOpen = false ∧ y.hold = none))
    (noneAcked : ∀ y ∈ l.records, ¬ (y.isOpen = false ∧ y.acked = true ∧ y.hold = none)) : l.discardable = some x := by
  have passed : l.records.find? (fun r => !r.isOpen && r.acked && r.hold.isNone) = none :=
    List.find?_eq_none.mpr fun y member => by simpa [and_assoc] using noneAcked y member
  unfold BreachLog.discardable
  rw [passed]
  dsimp only
  rw [split, find?_split (fun y member => by simpa using first y member) (by simp [spare])]

theorem discardable_none (kept : ∀ y ∈ l.records, y.isOpen = true ∨ y.hold ≠ none) : l.discardable = none := by
  have held : ∀ y ∈ l.records, y.isOpen = false → y.hold ≠ none := fun y member closed =>
    (kept y member).resolve_left (Bool.not_eq_true _ ▸ closed)
  have noneAcked : l.records.find? (fun r => !r.isOpen && r.acked && r.hold.isNone) = none :=
    List.find?_eq_none.mpr fun y member => by simpa using fun closed _ => held y member closed
  unfold BreachLog.discardable
  rw [noneAcked]
  exact List.find?_eq_none.mpr fun y member => by simpa using held y member

end Discardable

/-! ### The log behind (R172) -/

theorem discardRecord_log (s : State) (r : BreachRecord) : (s.discardRecord r).log =
    { s.log with records := s.log.records.filter (fun x => x.serial != r.serial), full := false } := by
  unfold State.discardRecord
  split <;> rfl

/-- Only the record itself carries its serial, so only it leaves the log (R172). -/
theorem filter_serial {older newer : List BreachRecord} {x : BreachRecord}
    (apart : ((older ++ x :: newer).map (fun y => y.serial)).Nodup) :
    (older ++ x :: newer).filter (fun y => y.serial != x.serial) = older ++ newer := by
  have other : ∀ y ∈ older ++ newer, (y.serial != x.serial) = true := by
    rw [(List.perm_middle.map _).nodup_iff, List.map_cons, List.nodup_cons] at apart
    exact fun y member => bne_iff_ne.mpr fun same => apart.1 (List.mem_map.mpr ⟨y, member, same⟩)
  rw [List.filter_append, List.filter_cons_of_neg (by simp), ← List.filter_append, List.filter_eq_self.mpr other]

theorem refuseRecord_log (s : State) :
    s.refuseRecord.log = { s.log with overflow := addCount s.log.overflow 1, full := true } := by
  unfold State.refuseRecord
  split
  · rfl
  · exact triggerPulses_log _ _

section Full

variable {s : State} (full : s.log.records.length = 128)

include full

theorem not_room : ¬ s.log.records.length < logMax := Nat.not_lt.mpr (Nat.le_of_eq full.symm)

theorem storeRecord_discards {x : BreachRecord} (discards : s.log.discardable = some x) (r : BreachRecord) :
    s.storeRecord r = ((s.discardRecord x).appendRecord r, true) := by
  unfold State.storeRecord
  rw [if_neg (not_room full), discards]

theorem storeRecord_refuses (keeps : s.log.discardable = none) (r : BreachRecord) :
    s.storeRecord r = (s.refuseRecord, false) := by
  unfold State.storeRecord
  rw [if_neg (not_room full), keeps]

/-- The log behind a record stored in the place of another (R172). -/
theorem storeRecord_discards_log {older newer : List BreachRecord} {x : BreachRecord}
    (split : s.log.records = older ++ x :: newer) (apart : (s.log.records.map (fun y => y.serial)).Nodup)
    (discards : s.log.discardable = some x) (r : BreachRecord) : (s.storeRecord r).1.log = { s.log with
      records := older ++ newer ++ [{ r with serial := s.log.nextSerial }]
      full := false
      nextSerial := s.log.nextSerial + 1 } := by
  rw [storeRecord_discards full discards, appendRecord_log, discardRecord_log, split, filter_serial (split ▸ apart)]

end Full

/-- Settles O29. -/
theorem fullLog : Obligations.FullLog := by
  intro s r full apart
  refine ⟨fun older x newer split which => ?room, fun kept => ?noRoom⟩
  case room =>
    have discards : s.log.discardable = some x := by
      rcases which with ⟨closed, acked, unheld, first⟩ | ⟨closed, unheld, first, noneAcked⟩
      · exact discardable_acked split ⟨closed, acked, unheld⟩ first
      · exact discardable_closed split ⟨closed, unheld⟩ first noneAcked
    rw [storeRecord_discards_log full split apart discards r]
    exact ⟨congrArg Prod.snd (storeRecord_discards full discards r), rfl, rfl, rfl⟩
  case noRoom =>
    rw [storeRecord_refuses full (discardable_none kept) r, refuseRecord_log s]
    exact ⟨rfl, rfl, rfl, rfl⟩

end Sys2Proof.Machine
end

section
/-! PROOF. The log cursor at LOG_NEXT, LOG_REWIND and their commits, and when a record is stored or discarded (R172, R182,
R184). Settles O18. -/

namespace Sys2Proof.Machine

/-! ### The requests (R182, R184) -/

theorem cursorRecord_of_end {s : State} (end_ : s.evidence.logCursor = none) : s.cursorRecord = none := by
  unfold State.cursorRecord
  rw [end_]
  rfl

theorem cursorRecord_of_named {s : State} {n : Nat} (named : s.evidence.logCursor = some n) :
    s.cursorRecord = s.log.records.find? (fun x => x.serial == n) := by
  unfold State.cursorRecord
  rw [named]
  rfl

theorem exec_logNext_some {s : State} (idle : s.evidence.txn = none) {r : BreachRecord} (at_ : s.cursorRecord = some r) :
    exec .logNext s = .next (s.answer (0x00 :: recordBytesOf r) (.logAfter r.serial)) := by
  change execLogNext s = _
  unfold execLogNext
  rw [request_served idle, at_]

theorem exec_logNext_none {s : State} (idle : s.evidence.txn = none) (at_ : s.cursorRecord = none) :
    exec .logNext s = .next (s.answer (0x01 :: List.replicate 37 0) .nothing) := by
  change execLogNext s = _
  unfold execLogNext
  rw [request_served idle, at_]

theorem exec_logRewind {s : State} (idle : s.evidence.txn = none) :
    exec .logRewind s = .next (s.answer [0x00] .logOldest) :=
  (show exec .logRewind s = execLogRewind s from rfl).trans (request_served idle _)

/-! ### The cursor at a record stored or discarded (R172, R184) -/

theorem appendRecord_evidence (s : State) (r : BreachRecord) : (s.appendRecord r).evidence =
    if s.evidence.logCursor = none then { s.evidence with logCursor := some s.log.nextSerial } else s.evidence := by
  unfold State.appendRecord
  split <;> rfl

theorem discardRecord_evidence (s : State) (r : BreachRecord) : (s.discardRecord r).evidence =
    if s.evidence.logCursor = some r.serial then
      { s.evidence with logCursor := (s.discardRecord r).log.after r.serial }
    else s.evidence := by
  unfold State.discardRecord
  split <;> rfl

theorem triggerPulses_evidence (s : State) (w : LineConfig → Bool) : (s.triggerPulses w).evidence = s.evidence := by
  unfold State.triggerPulses
  split <;> rfl

theorem refuseRecord_evidence (s : State) : s.refuseRecord.evidence = s.evidence := by
  unfold State.refuseRecord
  split
  · rfl
  · exact triggerPulses_evidence _ _

/-- In a log in creation order, the record after one discarded is the next newer one (R184). -/
theorem after_discarded {older newer : List BreachRecord} {x : BreachRecord}
    (ordered : (older ++ x :: newer).Pairwise (fun a b => a.serial < b.serial)) :
    (older ++ newer).find? (fun y => x.serial < y.serial) = newer.head? := by
  obtain ⟨-, behind, before⟩ := List.pairwise_append.mp ordered
  have passed : older.find? (fun y => x.serial < y.serial) = none :=
    List.find?_eq_none.mpr fun y member => by
      simpa using Nat.le_of_lt (before y member x (List.mem_cons_self ..))
  rw [List.find?_append, passed, Option.none_or]
  cases newer with
  | nil => rfl
  | cons y rest => exact List.find?_cons_of_pos (by simpa using List.rel_of_pairwise_cons behind (List.mem_cons_self ..))

/-- The serials of records in creation order differ. -/
theorem serials_nodup {l : List BreachRecord} (ordered : l.Pairwise (fun a b => a.serial < b.serial)) :
    (l.map (fun y => y.serial)).Nodup :=
  List.pairwise_map.mpr (ordered.imp Nat.ne_of_lt)

theorem discardRecord_after {s : State} {older newer : List BreachRecord} {x : BreachRecord}
    (split : s.log.records = older ++ x :: newer)
    (ordered : s.log.records.Pairwise (fun a b => a.serial < b.serial)) :
    (s.discardRecord x).log.after x.serial = newer.head?.map (fun y => y.serial) := by
  unfold BreachLog.after
  rw [discardRecord_log]
  dsimp only
  rw [split, filter_serial (split ▸ serials_nodup ordered), after_discarded (split ▸ ordered)]

/-- A record stored in the place of another: a cursor at the end names it, one that named the record discarded moves to the
next, which may be the new one, and any other stays (R184). -/
theorem storeRecord_discards_cursor {s : State} (full : s.log.records.length = 128) {older newer : List BreachRecord}
    {x : BreachRecord} (split : s.log.records = older ++ x :: newer)
    (ordered : s.log.records.Pairwise (fun a b => a.serial < b.serial)) (discards : s.log.discardable = some x)
    (r : BreachRecord) :
    let t := (s.storeRecord r).1
    (s.evidence.logCursor = none → t.evidence = { s.evidence with logCursor := some s.log.nextSerial }) ∧
    (s.evidence.logCursor = some x.serial → t.evidence = { s.evidence with
      logCursor := some ((newer.head?.map (fun y => y.serial)).getD s.log.nextSerial) }) ∧
    (∀ n, s.evidence.logCursor = some n → n ≠ x.serial → t.evidence = s.evidence) := by
  intro t
  have stored : t.evidence = _ :=
    (congrArg (fun p => p.1.evidence) (storeRecord_discards full discards r)).trans (appendRecord_evidence _ r)
  have serial : (s.discardRecord x).log.nextSerial = s.log.nextSerial := by rw [discardRecord_log]
  have moved := discardRecord_evidence s x
  rw [discardRecord_after split ordered] at moved
  refine ⟨fun end_ => ?_, fun named => ?_, fun n named other => ?_⟩
  · have kept : (s.discardRecord x).evidence = s.evidence := moved.trans (if_neg (by simp [end_]))
    rw [stored, serial, kept, if_pos end_]
  · rw [stored, serial, moved, if_pos named]
    cases newer.head? <;> rfl
  · have kept : (s.discardRecord x).evidence = s.evidence := moved.trans (if_neg (by simp [named, other]))
    rw [stored, kept, if_neg (by simp [named])]

/-- Settles O18. -/
theorem logCursor : Obligations.LogCursor := by
  refine ⟨fun s idle => ⟨fun n r cursor found => ?next, fun end_ => ?atEnd, exec_logRewind idle, fun response n => rfl,
    fun response => rfl, fun response => rfl⟩, fun s r => ⟨fun room => ⟨fun end_ => ?appended, fun cursor => ?kept⟩,
    fun older x newer full split ordered discards => ?discards, fun full keeps => ?refused⟩⟩
  case next => exact exec_logNext_some idle ((cursorRecord_of_named cursor).trans found)
  case atEnd => exact exec_logNext_none idle (cursorRecord_of_end end_)
  case appended => rw [storeRecord_room room, appendRecord_evidence, if_pos end_]
  case kept => rw [storeRecord_room room, appendRecord_evidence, if_neg cursor]
  case discards => exact storeRecord_discards_cursor full split ordered discards r
  case refused => rw [storeRecord_refuses full keeps, refuseRecord_evidence]

end Sys2Proof.Machine
end

section
/-! PROOF. The alarm lines' levels (R176, R177) and the acknowledgement of records (R174). Settles O25 and O24. -/

namespace Sys2Proof.Machine

/-! ### The lines by station state (R176 to R178) -/

section Lines

variable {s : State} {i : Nat}

theorem lineAsserted_loading (loading : s.startup.station = .loading) : s.lineAsserted i = false := by
  unfold State.lineAsserted
  rw [loading]

theorem lineAsserted_fault (fault : s.startup.station = .fault) : s.lineAsserted i = true := by
  unfold State.lineAsserted
  rw [fault]

theorem lineAsserted_between (loaded : s.startup.station ≠ .loading) (sound : s.startup.station ≠ .fault) :
    s.lineAsserted i = if (s.config.line i).pulse then (s.alarms.pulseEnds.getD i none).isSome
      else s.levelCondition (s.config.line i) := by
  unfold State.lineAsserted
  split
  · next loading => exact absurd loading loaded
  · next fault => exact absurd fault sound
  all_goals rfl

theorem lineDrivenLow_loading (loading : s.startup.station = .loading) : s.lineDrivenLow i = false := by
  unfold State.lineDrivenLow
  rw [loading]

theorem lineDrivenLow_loaded (loaded : s.startup.station ≠ .loading) :
    s.lineDrivenLow i = (s.lineAsserted i != (s.config.line i).activeHigh) := by
  unfold State.lineDrivenLow
  split
  · next loading => exact absurd loading loaded
  all_goals cases (s.config.line i).activeHigh <;> simp

theorem levelCondition_iff (s : State) (l : LineConfig) : s.levelCondition l = true ↔
    (∃ r ∈ s.log.records, l.mask.getLsbD (r.category.code - 1) = true ∧ (r.isOpen = true ∨ r.acked = false)) ∨
      (l.logFull = true ∧ s.log.full = true) := by
  simp [State.levelCondition, LineConfig.watches]

/-- When a LEVEL line is asserted (R177). -/
theorem lineAsserted_level_iff (loaded : s.startup.station ≠ .loading) (level : (s.config.line i).pulse = false) :
    s.lineAsserted i = true ↔
      (∃ r ∈ s.log.records, (s.config.line i).mask.getLsbD (r.category.code - 1) = true ∧
        (r.isOpen = true ∨ r.acked = false)) ∨
      ((s.config.line i).logFull = true ∧ s.log.full = true) ∨ s.startup.station = .fault := by
  by_cases fault : s.startup.station = .fault
  · simp [lineAsserted_fault fault, fault]
  · rw [lineAsserted_between loaded fault, if_neg (by simp [level]), levelCondition_iff]
    simp [fault]

end Lines

/-- Settles O25. -/
theorem levelLines : Obligations.LevelLines :=
  fun _ _ _ => ⟨lineAsserted_level_iff, lineDrivenLow_loading, lineDrivenLow_loaded⟩

/-! ### Acknowledgement (R174) -/

theorem exec_logAck {s : State} (idle : s.evidence.txn = none) (number : BitVec 16) : exec (.logAck number) s =
    .next ((s.setLog (s.log.acknowledge number.toNat)).answer (beBytes 2 s.log.ackPoint) .nothing) :=
  (show exec (.logAck number) s = execLogAck number s from rfl).trans (request_served idle _)

theorem ackThrough_split {number : Nat} {r : BreachRecord} (named : r.number = number) (newer : List BreachRecord) :
    ∀ older : List BreachRecord, (∀ x ∈ older, x.number ≠ number) → ackThrough number (older ++ r :: newer) =
      older.map (fun x => { x with acked := true }) ++ { r with acked := true } :: newer
  | [], _ => if_pos named
  | x :: older, others => by
    obtain ⟨other, rest⟩ := List.forall_mem_cons.mp others
    rw [List.cons_append, ackThrough, if_neg other, ackThrough_split named newer older rest]
    rfl

theorem acknowledge_found {l : BreachLog} {number : Nat} {older newer : List BreachRecord} {r : BreachRecord}
    (split : l.records = older ++ r :: newer) (named : r.number = number) (first : ∀ x ∈ older, x.number ≠ number) :
    l.acknowledge number = { l with
      records := older.map (fun x => { x with acked := true }) ++ { r with acked := true } :: newer
      ackPoint := number
      full := false } := by
  have found : l.record? number = some r := by
    unfold BreachLog.record?
    rw [split, find?_split (by simpa using first) (by simpa using named)]
  unfold BreachLog.acknowledge
  rw [found, split, ackThrough_split named newer older first]

theorem acknowledge_absent {l : BreachLog} {number : Nat} (absent : ∀ x ∈ l.records, x.number ≠ number) :
    l.acknowledge number = l := by
  have missing : l.record? number = none := List.find?_eq_none.mpr (by simpa using absent)
  unfold BreachLog.acknowledge
  rw [missing]

/-- Settles O24. -/
theorem acknowledge : Obligations.Acknowledge := by
  refine ⟨fun number s idle => ⟨fun older r newer split named first => ?found, fun absent => ?absent⟩,
    fun s => ⟨_, exec_fullReset s, rfl⟩, fun s q number => rfl,
    fun s i r _ loaded level watched member open_ => ?asserted, fun s i _ sound level excluded quiet => ?released⟩
  case found =>
    rw [exec_logAck idle, acknowledge_found split named first]
    rfl
  case absent =>
    rw [exec_logAck idle, acknowledge_absent absent]
    rfl
  case asserted => exact (lineAsserted_level_iff loaded level).mpr (.inl ⟨r, member, watched, .inl open_⟩)
  case released =>
    by_cases loading : s.startup.station = .loading
    · exact lineAsserted_loading loading
    refine Bool.eq_false_of_not_eq_true fun asserted => ?_
    rcases (lineAsserted_level_iff loading level).mp asserted with ⟨r, member, watched, stands⟩ | ⟨included, -⟩ | fault
    · obtain ⟨closed, acked⟩ := quiet r member watched
      simp [closed, acked] at stands
    · exact Bool.false_ne_true (excluded.symm.trans included)
    · exact sound fault

end Sys2Proof.Machine
end

section
/-! PROOF. The pulses of the alarm lines (R178): a creation and LOG_FULL coming to stand set the pulse end, and nothing that
follows in the same creation takes it away; PULSE_END ends it. Settles O26. -/

namespace Sys2Proof.Machine

/-- The pulse end of alarm line `i` (0 … 3), absent when no pulse runs (R178). -/
def State.pulseOf (s : State) (i : Nat) : Option Nat := s.alarms.pulseEnds.getD i none

/-! ### Pulses triggered (R178) -/

theorem triggerPulses_pulseOf (s : State) (watch : LineConfig → Bool) (i : Nat) :
    (s.triggerPulses watch).pulseOf i =
      if s.startup.station ≠ .fault ∧ i < s.alarms.pulseEnds.length ∧ (s.config.line i).pulse = true ∧
        watch (s.config.line i) = true then some (s.now + 100000) else s.pulseOf i := by
  unfold State.triggerPulses
  by_cases fault : s.startup.station = .fault
  · rw [if_pos fault, if_neg fun triggered => triggered.1 fault]
  rw [if_neg fault]
  by_cases inside : i < s.alarms.pulseEnds.length
  · simp [State.pulseOf, fault, inside]
  · simp [State.pulseOf, inside]

theorem refuseRecord_pulseOf (s : State) (i : Nat) : s.refuseRecord.pulseOf i =
    if s.log.full = false ∧ s.startup.station ≠ .fault ∧ i < s.alarms.pulseEnds.length ∧
      (s.config.line i).pulse = true ∧ (s.config.line i).logFull = true then some (s.now + 100000) else s.pulseOf i := by
  unfold State.refuseRecord
  by_cases full : s.log.full = true
  · rw [if_pos full, if_neg (by simp [full])]
    rfl
  · rw [if_neg full]
    refine (triggerPulses_pulseOf ..).trans (if_congr ?_ rfl rfl)
    simp [full, State.config]

/-! ### What a creation does to the pulses -/

/-- The second state has the first one's pulses, but for those triggered at the same moment. -/
structure LeavesPulses (s t : State) : Prop where
  measured : KeepsMeasured s t
  ends     : ∀ i, t.pulseOf i = s.pulseOf i ∨ t.pulseOf i = some (s.now + 100000)

namespace LeavesPulses

variable {s t u : State}

theorem of_alarms (measured : KeepsMeasured s t) (same : t.alarms = s.alarms) : LeavesPulses s t :=
  ⟨measured, fun i => .inl (congrArg (fun a : AlarmDriver => a.pulseEnds.getD i none) same)⟩

theorem trans (a : LeavesPulses s t) (b : LeavesPulses t u) : LeavesPulses s u where
  measured := a.measured.trans b.measured
  ends i := by
    rcases b.ends i with same | set
    · rw [same]
      exact a.ends i
    · exact .inr (set.trans (congrArg (fun n => some (n + 100000)) a.measured.now))

theorem setLog (h : LeavesPulses s t) (x : BreachLog) : LeavesPulses s (t.setLog x) := ⟨h.measured.setLog x, h.ends⟩

/-- A pulse triggered now still runs to the same end. -/
theorem still_set (h : LeavesPulses s t) {i : Nat} (set : s.pulseOf i = some (s.now + 100000)) :
    t.pulseOf i = some (s.now + 100000) := (h.ends i).elim (fun same => same.trans set) id

end LeavesPulses

theorem triggerPulses_leaves (s : State) (watch : LineConfig → Bool) : LeavesPulses s (s.triggerPulses watch) where
  measured := triggerPulses_keeps s watch
  ends i := by
    rw [triggerPulses_pulseOf]
    split
    · exact .inr rfl
    · exact .inl rfl

theorem appendRecord_alarms (s : State) (r : BreachRecord) : (s.appendRecord r).alarms = s.alarms := by
  unfold State.appendRecord
  split <;> rfl

theorem discardRecord_alarms (s : State) (r : BreachRecord) : (s.discardRecord r).alarms = s.alarms := by
  unfold State.discardRecord
  split <;> rfl

theorem refuseRecord_leaves (s : State) : LeavesPulses s s.refuseRecord where
  measured := refuseRecord_keeps s
  ends i := by
    rw [refuseRecord_pulseOf]
    split
    · exact .inr rfl
    · exact .inl rfl

theorem storeRecord_leaves (s : State) (r : BreachRecord) : LeavesPulses s (s.storeRecord r).1 := by
  unfold State.storeRecord
  split
  · exact .of_alarms (appendRecord_keeps s r) (appendRecord_alarms s r)
  · split
    · next x _ =>
      exact .of_alarms ((discardRecord_keeps s x).trans (appendRecord_keeps _ r))
        ((appendRecord_alarms _ r).trans (discardRecord_alarms s x))
    · exact refuseRecord_leaves s

theorem offer_alarms (s : State) (n : Notice) (c : List Nat) : (s.offer n c).alarms = s.alarms := by
  unfold State.offer
  split <;> rfl

theorem upshift_alarms (s : State) : s.upshift.alarms = s.alarms := by
  unfold State.upshift State.offerStatus
  split
  · dsimp only
    split
    · rfl
    · exact offer_alarms _ _ _
  · rfl

theorem announce_alarms (s : State) (q : BreachRequest) (n : Notice) : (s.announce q n).alarms = s.alarms := by
  have offered : (if q.category.shared then s.offer n [] else s).alarms = s.alarms := by
    split
    · exact offer_alarms s n []
    · rfl
  unfold State.announce
  dsimp only
  split
  · exact (upshift_alarms _).trans offered
  · exact offered

/-- The state of a creation just after it has triggered the lines that watch its category (R169, R178). -/
def State.pulsedFor (s : State) (q : BreachRequest) : State :=
  (s.setLog { s.log with nextNumber := numberAfter s.log.drawn }).pulseForCategory q.category

theorem pulsedFor_leaves (s : State) (q : BreachRequest) : LeavesPulses s (s.pulsedFor q) :=
  ((LeavesPulses.of_alarms (.refl s) rfl).setLog _).trans (triggerPulses_leaves _ (fun l => l.watches q.category))

theorem enterRecord_leaves_pulsed (s : State) (q : BreachRequest) : LeavesPulses (s.pulsedFor q) (s.enterRecord q).1 := by
  have stored := storeRecord_leaves (s.pulsedFor q) (s.recordOf q s.log.drawn)
  unfold State.enterRecord
  dsimp only
  split
  · exact stored.setLog _
  · exact stored

theorem enterRecord_leaves (s : State) (q : BreachRequest) : LeavesPulses s (s.enterRecord q).1 :=
  (pulsedFor_leaves s q).trans (enterRecord_leaves_pulsed s q)

theorem createHoldRefused_leaves (s : State) (breach : Option Nat) : LeavesPulses s (s.createHoldRefused breach) :=
  createHoldRefused_eq s breach ▸
    (enterRecord_leaves s _).trans (.of_alarms (upshift_keeps _) (upshift_alarms _))

theorem holdForRecord_leaves (s : State) (q : BreachRequest) (number : Option Nat) :
    LeavesPulses s (s.holdForRecord q number) := by
  by_cases plain : q.category.retains = false ∨ q.origin ≠ .own
  · exact (holdForRecord_plain plain s number).symm ▸ .of_alarms (.refl s) rfl
  rw [not_or, Bool.not_eq_false, not_not] at plain
  obtain ⟨whenRefused, whenPlaced⟩ := holdForRecord_own plain.1 plain.2 s number
  rcases placeHold_cases s .own q.startStamp.time (q.endStamp.map (fun x => x.time)) number with
    ⟨-, same⟩ | ⟨-, same⟩ | ⟨-, evicted, slot, -, -, placed⟩
  · exact whenRefused (congrArg Prod.snd same) ▸ createHoldRefused_leaves s number
  · exact whenRefused (congrArg Prod.snd same) ▸ createHoldRefused_leaves s number
  · refine .of_alarms (holdForRecord_keeps s q number) ?_
    rw [whenPlaced _ (congrArg Prod.snd placed), placed]
    rfl

/-- What follows in a creation leaves the pulses that its category triggered (R169, R178). -/
theorem raise_leaves_pulsed (s : State) (q : BreachRequest) : LeavesPulses (s.pulsedFor q) (s.raise q) :=
  ((enterRecord_leaves_pulsed s q).trans (holdForRecord_leaves _ q _)).trans
    (.of_alarms (announce_keeps _ _ _) (announce_alarms _ _ _))

/-- A creation pulses every PULSE line that watches its category (R178). -/
theorem raise_pulseOf {s : State} {q : BreachRequest} {i : Nat} (sound : s.startup.station ≠ .fault)
    (inside : i < s.alarms.pulseEnds.length) (pulses : (s.config.line i).pulse = true)
    (watched : (s.config.line i).watches q.category = true) : (s.raise q).pulseOf i = some (s.now + 100000) := by
  have now := (pulsedFor_leaves s q).measured.now
  rw [← now]
  refine (raise_leaves_pulsed s q).still_set ?_
  rw [now]
  exact (triggerPulses_pulseOf ..).trans (if_pos ⟨sound, inside, pulses, watched⟩)

/-! ### PULSE_END (R178) -/

theorem exec_pulseEnd (line : BitVec 2) (s : State) : exec (.pulseEnd line) s = .next (s.endPulse line.toNat) := rfl

theorem endPulse_reached {s : State} {i e : Nat} (runs : s.pulseOf i = some e) (due : e ≤ s.now) :
    s.endPulse i = s.setAlarms ⟨changeAt (fun _ => none) i s.alarms.pulseEnds⟩ := by
  unfold State.pulseOf at runs
  unfold State.endPulse
  rw [runs]
  exact if_pos (decide_eq_true due)

theorem endPulse_absent {s : State} {i : Nat} (absent : s.pulseOf i = none) : s.endPulse i = s := by
  unfold State.pulseOf at absent
  unfold State.endPulse
  rw [absent]
  exact if_neg Bool.false_ne_true

theorem endPulse_early {s : State} {i e : Nat} (runs : s.pulseOf i = some e) (early : s.now < e) : s.endPulse i = s := by
  unfold State.pulseOf at runs
  unfold State.endPulse
  rw [runs]
  exact if_neg fun due => Nat.not_le.mpr early (of_decide_eq_true due)

/-- A pulse end made absent leaves the others (R178). -/
theorem pulseOf_changeAt (s : State) (n i : Nat) :
    (s.setAlarms ⟨changeAt (fun _ => none) n s.alarms.pulseEnds⟩).pulseOf i = if i = n then none else s.pulseOf i := by
  refine (changeAt_getD _ _ n _ i).trans ?_
  by_cases same : i = n
  · by_cases inside : i < s.alarms.pulseEnds.length
    · rw [if_pos ⟨same, inside⟩, if_pos same]
    · rw [if_neg fun both => inside both.2, if_pos same, List.getD_eq_default _ _ (Nat.not_lt.mp inside)]
  · rw [if_neg fun both => same both.1, if_neg same]
    rfl

/-! ### O26 -/

/-- A PULSE line is asserted while its pulse runs, from CHECKING on (R178). -/
theorem lineAsserted_pulse_iff {s : State} {i : Nat} (pulses : (s.config.line i).pulse = true)
    (runs : s.live = true ∨ s.startup.station = .checking) : s.lineAsserted i = true ↔ ∃ e, s.pulseOf i = some e := by
  have between : s.startup.station ≠ .loading ∧ s.startup.station ≠ .fault := by
    unfold State.live at runs
    constructor <;> intro is <;> simp [is] at runs
  rw [lineAsserted_between between.1 between.2, if_pos pulses, Option.isSome_iff_exists]
  rfl

/-- Settles O26. -/
theorem pulseLines : Obligations.PulseLines := by
  intro s four
  refine ⟨fun q i small sound pulses watched => raise_pulseOf sound (four ▸ small) pulses watched,
    fun line => ⟨fun e runs due => ?ended, fun absent => congrArg Host.Outcome.next (endPulse_absent absent),
      fun e runs early => congrArg Host.Outcome.next (endPulse_early runs early)⟩,
    fun i _ pulses runs => lineAsserted_pulse_iff pulses runs,
    fun r i full kept small sound => ⟨fun stood pulses included => ?pulsed, fun quiet => ?unpulsed⟩⟩
  case ended =>
    have left := pulseOf_changeAt s line.toNat
    exact ⟨_, (exec_pulseEnd line s).trans (congrArg Host.Outcome.next (endPulse_reached runs due)),
      (left _).trans (if_pos rfl), fun i other => (left i).trans (if_neg other), rfl⟩
  case pulsed =>
    rw [storeRecord_refuses full (discardable_none kept)]
    exact (refuseRecord_pulseOf s i).trans (if_pos ⟨stood, sound, four ▸ small, pulses, included⟩)
  case unpulsed =>
    rw [storeRecord_refuses full (discardable_none kept)]
    refine (refuseRecord_pulseOf s i).trans (if_neg fun ⟨stood, _, _, pulses, included⟩ => ?_)
    simp [stood, pulses, included] at quiet

end Sys2Proof.Machine
end

section
/-! PROOF. Every command completes, keeps the commands that wait and, but for CONFIG_LOADED and FULL_RESET, the configuration
(R189; log 1, 3, 30, 34); and FAULT is left, and LOADING entered, by FULL_RESET only (R190, R193). Settles O2 and O7. -/

namespace Sys2Proof.Machine

/-! ### The relation -/

/-- Whether a station state may follow another without FULL_RESET: FAULT stays, and LOADING is not entered (R190). -/
def StationState.MayBecome (a b : StationState) : Prop := (a = .fault → b = .fault) ∧ (b = .loading → a = .loading)

theorem StationState.MayBecome.refl (a : StationState) : a.MayBecome a := ⟨id, id⟩

/-- Between the states behind LOADING and before FAULT every way is open. -/
theorem StationState.MayBecome.of_between {a b : StationState} (left : a ≠ .fault) (entered : b ≠ .loading) :
    a.MayBecome b := ⟨fun fault => absurd fault left, fun loading => absurd loading entered⟩

/-- What a command other than FULL_RESET and CONFIG_LOADED leaves of the waiting commands, the configuration and the station
state. -/
structure State.CarriesOnTo (s t : State) : Prop where
  pending : t.pending = s.pending
  config  : t.startup.config = s.startup.config
  station : s.startup.station.MayBecome t.startup.station

/-- The outcome is a next state, to which the state before carries on. -/
def Completes (s : State) (o : Host.Outcome State Fault Refusal) : Prop := ∃ t, o = .next t ∧ s.CarriesOnTo t

theorem Startup.ListensOn.config {a b : Startup} (h : a.ListensOn b) : b.config = a.config := by
  rcases h with rfl | ⟨-, rfl | rfl⟩ <;> rfl

theorem Startup.ListensOn.mayBecome {a b : Startup} (h : a.ListensOn b) : a.station.MayBecome b.station := by
  rcases h with rfl | ⟨listening, rfl | rfl⟩
  · exact .refl _
  all_goals exact .of_between (by rw [listening]; decide) nofun

namespace State.CarriesOnTo

variable {s t : State}

theorem of_proceeds (h : Proceeds s t) : s.CarriesOnTo t := ⟨h.pending, h.startup.config, h.startup.mayBecome⟩

theorem of_station (pending : t.pending = s.pending) (config : t.startup.config = s.startup.config)
    (station : t.startup.station = s.startup.station) : s.CarriesOnTo t := ⟨pending, config, station ▸ .refl _⟩

theorem of_startup (pending : t.pending = s.pending) (startup : t.startup = s.startup) : s.CarriesOnTo t :=
  of_station pending (congrArg Startup.config startup) (congrArg Startup.station startup)

end State.CarriesOnTo

open State.CarriesOnTo

namespace Completes

variable {s t : State}

theorem next (h : s.CarriesOnTo t) : Completes s (.next t) := ⟨t, rfl, h⟩

theorem proceeds (h : Proceeds s t) : Completes s (.next t) := next (of_proceeds h)

/-- A command that changes neither the waiting commands nor the Start-up Controller. -/
theorem still (pending : t.pending = s.pending) (startup : t.startup = s.startup) : Completes s (.next t) :=
  next (of_startup pending startup)

theorem idle (s : State) : Completes s (.next s) := still rfl rfl

/-- A request completes, served or not, as what it serves carries on (R181; log 30). -/
theorem request (serve : State → State) (h : s.CarriesOnTo (serve s)) : Completes s (s.request serve) := by
  unfold State.request
  split
  · exact next h
  · exact idle s

/-- A request that is only answered. -/
theorem answered (serve : State → State) (pending : (serve s).pending = s.pending)
    (startup : (serve s).startup = s.startup) : Completes s (s.request serve) := request serve (of_startup pending startup)

end Completes

open Completes

/-! ### Start-up and restart -/

/-- CONFIG_LOADED carries on in all but the configuration (R189, R190). -/
theorem exec_configLoaded_completes (bytes : List Byte) (s : State) : ∃ t, exec (.configLoaded bytes) s = .next t ∧
    t.pending = s.pending ∧ s.startup.station.MayBecome t.startup.station := by
  change ∃ t, execConfigLoaded bytes s = .next t ∧ _
  unfold execConfigLoaded
  split
  · next loading =>
    refine ⟨_, rfl, ?_, .of_between (by rw [loading]; decide) nofun⟩
    rw [State.setStartup_pending]
    split
    · exact (raise_keeps _ _).pending
    · rfl
  · exact ⟨s, rfl, rfl, .refl _⟩

theorem enterListening_startup (s : State) : s.enterListening.pending = s.pending ∧
    s.enterListening.startup = { s.startup with station := .listening, listeningSince := some s.now } := by
  have kept := (settleTimeRecords_reports (((s.setStartup { s.startup with
    station := .listening, listeningSince := some s.now }).setPort { s.port with audioRef := some s.nowStamp }).setReception
      { s.reception with silenceDeadline := some (s.now + 2 * second) })).measured
  exact ⟨kept.pending, kept.startup⟩

/-- The memory check ends in LISTENING or in FAULT (R190, R191). -/
theorem execMemoryCheckDone_completes (failed : CheckReport) (s : State) : Completes s (execMemoryCheckDone failed s) := by
  unfold execMemoryCheckDone
  split
  · next checking =>
    have sound : s.startup.station ≠ .fault := by rw [checking]; decide
    refine next ?_
    split
    · obtain ⟨pending, startup⟩ := enterListening_startup
        (s.setStartup { s.startup with checkResult := firstFailed failed })
      exact ⟨pending, (congrArg Startup.config startup :), .of_between sound (by rw [startup]; nofun)⟩
    · exact ⟨rfl, rfl, .of_between sound nofun⟩
  · exact idle s

theorem beginWithdrawal_carriesOn (s : State) : s.CarriesOnTo s.beginWithdrawal := by
  unfold State.beginWithdrawal
  split
  · exact of_startup rfl rfl
  all_goals exact of_station rfl rfl rfl

/-- The cuts of a restart leave the waiting commands and the Start-up Controller alone (R121, R180). -/
theorem cuts_startup (s : State) : s.cutRecords.cutHolds.pending = s.pending ∧ s.cutRecords.cutHolds.startup = s.startup := by
  rw [cuts_eq]
  exact ⟨rfl, rfl⟩

theorem execRestart_completes (s : State) : Completes s (execRestart s) := by
  refine request _ ?_
  split
  · exact of_startup rfl rfl
  · exact of_startup rfl rfl
  · obtain ⟨pending, startup⟩ := cuts_startup s
    exact of_startup pending startup
  all_goals
    split
    · exact of_startup rfl rfl
    · obtain ⟨pending, config, station⟩ := beginWithdrawal_carriesOn
        (s.setStartup { s.startup with restarting := true, withdrawReported := false })
      exact ⟨pending, config, station⟩

theorem clearForRestart_startup (s : State) : s.clearForRestart.pending = s.pending ∧
    s.clearForRestart.startup.config = s.startup.config ∧ s.clearForRestart.startup.station = .checking := by
  obtain ⟨time, cleared, -⟩ := clearForRestart_eq s
  rw [cleared]
  exact ⟨rfl, rfl, rfl⟩

/-- The restart sequence leads from a live station to CHECKING (R192). -/
theorem execRestartSequence_completes (s : State) : Completes s (execRestartSequence s) := by
  unfold execRestartSequence
  split
  · next begun =>
    obtain ⟨cutPending, cutStartup⟩ := cuts_startup s
    have resolved : Proceeds s.cutRecords.cutHolds s.cutRecords.cutHolds.resolveAll.markRestart :=
      (resolveAll_proceeds _).trans (requestMark_proceeds _ _)
    obtain ⟨pending, config, station⟩ := clearForRestart_startup s.cutRecords.cutHolds.resolveAll.markRestart
    refine next ⟨?_, ?_, .of_between (not_fault_of_live begun.1) (by rw [station]; decide)⟩
    · exact pending.trans (resolved.pending.trans cutPending)
    · exact config.trans (resolved.startup.config.trans (congrArg Startup.config cutStartup))
  · exact idle s

/-! ### The Media Port and the Recorder -/

theorem dropUnit_carriesOn (s : State) : s.CarriesOnTo s.dropUnit := by
  unfold State.dropUnit
  split
  · exact of_startup rfl rfl
  · exact of_startup (raise_keeps _ _).pending (raise_keeps _ _).startup

theorem arrive_carriesOn (s : State) (k : UnitKind) (h : UnitHeader) : s.CarriesOnTo (s.arrive k h) := by
  have admitted : s.CarriesOnTo (if s.port.hasRoom h.length then s.enqueue k h else s.dropUnit) := by
    split
    · exact of_startup rfl rfl
    · exact dropUnit_carriesOn s
  unfold State.arrive
  split
  · exact of_startup rfl rfl
  · exact of_startup rfl rfl
  · exact admitted
  · exact admitted
  · exact admitted
  · exact of_startup rfl rfl

theorem execUnitHeaderComplete_completes (bytes : List Byte) (s : State) :
    Completes s (execUnitHeaderComplete bytes s) := by
  unfold execUnitHeaderComplete
  split
  · exact idle s
  · dsimp only
    split
    · exact still rfl rfl
    · obtain ⟨pending, config, station⟩ := arrive_carriesOn (s.setPort (s.port.afterHeader _)) _ _
      exact next ⟨pending, config, station⟩

theorem execMissingDelimiter_completes (a b : Byte) (s : State) : Completes s (execMissingDelimiter a b s) := by
  unfold execMissingDelimiter
  split
  · exact still rfl rfl
  · exact idle s

theorem execPayloadComplete_completes (payload : List Byte) (s : State) : Completes s (execPayloadComplete payload s) := by
  unfold execPayloadComplete
  split
  · exact idle s
  · split
    · split <;> exact still rfl rfl
    · exact idle s

theorem execUnitDelivery_completes (s : State) : Completes s (execUnitDelivery s) := by
  unfold execUnitDelivery
  split
  · exact idle s
  · split
    · exact idle s
    · split
      · exact proceeds (deliver_proceeds s _ _)
      · exact idle s

theorem execRecorderWriteComplete_completes (s : State) : Completes s (execRecorderWriteComplete s) := by
  unfold execRecorderWriteComplete
  split
  · exact idle s
  · exact still rfl rfl

theorem execMarkUnitWrite_completes (s : State) : Completes s (execMarkUnitWrite s) := by
  unfold execMarkUnitWrite
  split
  · exact idle s
  · split
    · dsimp only
      split
      · next ready =>
        obtain ⟨pending, config, station⟩ := of_proceeds (readyPage_proceeds ready)
        exact next ⟨pending, config, station⟩
      · exact still rfl rfl
    · exact idle s

/-! ### Shelf link and peers -/

theorem execLineQuiet_completes (received : List Byte) (s : State) : Completes s (execLineQuiet received s) := by
  unfold execLineQuiet
  split
  · exact idle s
  · dsimp only
    split
    · exact still rfl rfl
    · split <;> exact still rfl rfl

theorem execFrameStart_completes (s : State) : Completes s (execFrameStart s) := by
  unfold execFrameStart
  split
  · exact still rfl rfl
  · exact idle s

/-- LISTEN_ONLY as the station state, whether a restart is in progress or not (R138). -/
theorem enterListenOnly_startup (s : State) :
    s.enterListenOnly.pending = s.pending ∧ s.enterListenOnly.startup = { s.startup with station := .listenOnly } := by
  unfold State.enterListenOnly
  dsimp only
  split <;> exact ⟨rfl, rfl⟩

/-- The own number heard leads from LISTENING or RUNNING to LISTEN_ONLY, and nowhere else (R126). -/
theorem duplicateHeard_carriesOn (s : State) (rx : FrameRx) : s.CarriesOnTo (s.duplicateHeard rx) := by
  have listens : ∀ q : BreachRequest, s.startup.station ≠ .fault →
      s.CarriesOnTo ((s.raise q).setStartup { (s.raise q).startup with listenOnlyMark := true }).enterListenOnly := by
    intro q sound
    obtain ⟨pending, startup⟩ :=
      enterListenOnly_startup ((s.raise q).setStartup { (s.raise q).startup with listenOnlyMark := true })
    refine ⟨pending.trans (raise_keeps s q).pending, ?_, .of_between sound (by rw [startup]; nofun)⟩
    exact (congrArg Startup.config startup).trans (raise_keeps s q).config
  unfold State.duplicateHeard
  split
  · next listening => exact listens _ (by rw [listening]; decide)
  · next running => exact listens _ (by rw [running]; decide)
  all_goals exact of_startup rfl rfl

theorem judgeFrame_carriesOn (s : State) (bytes : List Byte) (rx : FrameRx) : s.CarriesOnTo (s.judgeFrame bytes rx) := by
  unfold State.judgeFrame
  split
  · exact of_startup rfl rfl
  · split
    · exact duplicateHeard_carriesOn s rx
    · exact of_proceeds (takeFrame_proceeds s _ rx)

theorem execFrameComplete_completes (bytes : List Byte) (s : State) : Completes s (execFrameComplete bytes s) := by
  unfold execFrameComplete
  split
  · exact idle s
  · next rx _ =>
    split
    · split
      · exact still rfl rfl
      · split
        · obtain ⟨pending, config, station⟩ := judgeFrame_carriesOn (s.setLink { s.link with rx := none }) bytes rx
          exact next ⟨pending, config, station⟩
        · exact idle s
    · exact idle s

theorem execAttemptStart_completes (s : State) : Completes s (execAttemptStart s) := by
  unfold execAttemptStart
  split
  · exact idle s
  · split
    · exact still rfl rfl
    · exact idle s

theorem execCollision_completes (s : State) : Completes s (execCollision s) := by
  unfold execCollision
  split
  · split
    · exact still rfl rfl
    · dsimp only
      split
      · exact next (of_station rfl rfl rfl)
      · exact still rfl rfl
  · exact idle s

theorem execNoticeCommitted_completes (s : State) : Completes s (execNoticeCommitted s) := by
  unfold execNoticeCommitted
  split
  · exact still rfl rfl
  · exact idle s

theorem execFrameSent_completes (s : State) : Completes s (execFrameSent s) := by
  unfold execFrameSent
  split
  · dsimp only
    split
    · exact next (of_station rfl rfl rfl)
    · exact still rfl rfl
  · exact idle s

theorem execOccupancyBucketEnd_completes (s : State) : Completes s (execOccupancyBucketEnd s) := by
  unfold execOccupancyBucketEnd
  split
  · exact still rfl rfl
  · exact idle s

/-! ### Evidence port -/

theorem commit_carriesOn (s : State) (e : CommitEffect) : s.CarriesOnTo (s.commit e) := by
  cases e <;> exact of_startup rfl rfl

theorem execReadingRequestCommit_completes (s : State) : Completes s (execReadingRequestCommit s) := by
  unfold execReadingRequestCommit
  split
  · exact idle s
  · next x _ =>
    obtain ⟨pending, config, station⟩ :=
      commit_carriesOn (s.setEvidence { s.evidence with txn := some { x with commit := .nothing } }) x.commit
    exact next ⟨pending, config, station⟩

theorem execUnknownRequest_completes (code : Byte) (s : State) : Completes s (execUnknownRequest code s) := answered _ rfl rfl

theorem execReadSummary_completes (s : State) : Completes s (execReadSummary s) := answered _ rfl rfl

theorem execLogRewind_completes (s : State) : Completes s (execLogRewind s) := answered _ rfl rfl

theorem execLogAck_completes (number : BitVec 16) (s : State) : Completes s (execLogAck number s) := answered _ rfl rfl

theorem execVerdictRewind_completes (s : State) : Completes s (execVerdictRewind s) := answered _ rfl rfl

theorem execHoldList_completes (s : State) : Completes s (execHoldList s) := answered _ rfl rfl

theorem execLogNext_completes (s : State) : Completes s (execLogNext s) := by
  refine request _ ?_
  split <;> exact of_startup rfl rfl

theorem execVerdictNext_completes (s : State) : Completes s (execVerdictNext s) := by
  refine request _ ?_
  split <;> exact of_startup rfl rfl

theorem execHoldPlace_completes (a b c d : Word32) (s : State) : Completes s (execHoldPlace a b c d s) := by
  obtain ⟨pending, config, station⟩ := of_proceeds (placeController_proceeds s (argumentTime a b) (argumentTime c d))
  exact request _ ⟨pending, config, station⟩

theorem execHoldRelease_completes (slot : Byte) (s : State) : Completes s (execHoldRelease slot s) := by
  refine request _ ?_
  split
  · exact of_startup rfl rfl
  · obtain ⟨pending, config, station⟩ := of_proceeds (releaseHold_proceeds s slot.toNat)
    exact ⟨pending, config, station⟩

theorem execUnitSeek_completes (slot : Byte) (a b : Word32) (s : State) : Completes s (execUnitSeek slot a b s) := by
  refine request _ ?_
  split <;> exact of_startup rfl rfl

theorem execUnitRead_completes (s : State) : Completes s (execUnitRead s) := by
  refine request _ ?_
  split
  · exact of_startup rfl rfl
  · split
    · exact of_startup rfl rfl
    · split <;> exact of_startup rfl rfl

/-! ### Every command -/

/-- Every command but CONFIG_LOADED and FULL_RESET completes and carries on. -/
theorem exec_completes (c : Instr) (s : State) (noConfig : ∀ bytes, c ≠ .configLoaded bytes) (noReset : c ≠ .fullReset) :
    Completes s (exec c s) := by
  cases c with
  | fullReset => exact absurd rfl noReset
  | configLoaded bytes => exact absurd rfl (noConfig bytes)
  | memoryCheckDone failed => exact execMemoryCheckDone_completes failed s
  | listeningEnd => exact proceeds (listeningEnd_proceeds s)
  | oscillatorTick => exact still rfl rfl
  | unitHeaderComplete bytes => exact execUnitHeaderComplete_completes bytes s
  | payloadComplete payload => exact execPayloadComplete_completes payload s
  | unitDelivery => exact execUnitDelivery_completes s
  | recorderWriteComplete => exact execRecorderWriteComplete_completes s
  | markUnitWrite => exact execMarkUnitWrite_completes s
  | overrunExpiry => exact proceeds (overrunExpiry_proceeds s)
  | audioAbsentDeadline => exact proceeds (audioAbsentDeadline_proceeds s)
  | qualitySilenceExpiry => exact proceeds (qualitySilenceExpiry_proceeds s)
  | tallyBucketBoundary => exact proceeds (tallyBucketBoundary_proceeds s)
  | recoveryExpiry => exact proceeds (recoveryExpiry_proceeds s)
  | historyEntryExpiry => exact proceeds (historyEntryExpiry_proceeds s)
  | referenceSilenceExpiry => exact proceeds (referenceSilenceExpiry_proceeds s)
  | holdoverExpiry => exact proceeds (holdoverExpiry_proceeds s)
  | lineBusy => exact still rfl rfl
  | lineQuiet received => exact execLineQuiet_completes received s
  | frameStart => exact execFrameStart_completes s
  | frameComplete bytes => exact execFrameComplete_completes bytes s
  | attemptStart => exact execAttemptStart_completes s
  | collision => exact execCollision_completes s
  | noticeCommitted => exact execNoticeCommitted_completes s
  | frameSent => exact execFrameSent_completes s
  | occupancyBucketEnd => exact execOccupancyBucketEnd_completes s
  | statusTimerExpiry => exact proceeds (statusTimerExpiry_proceeds s)
  | downshiftDeadline => exact proceeds (downshiftDeadline_proceeds s)
  | peerStaleDeadline station => exact proceeds (peerStaleDeadline_proceeds s station)
  | peerRemovalDeadline station => exact proceeds (peerRemovalDeadline_proceeds s station)
  | divergenceExpiry => exact proceeds (divergenceExpiry_proceeds s)
  | proxyDeadline => exact proceeds (proxyDeadline_proceeds s)
  | holdIntervalClose slot => exact proceeds (holdIntervalClose_proceeds s slot.toNat)
  | holdMaxLengthExpiry slot => exact proceeds (holdMaxLengthExpiry_proceeds s slot.toNat)
  | pulseEnd line => exact proceeds (endPulse_proceeds s line.toNat)
  | chipSelectRise => exact still rfl rfl
  | readingRequestCommit => exact execReadingRequestCommit_completes s
  | unknownRequest code => exact execUnknownRequest_completes code s
  | readSummary => exact execReadSummary_completes s
  | logNext => exact execLogNext_completes s
  | logRewind => exact execLogRewind_completes s
  | logAck number => exact execLogAck_completes number s
  | verdictNext => exact execVerdictNext_completes s
  | verdictRewind => exact execVerdictRewind_completes s
  | holdList => exact execHoldList_completes s
  | holdPlace a b c d => exact execHoldPlace_completes a b c d s
  | holdRelease slot => exact execHoldRelease_completes slot s
  | unitSeek slot seconds micros => exact execUnitSeek_completes slot seconds micros s
  | unitRead => exact execUnitRead_completes s
  | restart => exact execRestart_completes s
  | restartSequence => exact execRestartSequence_completes s
  | missingDelimiter first second => exact execMissingDelimiter_completes first second s

/-- Settles O2: CONFIG_LOADED and FULL_RESET each by its own lemma, every other command by carrying on. -/
theorem everyCommandCompletes : Obligations.EveryCommandCompletes := by
  intro c s
  by_cases reset : c = .fullReset
  · subst reset
    exact ⟨_, exec_fullReset s, rfl, fun _ other => absurd rfl other⟩
  by_cases configures : ∃ bytes, c = .configLoaded bytes
  · obtain ⟨bytes, rfl⟩ := configures
    obtain ⟨t, completed, pending, -⟩ := exec_configLoaded_completes bytes s
    exact ⟨t, completed, pending, fun other => absurd rfl (other bytes)⟩
  · obtain ⟨t, completed, carried⟩ := exec_completes c s (not_exists.mp configures) reset
    exact ⟨t, completed, carried.pending, fun _ _ => carried.config⟩

/-- Settles O7: CONFIG_LOADED leads from LOADING only, and every other command carries the station state on. -/
theorem faultAndLoadingAreLeftForGood : Obligations.FaultAndLoadingAreLeftForGood := by
  intro c s t noReset reached
  by_cases configures : ∃ bytes, c = .configLoaded bytes
  · obtain ⟨bytes, rfl⟩ := configures
    obtain ⟨u, completed, -, station⟩ := exec_configLoaded_completes bytes s
    obtain rfl := Host.Outcome.next.inj (completed.symm.trans reached)
    exact station
  · obtain ⟨u, completed, carried⟩ := exec_completes c s (not_exists.mp configures) noReset
    obtain rfl := Host.Outcome.next.inj (completed.symm.trans reached)
    exact carried.station

end Sys2Proof.Machine
end

section
/-! PROOF. CONFIG_LOADED with a good sum and a valid station number (R189, R190). Settles O9. -/

namespace Sys2Proof.Machine

/-- The Start-up Controller behind a record with a good sum and a station number 1 … 16 (R189). -/
theorem configure_good (u : Startup) {record : List Byte} (good : sumGood record = true)
    (valid : stationNumberOk (readConfig record).stationNumber = true) : u.configure record = { u with
      config := clampConfig (readConfig record)
      configClamped := clampConfig (readConfig record) != readConfig record
      listenOnlyMark := false } := by
  unfold Startup.configure
  rw [if_pos good]
  dsimp only
  rw [if_pos valid, valid, Bool.not_true]

/-- CONFIG_LOADED with a record that requests no CONFIG_FAULT (R189, R190). -/
theorem exec_configLoaded_unmarked {bytes : List Byte} {s : State} (loading : s.startup.station = .loading)
    (length : bytes.length = 128) (unmarked : (s.startup.configure bytes).listenOnlyMark = false) :
    exec (.configLoaded bytes) s =
      .next (s.setStartup { s.startup.configure bytes with station := .checking }) := by
  change execConfigLoaded bytes s = _
  unfold execConfigLoaded
  rw [if_pos loading, recordBytes_of_length length]
  dsimp only
  rw [if_neg (by rw [State.setStartup_startup, unmarked]; decide)]
  rfl

/-- Settles O9: the record is configured without a mark, and the station enters CHECKING. -/
theorem configLoadedGood : Obligations.ConfigLoadedGood := by
  intro bytes s loading length good least most
  have configured := configure_good s.startup good ((stationNumberOk_iff _).mpr ⟨least, most⟩)
  rw [exec_configLoaded_unmarked loading length (congrArg Startup.listenOnlyMark configured), configured]

end Sys2Proof.Machine
end

section
/-! PROOF. The 37 bytes of a breach record, field by field (R184). Settles O19. -/

namespace Sys2Proof.Machine

/-! ### The fields in order -/

/-- Byte 3 of a breach record: what stands of it (R184). -/
def recordStateByte (r : BreachRecord) : Byte :=
  BitVec.ofNat 8 (markBit 0 r.isOpen + markBit 1 r.acked + markBit 2 r.endStamp.isSome + markBit 3 r.figure.isSome
    + markBit 4 r.hold.isSome)

/-- Byte 36 of a breach record: the slot of its hold, or all ones (R184). -/
def recordHoldByte : Option SlotRef → Byte
  | none => 0xFF
  | some h => BitVec.ofNat 8 h.slot

/-- The fields of a breach record's bytes, in order (R184). -/
def recordFields (r : BreachRecord) : List (List Byte) :=
  [beBytes 2 r.number, [BitVec.ofNat 8 r.category.code], [recordStateByte r], [recordFlagsByte r.flags],
    originBytes r.origin, beBytes 4 r.segmentId.toNat, [BitVec.ofNat 8 r.cls.code], [BitVec.ofNat 8 r.scope.code],
    stampBytes r.startStamp, stampBytes? r.endStamp, signedBytes 4 (r.figure.getD 0), [recordHoldByte r.hold]]

/-- The widths of a breach record's fields, in order (R184). -/
def recordWidths : List Nat := [2, 1, 1, 1, 3, 4, 1, 1, 9, 9, 4, 1]

theorem recordBytesOf_eq (r : BreachRecord) : recordBytesOf r = (recordFields r).flatten := by
  cases hold : r.hold <;> simp [recordBytesOf, recordFields, recordStateByte, recordHoldByte, hold]

theorem originBytes_length (o : Origin) : (originBytes o).length = 3 := by
  cases o with
  | own => rfl
  | peer station number => rfl

theorem recordFields_sized (r : BreachRecord) : (recordFields r).map List.length = recordWidths := by
  simp [recordFields, recordWidths, originBytes_length, stampBytes?_length]

theorem recordBytesOf_length (r : BreachRecord) : (recordBytesOf r).length = 37 := by
  rw [recordBytesOf_eq, List.length_flatten, recordFields_sized]
  rfl

theorem record_window {r : BreachRecord} {i at_ n : Nat} {field : List Byte} (is : (recordFields r)[i]? = some field)
    (width : recordWidths[i]? = some n) (place : (recordWidths.take i).sum = at_) :
    ((recordBytesOf r).drop at_).take n = field := by
  rw [recordBytesOf_eq]
  exact window_of_fields (recordFields_sized r) is width place

/-! ### The marks and codes -/

theorem recordStateByte_read (r : BreachRecord) :
    (recordStateByte r).getLsbD 0 = r.isOpen ∧ (recordStateByte r).getLsbD 1 = r.acked ∧
    (recordStateByte r).getLsbD 2 = r.endStamp.isSome ∧ (recordStateByte r).getLsbD 3 = r.figure.isSome ∧
    (recordStateByte r).getLsbD 4 = r.hold.isSome ∧ (recordStateByte r).toNat < 32 := by
  have bits : ∀ a b c d e : Bool,
      let x : Byte := BitVec.ofNat 8 (markBit 0 a + markBit 1 b + markBit 2 c + markBit 3 d + markBit 4 e)
      x.getLsbD 0 = a ∧ x.getLsbD 1 = b ∧ x.getLsbD 2 = c ∧ x.getLsbD 3 = d ∧ x.getLsbD 4 = e ∧ x.toNat < 32 := by
    decide
  exact bits _ _ _ _ _

theorem recordFlagsByte_read (f : RecordFlags) :
    (recordFlagsByte f).getLsbD 0 = f.impaired ∧ (recordFlagsByte f).getLsbD 1 = f.proxy ∧
    (recordFlagsByte f).getLsbD 2 = f.prerollShort ∧ (recordFlagsByte f).getLsbD 3 = f.holdTruncated ∧
    (recordFlagsByte f).getLsbD 4 = f.holdEvicted ∧ (recordFlagsByte f).getLsbD 5 = f.peerLost ∧
    (recordFlagsByte f).getLsbD 6 = f.restartCut := by
  have bits : ∀ a b c d e g h : Bool,
      let x : Byte := BitVec.ofNat 8 (markBit 0 a + markBit 1 b + markBit 2 c + markBit 3 d + markBit 4 e + markBit 5 g
        + markBit 6 h)
      x.getLsbD 0 = a ∧ x.getLsbD 1 = b ∧ x.getLsbD 2 = c ∧ x.getLsbD 3 = d ∧ x.getLsbD 4 = e ∧ x.getLsbD 5 = g ∧
        x.getLsbD 6 = h := by decide
  exact bits _ _ _ _ _ _ _

theorem Category.code_toNat (c : Category) : (BitVec.ofNat 8 c.code).toNat = c.code := by cases c <;> rfl

/-! ### What is read back -/

/-- The origin: all zero for an own record, else the station and the peer's number (R184). -/
theorem record_origin (r : BreachRecord) : (r.origin = .own → natAt (recordBytesOf r) 5 3 = 0) ∧
    (∀ station number, r.origin = .peer station number → number < 65536 →
      byteAt (recordBytesOf r) 5 = station ∧ natAt (recordBytesOf r) 6 2 = number) := by
  have window := record_window (r := r) (i := 4) (at_ := 5) rfl rfl rfl
  refine ⟨fun own => ?_, fun station number peer small => ?_⟩
  · rw [own] at window
    exact congrArg beNat window
  · rw [peer] at window
    exact ⟨byteAt_of_window window (j := 0) (by decide),
      (natAt_of_window window (j := 1) (k := 2) (by decide)).trans (beNat_beBytes_of_lt (k := 2) small)⟩

theorem record_endStamp (r : BreachRecord) : (r.endStamp = none → natAt (recordBytesOf r) 23 9 = 0) ∧
    (∀ e, r.endStamp = some e → e.time ≤ shelfMax → readStamp? (recordBytesOf r) 23 = some e) := by
  have window := record_window (r := r) (i := 9) (at_ := 23) rfl rfl rfl
  refine ⟨fun absent => ?_, fun e given within => ?_⟩
  · rw [absent] at window
    exact congrArg beNat window
  · rw [given] at window
    exact readStamp?_of_stamp window within

/-- A number not negative, written in two's complement, reads as itself while it fits the bytes. -/
theorem beNat_signedBytes {k : Nat} {x : Int} (least : 0 ≤ x) (fits : x < 2 ^ (8 * k)) :
    beNat (signedBytes k x) = x.toNat := by
  have bound : x.toNat < 2 ^ (8 * k) := (Int.toNat_lt least).mpr (by exact_mod_cast fits)
  have value : (BitVec.ofInt (8 * k) x).toNat = x.toNat := by
    rw [← Int.toNat_of_nonneg least, BitVec.ofInt_natCast, BitVec.toNat_ofNat, Nat.mod_eq_of_lt bound, Int.toNat_natCast]
  rw [signedBytes, value, beNat_beBytes_of_lt (by rwa [show 256 ^ k = 2 ^ (8 * k) from (Nat.pow_mul 2 8 k).symm])]

/-- The figure, a count or a level as its category has it, and 0 where it is absent (R184). -/
theorem record_figure (r : BreachRecord) : (r.figure = none → natAt (recordBytesOf r) 32 4 = 0) ∧
    (∀ x : Int, r.figure = some x → 0 ≤ x → x < 2 ^ 32 → natAt (recordBytesOf r) 32 4 = x.toNat) ∧
    (∀ x : Int, r.figure = some x → -2 ^ 31 ≤ x → x < 2 ^ 31 → intAt (recordBytesOf r) 32 4 = x) := by
  have window := record_window (r := r) (i := 10) (at_ := 32) rfl rfl rfl
  refine ⟨fun absent => ?_, fun x given least most => ?_, fun x given low high => ?_⟩
  · rw [absent] at window
    exact congrArg beNat window
  · rw [given] at window
    exact (congrArg beNat window).trans (beNat_signedBytes (k := 4) least most)
  · rw [given] at window
    exact intAt_of_signed (by decide) window low high

theorem record_hold (r : BreachRecord) : (r.hold = none → byteAt (recordBytesOf r) 36 = 0xFF) ∧
    (∀ h, r.hold = some h → h.slot < 32 → (byteAt (recordBytesOf r) 36).toNat = h.slot) := by
  have field : byteAt (recordBytesOf r) 36 = recordHoldByte r.hold := byteAt_of_field (record_window (i := 11) rfl rfl rfl)
  refine ⟨fun absent => by rw [field, absent, recordHoldByte], fun h held small => ?_⟩
  rw [field, held, recordHoldByte, BitVec.toNat_ofNat]
  omega

/-- Settles O19: each field by its place (`record_window`) and what is read back from it. -/
theorem recordLayout : Obligations.RecordLayout := by
  intro r small within
  obtain ⟨isOpen, acked, ended, figured, held, few⟩ := recordStateByte_read r
  obtain ⟨impaired, proxy, preroll, truncated, evicted, lost, cut⟩ := recordFlagsByte_read r.flags
  obtain ⟨own, peer⟩ := record_origin r
  obtain ⟨endless, endStamp⟩ := record_endStamp r
  obtain ⟨noFigure, figure, signedFigure⟩ := record_figure r
  obtain ⟨noHold, hold⟩ := record_hold r
  have state : byteAt (recordBytesOf r) 3 = recordStateByte r := byteAt_of_field (record_window (i := 2) rfl rfl rfl)
  have flags : byteAt (recordBytesOf r) 4 = recordFlagsByte r.flags :=
    byteAt_of_field (record_window (i := 3) rfl rfl rfl)
  dsimp only
  rw [state, flags]
  exact ⟨recordBytesOf_length r, natAt_of_number (record_window (i := 0) rfl rfl rfl) small,
    (natAt_of_byte (record_window (i := 1) rfl rfl rfl)).trans r.category.code_toNat, isOpen, acked, ended, figured, held,
    few, impaired, proxy, preroll, truncated, evicted, lost, cut, own, peer,
    natAt_of_number (record_window (i := 5) rfl rfl rfl) r.segmentId.isLt,
    (natAt_of_byte (record_window (i := 6) rfl rfl rfl)).trans r.cls.code_toNat,
    (natAt_of_byte (record_window (i := 7) rfl rfl rfl)).trans r.scope.code_toNat,
    readStamp?_of_stamp (record_window (i := 8) rfl rfl rfl) within, endless, endStamp, noFigure, figure, signedFigure,
    noHold, hold⟩

end Sys2Proof.Machine
end

section
/-! PROOF. READ_SUMMARY: its 66 bytes and the reduction of the ten counts at its commit point (R183). Settles O17. -/

namespace Sys2Proof.Machine

theorem exec_readSummary {s : State} (idle : s.evidence.txn = none) :
    exec .readSummary s = .next (s.answer s.summaryBytes (.summary s.counts)) :=
  (show exec .readSummary s = execReadSummary s from rfl).trans (request_served idle _)

/-- READING_REQUEST_COMMIT does what the transaction's commit point is to do, once (R182). -/
theorem exec_readingRequestCommit {s : State} {x : Transaction} (begun : s.evidence.txn = some x) :
    exec .readingRequestCommit s = .next
      ((s.setEvidence { s.evidence with txn := some { x with commit := .nothing } }).commit x.commit) := by
  change execReadingRequestCommit s = _
  unfold execReadingRequestCommit
  rw [begun]

theorem summaryBytes_length (s : State) : s.summaryBytes.length = 66 := by
  simp [State.summaryBytes, State.counts]

/-- The summary's bytes, given its code bytes and its flags byte (R183). -/
theorem summaryBytes_of_codes {s : State} {station period reception flags : Byte}
    (isStation : station = BitVec.ofNat 8 s.startup.station.code)
    (isPeriod : period = BitVec.ofNat 8 s.link.period.code)
    (isReception : reception = BitVec.ofNat 8 s.reception.state.code) (isFlags : flags = s.configFlags) :
    [station, BitVec.ofNat 8 s.startup.config.stationNumber] ++ stampBytes s.nowStamp ++
      [period, reception, BitVec.ofNat 8 s.reception.effective] ++ beBytes 2 s.recorder.pinnedTotal ++
      [BitVec.ofNat 8 s.recorder.freeSlots, flags, BitVec.ofNat 8 s.startup.checkResult,
        BitVec.ofNat 8 s.log.records.length, BitVec.ofNat 8 s.openBreaches, if s.log.full then 1 else 0] ++
      beBytes 2 s.log.ackPoint ++ beBytes 2 s.log.nextNumber ++ (s.counts.map (beBytes 4)).flatten = s.summaryBytes := by
  subst isStation isPeriod isReception isFlags
  rfl

/-- The flags byte, mark by mark (R183). -/
theorem configFlags_eq (s : State) : s.configFlags = BitVec.ofNat 8 ((if s.startup.configClamped then 1 else 0) +
    (if s.startup.defaultsInUse then 2 else 0) + (if s.startup.listenOnlyMark then 4 else 0)) := rfl

/-- Settles O17: the bytes by their codes, the commit by `reduceCounts`. -/
theorem readSummary : Obligations.ReadSummary := by
  intro s idle counts r
  have same : r = s.summaryBytes := by
    refine summaryBytes_of_codes ?_ ?_ ?_ (configFlags_eq s).symm
    · cases s.startup.station <;> rfl
    · cases s.link.period <;> rfl
    · cases s.reception.state <;> rfl
  rw [same]
  refine ⟨exec_readSummary idle, summaryBytes_length s, fun u formed => ⟨⟨_, exec_readingRequestCommit formed, ?_⟩, rfl⟩⟩
  and_intros <;> rfl

end Sys2Proof.Machine
end

section
/-! PROOF. Transactions: which request is served, the request codes and their arguments, the bits and the data out (R181, R182;
log 1, 30). Settles O23. -/

namespace Sys2Proof.Machine

/-! ### One request a transaction (R181) -/

/-- While a transaction is in progress no other request is served (log 30). -/
theorem request_busy {s : State} {x : Transaction} (busy : s.evidence.txn = some x) (serve : State → State) :
    s.request serve = .next s := by
  unfold State.request
  rw [busy]

/-- With no transaction in progress a commit changes nothing (log 1). -/
theorem exec_readingRequestCommit_idle {s : State} (idle : s.evidence.txn = none) :
    exec .readingRequestCommit s = .next s := by
  change execReadingRequestCommit s = _
  unfold execReadingRequestCommit
  rw [idle]

/-- A code not in the table: the fill 0xFF and nothing else (R181). -/
theorem exec_unknownRequest {s : State} (idle : s.evidence.txn = none) (code : Byte) : exec (.unknownRequest code) s =
    .next (s.setEvidence { s.evidence with txn := some ⟨[], 0xFF, .nothing⟩ }) :=
  (show exec (.unknownRequest code) s = execUnknownRequest code s from rfl).trans (request_served idle _)

/-- The requests of the port, every one of them idle while a transaction is in progress. -/
theorem exec_request_busy {s : State} {x : Transaction} (busy : s.evidence.txn = some x) (code slot : Byte)
    (number : BitVec 16) (a b c d : Word32) :
    ∀ q ∈ [Instr.readSummary, .logNext, .logRewind, .logAck number, .verdictNext, .verdictRewind, .holdList,
      .holdPlace a b c d, .holdRelease slot, .unitSeek slot a b, .unitRead, .restart, .unknownRequest code],
      exec q s = .next s := by
  simp only [List.forall_mem_cons, exec, execReadSummary, execLogNext, execLogRewind, execLogAck, execVerdictNext,
    execVerdictRewind, execHoldList, execHoldPlace, execHoldRelease, execUnitSeek, execUnitRead, execRestart,
    execUnknownRequest, request_busy busy, List.not_mem_nil, false_implies, implies_true, and_true]

/-! ### The request read (R181, R182) -/

/-- A request byte with its argument bytes makes its request, whatever follows (R181). -/
theorem readRequest?_of_arguments {code : Byte} {args : List Byte} (complete : args.length = requestArguments code)
    (rest : List Byte) : readRequest? (code :: (args ++ rest)) = some (requestOf code args) := by
  have enough : requestArguments code ≤ (args ++ rest).length := by
    rw [List.length_append]
    omega
  rw [readRequest?, if_pos enough, List.take_left' complete]

/-- A request whose argument bytes are incomplete is none yet (R181). -/
theorem readRequest?_incomplete {code : Byte} {rest : List Byte} (short : rest.length < requestArguments code) :
    readRequest? (code :: rest) = none := if_neg (Nat.not_le.mpr short)

theorem wordAt_of_window {args : List Byte} {at_ : Nat} {w : Word32}
    (window : (args.drop at_).take 4 = beBytes 4 w.toNat) : wordAt args at_ = w :=
  ofNat_eq_of_toNat (natAt_of_number window w.isLt)

theorem requestOf_logAck (number : BitVec 16) : requestOf 0x22 (beBytes 2 number.toNat) = .logAck number :=
  congrArg Instr.logAck (ofNat_eq_of_toNat (natAt_of_number (at_ := 0) (k := 2) rfl number.isLt))

theorem requestOf_holdPlace (a b c d : Word32) :
    requestOf 0x41 (beBytes 4 a.toNat ++ beBytes 4 b.toNat ++ beBytes 4 c.toNat ++ beBytes 4 d.toNat) = .holdPlace a b c d := by
  let args := beBytes 4 a.toNat ++ beBytes 4 b.toNat ++ beBytes 4 c.toNat ++ beBytes 4 d.toNat
  change Instr.holdPlace (wordAt args 0) (wordAt args 4) (wordAt args 8) (wordAt args 12) = _
  rw [wordAt_of_window (w := a) rfl, wordAt_of_window (w := b) rfl, wordAt_of_window (w := c) rfl,
    wordAt_of_window (w := d) rfl]

theorem requestOf_unitSeek (slot : Byte) (a b : Word32) :
    requestOf 0x50 (slot :: (beBytes 4 a.toNat ++ beBytes 4 b.toNat)) = .unitSeek slot a b := by
  let args := slot :: (beBytes 4 a.toNat ++ beBytes 4 b.toNat)
  change Instr.unitSeek slot (wordAt args 1) (wordAt args 5) = _
  rw [wordAt_of_window (w := a) rfl, wordAt_of_window (w := b) rfl]

/-- The request codes of the table (R182). -/
def requestCodes : List Nat := [0x10, 0x20, 0x21, 0x22, 0x30, 0x31, 0x40, 0x41, 0x42, 0x50, 0x51, 0x7E]

/-- A code not in the table has no argument bytes (R181). -/
theorem requestArguments_unknown {code : Byte} (other : ∀ n ∈ requestCodes, code ≠ BitVec.ofNat 8 n) :
    requestArguments code = 0 := by
  rw [requestArguments, if_neg, if_neg, if_neg, if_neg]
  exacts [other 0x50 (by decide), other 0x42 (by decide), other 0x41 (by decide), other 0x22 (by decide)]

theorem requestOf_unknown {code : Byte} (other : ∀ n ∈ requestCodes, code ≠ BitVec.ofNat 8 n) (args : List Byte) :
    requestOf code args = .unknownRequest code := by
  have away : ∀ n ∈ requestCodes, code.toNat ≠ n := fun n listed is => other n listed (ofNat_eq_of_toNat is.symm).symm
  unfold requestOf
  split
  case h_13 => rfl
  all_goals
    next is => exact absurd is (away _ (by decide))

/-- A code not in the table is an unknown request (R181). -/
theorem readRequest?_unknown {code : Byte} (unknown : code ∉ requestCodes.map (BitVec.ofNat 8)) (rest : List Byte) :
    readRequest? (code :: rest) = some (.unknownRequest code) := by
  have other : ∀ n ∈ requestCodes, code ≠ BitVec.ofNat 8 n := fun n listed is =>
    unknown (is ▸ List.mem_map_of_mem listed)
  exact (readRequest?_of_arguments (args := []) (requestArguments_unknown other).symm rest).trans
    (congrArg some (requestOf_unknown other []))

/-! ### Bits in and data out (R181) -/

/-- Eight bits make a byte, most significant first. -/
theorem bytesOfBits_byte (b : Byte) (bits : List Bool) :
    bytesOfBits ((List.range 8).map (fun k => b.getLsbD (7 - k)) ++ bits) = b :: bytesOfBits bits := by
  have read : bytesOfBits ((List.range 8).map (fun k => b.getLsbD (7 - k)) ++ bits) =
      byteOfBits ((List.range 8).map (fun k => b.getLsbD (7 - k))) :: bytesOfBits bits := rfl
  rw [read, byteOfBits_bits]

/-- An incomplete byte leaves no trace. -/
theorem bytesOfBits_short {bits : List Bool} (short : bits.length < 8) : bytesOfBits bits = [] := by
  unfold bytesOfBits
  split
  · simp only [List.length_cons] at short
    omega
  · rfl

theorem dataOut_response {x : Transaction} {n : Nat} {b : Byte} (at_ : x.response[n]? = some b) :
    x.dataOut (n + 1) = b := by
  rw [Transaction.dataOut, List.getD_eq_getElem?_getD, at_, Option.getD_some]

theorem dataOut_fill {x : Transaction} {n : Nat} (past : x.response.length ≤ n) : x.dataOut (n + 1) = x.fill :=
  List.getD_eq_default _ _ past

theorem dataOutBit_eq (x : Transaction) (n : Nat) {k : Nat} (inside : k < 8) :
    x.dataOutBit (8 * n + k) = (x.dataOut n).getLsbD (7 - k) := by
  have byte : (8 * n + k) / 8 = n := by omega
  have bit : (8 * n + k) % 8 = k := by omega
  rw [Transaction.dataOutBit, byte, bit]

/-- Settles O23: the transactions, the requests read, the bits and the data out, each by the lemmas above. -/
theorem transactions : Obligations.Transactions := by
  refine ⟨fun s => ⟨fun code idle => exec_unknownRequest idle code, rfl, exec_readingRequestCommit_idle,
      fun x busy => exec_request_busy busy⟩,
    fun rest code slot number a b c d => ?requests, fun b bits => ⟨bytesOfBits_byte b bits, bytesOfBits_short⟩,
    fun x n => ⟨rfl, fun b => dataOut_response, dataOut_fill, fun k => dataOutBit_eq x n⟩⟩
  have plain := fun {code : Byte} (none_ : 0 = requestArguments code) => readRequest?_of_arguments (args := []) none_ rest
  exact ⟨rfl, plain rfl, plain rfl, plain rfl,
    (readRequest?_of_arguments rfl rest).trans (congrArg some (requestOf_logAck number)), plain rfl, plain rfl, plain rfl,
    (readRequest?_of_arguments rfl rest).trans (congrArg some (requestOf_holdPlace a b c d)),
    readRequest?_of_arguments (args := [slot]) rfl rest,
    (readRequest?_of_arguments rfl rest).trans (congrArg some (requestOf_unitSeek slot a b)), plain rfl, plain rfl,
    fun unknown => readRequest?_unknown unknown rest, fun short => readRequest?_incomplete short,
    fun short => readRequest?_incomplete short, readRequest?_incomplete Nat.zero_lt_one,
    fun short => readRequest?_incomplete short⟩

end Sys2Proof.Machine
end

section
/-! PROOF. One step, by what waits at the front of the queue (log 3). Settles O1. -/

namespace Sys2Proof.Machine

/-- A waiting command is taken from the queue and run on the state with the queue's rest. -/
theorem step_of_waiting {s : State} {c : Instr} {rest : List Instr} (waiting : s.pending = c :: rest) :
    step s = exec c (s.setPending rest) := by
  rw [step, waiting]

/-- With no command waiting the block idles (log 3). -/
theorem step_of_idle {s : State} (idle : s.pending = []) : step s = .next s := by
  rw [step, idle]

/-- A second placing of the queue replaces the first. -/
@[simp] theorem State.setPending_setPending (s : State) (x y : List Instr) :
    (s.setPending x).setPending y = s.setPending y := rfl

/-- Settles O1: by what waits, a command at the front or none. -/
theorem stepRunsFrontCommand : Obligations.StepRunsFrontCommand := by
  refine ⟨fun c rest s => ?front, fun s => step_of_idle⟩
  rw [step_of_waiting (s.setPending_pending (c :: rest)), State.setPending_setPending]

end Sys2Proof.Machine
end
